-- ==== Sys2Proof/Word.lean ====
section
/-! DEFINITION. The word types of the VQ-2630: bytes, pairs and the 32- and 64-bit words of its registers. -/

namespace Sys2Proof

abbrev Byte := BitVec 8
abbrev Half := BitVec 16
abbrev Word := BitVec 32
abbrev Dword := BitVec 64

/-- A string of bytes, first byte first. -/
abbrev Bytes := List Byte

end Sys2Proof
end

