-- ==== Sys2Proof/Syntax.lean ====
section
/-! DEFINITION. The commands of the block: one constructor of `Instr` for each row of opcode_table.json. The table
gives a row no operands; each command carries what the rule its row names needs from outside the device. -/

namespace Sys2Proof

/-- The two Jarley cores (14 R596); also names their windows and channels. -/
inductive CoreId where | curator | registrar
  deriving DecidableEq, Repr

/-- The initiators that access registers (01 R34, R37). -/
inductive Init where | curator | registrar | debug
  deriving DecidableEq, Repr

/-- The Catalogue ports in the rank order of 07 R311; the codes of 07 Table 07-5 are the positions 0 to 6. -/
inductive Port where | internal | host | canA | canB | twoWire | contactless | debug | curator
  deriving DecidableEq, Repr

/-- Access sizes of 15 R643. `bad` is the illegal size code 3. -/
inductive Size where | byte | pair | quad | bad
  deriving DecidableEq, Repr

/-- Bit errors of one sensing pass of the OTP: offset and the bits read wrong. -/
abbrev SenseErr := List (Nat × Byte)

/-- The sensing passes of shadows A and B that a step makes: the first pass and its re-senses, in order. A pass that
the list does not reach has no bit errors. -/
abbrev Sensing := List (SenseErr × SenseErr)

/-- The engines of the Vault's channels (06 R271), and the key lane. -/
inductive Engine where | aes | sha | ecc | key
  deriving DecidableEq, Repr

/-- What the world brings to a Cold start. -/
structure StartEnv where
  /-- The OTP sensing passes of 12 Table 12-5 step 3. -/
  sensing : Sensing
  /-- The PLL locked at step 2. -/
  pllLocked : Bool
  /-- What strikes the Vault's keys from this start on: `n` below 9, an attempt at deriving slot `n` whose two results
  differ (06 R255); `16 + n`, a use of slot `n` that finds its two copies different (06 R259). -/
  keyFaults : List Nat
  /-- The programs of the new epoch word that do not verify (05 R198). -/
  epochFaults : Nat := 0
  /-- Transfers whose parity fails from this start on, beside those that an operand of a row names: initiator and physical
  address (01 R16). Each strikes once. -/
  busFaults : List (Nat × Nat) := []
  /-- Order keys whose ceiling write of this start is held by PFW_N or fails (04 R746). -/
  heldCeilings : List Nat := []
  deriving DecidableEq, Repr

/-- An ISO/IEC 7816-4 short command of the contactless port: header, data, the Lc it names, and how many chained I-blocks came before
the block that ends it. -/
structure Apdu where
  cla : Byte
  ins : Byte
  p1 : Byte
  p2 : Byte
  data : Bytes
  lc : Nat := data.length
  chained : Nat := 0
  deriving DecidableEq, Repr

/-- What a frame on a CAN bus says of itself before its data: identifier, base or extended format, data or remote frame, FD or classical
(09 Table 09-1). -/
structure CanHead where
  id : Nat
  fd : Bool := true
  ext : Bool := false
  rtr : Bool := false
  deriving DecidableEq, Repr

/-- The end of an engine's work on a command of the Vault (06 R271): the engine, and how many attempts at a signature gave two results
that differ (06 R272). -/
structure EngineEnd where
  engine : Engine
  faults : Nat := 0
  deriving DecidableEq, Repr

/-- A transaction on the two-wire bus: the address it names, and whether a STOP ends it or a repeated START (09 R407, R420). -/
structure TwHead where
  addr : BitVec 7
  stop : Bool := true
  deriving DecidableEq, Repr

/-- What the external sensor's transfer brought (11 R509): two bytes, or a TWM_RES failure code. -/
inductive SensorRead where
  | value (b0 b1 : Byte)
  | failed (code : Byte)
  deriving DecidableEq, Repr

/-- The commands. -/
inductive Instr where
  -- resets and supplies
  | powerGood (env : StartEnv)
  | resetNAsserted (lowNs : Nat)
  | deferredReset
  | resetNReleased (env : StartEnv)
  | brownOut (vcore off : Bool)
  | pfwNAsserted
  | pfwNDeasserted
  | fieldOn (senses : SenseErr × SenseErr) (faults : List Nat)
  | fieldOff
  -- time base and mains phase
  | ppsEdge (highNs : Nat)
  /-- The widths of the frame's elements in ns (02 R58). -/
  | irigFrame (format : Fin 8) (elements : List Nat)
  | irigOnTimeEdge
  | sourceTimeout
  | holdoverLimitExpiry
  | leapApply
  | zcCrossing (input : Fin 3)
  | missingCrossing (input : Fin 3)
  | phaseSuppressionEnd (input : Fin 3)
  | ppsOutStart
  | ppsOutEnd
  | clockMonitorWindow (deviation : Int) (locked : Bool)
  | pllRestore
  -- accession
  | biTransition (n : Fin 24)
  | debounceExpiry (n : Fin 24)
  | candidateAbandon (n : Fin 24)
  | chatterWindowClose (n : Fin 24)
  | quietTimeExpiry (n : Fin 24)
  | seal (parity : Bool)
  | checkpointTrigger
  | checkpointSigned (faults : Nat)
  | firmwarePost (i : Init) (value : Byte)
  -- orders
  | hostOrder (a1 a2 a3 : Byte) (msg : Bytes)
  | verify
  | releaseInstant
  | pulseEnd
  | confirmReadback (pads : Byte)
  | armNLow
  | armNArmed
  | armNDisarm (highNs : Nat)
  | latchClear (port : Port) (co : Fin 8)
  -- Conservator
  | program (i : Init) (w : CoreId)
  | erase (i : Init) (w : CoreId)
  | cancel (i : Init) (w : CoreId)
  | flashOperationStart
  | programDone (unverified : List Nat)
  | eraseDone (ok : Bool)
  | infoPageEraseDone (ok : Bool)
  | eraseResume
  | journalPageTimeout
  | passDue
  | passBlockInterval (weak : List Nat)
  -- Vault and entropy
  | ecbEncrypt (i : Init) (ch : CoreId)
  | ecbDecrypt (i : Init) (ch : CoreId)
  | cbcEncrypt (i : Init) (ch : CoreId)
  | cbcDecrypt (i : Init) (ch : CoreId)
  | ctr (i : Init) (ch : CoreId)
  | cmac (i : Init) (ch : CoreId)
  | sha256 (i : Init) (ch : CoreId)
  | hmac (i : Init) (ch : CoreId)
  | ecdsaSign (i : Init) (ch : CoreId)
  | ecdsaVerify (i : Init) (ch : CoreId)
  | ecdh (i : Init) (ch : CoreId)
  | publicKey (i : Init) (ch : CoreId)
  | loadKey (i : Init) (ch : CoreId)
  | clearKey (i : Init) (ch : CoreId)
  | vaultCommandDone (done : EngineEnd)
  | wrappedKeyWriteDone (ok : Bool)
  | entropyStartupTestDone (samples : List Bool)
  | trnRestart (i : Init) (value : Byte)
  | trnDataRead (i : Init)
  -- Catalogue
  | arbiterWindowClose
  | begin (port : Port)
  | commit (port : Port)
  | rollback (port : Port)
  | commitAtZeroCrossing (port : Port)
  | crossingApplyTimeout
  | transactionTimeout
  | storeImageVerified (ok : Bool)
  | internalImageTimer
  | firmwareRequestTimeout
  | catChannelRead (i : Init) (ch : CoreId)
  | catChannelWrite (i : Init) (ch : CoreId)
  -- host port
  | status (a1 a2 a3 : Byte) (payload : Bytes)
  | catRead (a1 a2 a3 : Byte) (payload : Bytes)
  | catWrite (a1 a2 a3 : Byte) (payload : Bytes)
  | recRead (a1 a2 a3 : Byte) (payload : Bytes)
  | recStatus (a1 a2 a3 : Byte) (payload : Bytes)
  | todSet (a1 a2 a3 : Byte) (payload : Bytes)
  | loanGetChallenge (a1 a2 a3 : Byte) (payload : Bytes)
  | loanPresent (a1 a2 a3 : Byte) (payload : Bytes)
  | imageBlock (a1 a2 a3 : Byte) (payload : Bytes)
  | respFetch (a1 a2 a3 : Byte) (crcOk : Bool) (clocks : Nat)
  | deferredComplete
  | hcsNFall
  | attentionPulse
  | attentionPulseEnd
  -- CAN
  | capRead (bus : Bool) (head : CanHead) (data : Bytes)
  | capWrite (bus : Bool) (head : CanHead) (data : Bytes)
  | capWriteInit (bus : Bool) (head : CanHead) (data : Bytes)
  | capWriteSeg (bus : Bool) (head : CanHead) (data : Bytes)
  | capReadSeg (bus : Bool) (head : CanHead) (data : Bytes)
  | capEndTransfer (bus : Bool) (head : CanHead) (data : Bytes)
  | segmentTimeout
  | canTimeFrame (bus : Bool) (frame : CanHead × Bytes)
  | canFrameSent (bus : Bool)
  | busOffRecovery (bus : Bool)
  -- two-wire
  | twWriteTransaction (head : TwHead) (data : Bytes)
  | twReadTransaction (head : TwHead) (count : Nat)
  | proxyRead
  | proxyWrite
  | twmStart (i : Init) (value : Byte)
  | twmTransferDone (sdaLow : Fin 11) (addressAck dataAck : Bool) (read : Bytes)
  | twmRetryGap
  | twmClockHeldTimeout
  -- contactless
  | reqa
  | wupa
  | hlta
  | anticollision (level : Fin 2) (bits : List Bool)
  | select (level : Fin 2) (uidBytes : Bytes)
  | rats (param : Byte)
  | pps (pps0 pps1 : Byte)
  | sDeselect
  | sWtxResponse (wtxm : Nat)
  /-- The bound, in ticks, of the reads that go before the engine's own (05 R215, 10 R457; log 68). -/
  | wtxTimer (ahead : Nat)
  | selectApp (a : Apdu)
  | verifyPassword (a : Apdu)
  | auth1 (a : Apdu)
  | auth2 (a : Apdu)
  | getPlacard (a : Apdu)
  | readJournal (a : Apdu)
  | readObject (a : Apdu)
  | writeMemo (a : Apdu)
  | failureAnswerDelay
  | fieldClearTimeout
  | placardWrite
  -- Registrar
  | temperatureSample (t1 t2 : Int)
  | temperatureDisagreement
  | externalSensorPoll (r : SensorRead)
  | supplyOutOfRange (rail : Fin 3) (mV : Nat)
  | supplyBackInRange (rail : Fin 3) (mV : Nat)
  | vcoreGlitch (ns : Nat)
  | biBurstWindow (n : Fin 24)
  | shadowCompare (sensing : Sensing)
  | alertClear (port : Port) (bits : Byte)
  | watchdogKick (i : Init) (first second : Byte)
  | watchdogExpiry
  | answerSend (i : Init) (value : Byte)
  | ledgerPageTimeout
  | ledgerHour
  | openCuratorImage (port : Port)
  | openRegistrarImage (port : Port)
  | blockData (port : Port) (data : Bytes)
  | verifyImage (port : Port)
  | activateAtNextStart (port : Port)
  | activateNow (port : Port)
  | abortTransfer (port : Port)
  | rollBackCurator (port : Port)
  | rollBackRegistrar (port : Port)
  | imageTransferTimeout
  -- start
  | currel
  | startTimerExpiry (env : StartEnv)
  | confirm (i : Init) (value : Byte)
  | confirmWindowClose
  | retry (port : Port) (env : StartEnv)
  | retryWithOverride (port : Port) (env : StartEnv)
  -- debug port, OTP, loans
  | debugId (crcOk : Bool)
  | debugRd (addr : Word) (len : Nat) (crcOk parity : Bool)
  | debugWr (addr : Word) (data : Bytes) (crcOk parity : Bool)
  | challenge (i : Init)
  | presentLoan (i : Init)
  | otpProgram (i : Init)
  | otpProgramDone (verified : Bool) (sensing : Sensing)
  | transition (i : Init)
  | transitionDone (ok1 ok2 : Bool) (sensing : Sensing)
  | halt (i : Init)
  | resume (i : Init)
  | step (i : Init)
  | dbgCatRead (i : Init)
  | dbgCatWrite (i : Init)
  -- registers
  | latchRead (i : Init) (addr : Word)
  | registerWrite (i : Init) (addr : Word) (value : Byte)
  -- Jarley: register ALU
  | mov (c : CoreId) (d s : Fin 16)
  | add (c : CoreId) (d s : Fin 16)
  | adc (c : CoreId) (d s : Fin 16)
  | sub (c : CoreId) (d s : Fin 16)
  | sbc (c : CoreId) (d s : Fin 16)
  | and (c : CoreId) (d s : Fin 16)
  | or (c : CoreId) (d s : Fin 16)
  | xor (c : CoreId) (d s : Fin 16)
  | cmp (c : CoreId) (d s : Fin 16)
  | tst (c : CoreId) (d s : Fin 16)
  | shl (c : CoreId) (d s : Fin 16)
  | shr (c : CoreId) (d s : Fin 16)
  | asr (c : CoreId) (d s : Fin 16)
  | rol (c : CoreId) (d s : Fin 16)
  | ror (c : CoreId) (d s : Fin 16)
  | movw (c : CoreId) (d s : Fin 8)
  | addw (c : CoreId) (d s : Fin 8)
  | adcw (c : CoreId) (d s : Fin 8)
  | subw (c : CoreId) (d s : Fin 8)
  | sbcw (c : CoreId) (d s : Fin 8)
  | andw (c : CoreId) (d s : Fin 8)
  | orw (c : CoreId) (d s : Fin 8)
  | xorw (c : CoreId) (d s : Fin 8)
  | cmpw (c : CoreId) (d s : Fin 8)
  | tstw (c : CoreId) (d s : Fin 8)
  | shlw (c : CoreId) (d s : Fin 8)
  | shrw (c : CoreId) (d s : Fin 8)
  | asrw (c : CoreId) (d s : Fin 8)
  | mulw (c : CoreId) (d s : Fin 8)
  | sxt (c : CoreId) (d s : Fin 8)
  | zxt (c : CoreId) (d s : Fin 8)
  | mul (c : CoreId) (signed : Bool) (d : Fin 8) (x y : Fin 16)
  -- Jarley: immediates
  | movi (c : CoreId) (d : Fin 16) (imm : Byte)
  | addi (c : CoreId) (d : Fin 16) (imm : Byte)
  | cmpi (c : CoreId) (d : Fin 16) (imm : Byte)
  | subi (c : CoreId) (d : Fin 16) (imm : Byte)
  | andi (c : CoreId) (d : Fin 16) (imm : Byte)
  | ori (c : CoreId) (d : Fin 16) (imm : Byte)
  | xori (c : CoreId) (d : Fin 16) (imm : Byte)
  | tsti (c : CoreId) (d : Fin 16) (imm : Byte)
  | adci (c : CoreId) (d : Fin 16) (imm : Byte)
  | sbci (c : CoreId) (d : Fin 16) (imm : Byte)
  | movwi (c : CoreId) (d : Fin 8) (imm : Half)
  | addwi (c : CoreId) (d : Fin 8) (imm : Half)
  | subwi (c : CoreId) (d : Fin 8) (imm : Half)
  | cmpwi (c : CoreId) (d : Fin 8) (imm : Half)
  | andwi (c : CoreId) (d : Fin 8) (imm : Half)
  | orwi (c : CoreId) (d : Fin 8) (imm : Half)
  | xorwi (c : CoreId) (d : Fin 8) (imm : Half)
  | tstwi (c : CoreId) (d : Fin 8) (imm : Half)
  | shli (c : CoreId) (d : Fin 16) (n : Fin 8)
  | shri (c : CoreId) (d : Fin 16) (n : Fin 8)
  | asri (c : CoreId) (d : Fin 16) (n : Fin 8)
  | roli (c : CoreId) (d : Fin 16) (n : Fin 8)
  | rori (c : CoreId) (d : Fin 16) (n : Fin 8)
  | shlwi (c : CoreId) (d : Fin 8) (n : Fin 16)
  | shrwi (c : CoreId) (d : Fin 8) (n : Fin 16)
  | asrwi (c : CoreId) (d : Fin 8) (n : Fin 16)
  | rolwi (c : CoreId) (d : Fin 8) (n : Fin 16)
  | rorwi (c : CoreId) (d : Fin 8) (n : Fin 16)
  -- Jarley: loads and stores (`parity`: a transfer's parity fails, 01 R16)
  | ld (c : CoreId) (z : Size) (r : Fin 16) (p : Fin 8) (post parity : Bool)
  | st (c : CoreId) (z : Size) (r : Fin 16) (p : Fin 8) (post : Bool)
  | ldx (c : CoreId) (z : Size) (r : Fin 16) (p : Fin 8) (off : Half) (parity : Bool)
  | stx (c : CoreId) (z : Size) (r : Fin 16) (p : Fin 8) (off : Half)
  | lda (c : CoreId) (z : Size) (r : Fin 16) (addr : Half) (parity : Bool)
  | sta (c : CoreId) (z : Size) (r : Fin 16) (addr : Half)
  -- Jarley: control flow (`wide`: how many of the two delay slots hold two words)
  | bcc (c : CoreId) (cond : Fin 16) (disp : Byte)
  | jmp (c : CoreId) (addr : Half)
  | call (c : CoreId) (addr : Half) (wide : Fin 3)
  | jr (c : CoreId) (p : Fin 8)
  | callr (c : CoreId) (p : Fin 8) (wide : Fin 3)
  -- Jarley: long instructions (`more`: how many elements beyond the first before the boundary taken)
  | bmov (c : CoreId) (more : Nat) (parity : Bool)
  | bfil (c : CoreId) (more : Nat)
  | bcmp (c : CoreId) (more : Nat) (parity : Bool)
  | bcrc (c : CoreId) (more : Nat) (parity : Bool)
  | bmac (c : CoreId) (more : Nat) (parity : Bool)
  | bxor (c : CoreId) (more : Nat) (parity : Bool)
  -- Jarley: system
  | nop (c : CoreId)
  | ret (c : CoreId)
  | retx (c : CoreId)
  | wsync (c : CoreId)
  | fence (c : CoreId) (parity : List Bool)
  | wait (c : CoreId)
  | getst (c : CoreId) (d : Fin 8)
  | putst (c : CoreId) (d : Fin 8)
  | mlset (c : CoreId) (n : Fin 8)
  | freezeEnd (c : CoreId) (cycles : Nat)
  | interruptEntry (c : CoreId) (parity : Bool)
  | bufferDrain (c : CoreId) (parity : Bool)
  -- later rows of the table
  | failedFrame (wholeBytes : Bool) (bytes : Bytes)
  | entropyTestFailure (proportion : Bool)
  | deliveredByte (b : Byte)
  | debugPortIdle
  | canBusError (bus : Bool) (transmit : Bool) (code : Fin 8)
  | protocolExceptionEvent (bus : Bool)
  | busIntegrationEnd (bus : Bool)
  | fieldLoss
  | illegalInstruction (c : CoreId) (w1 w2 : Half)
  deriving DecidableEq, Repr

end Sys2Proof
end

