-- ==== Sys2Proof/Machine/Bits.lean ====
section
/-! DEFINITION. Byte strings: little- and big-endian integers, slices, and the checksums of the formats. -/

namespace Sys2Proof.Machine

/-- One byte of a natural number. -/
def byteOf (n : Nat) : Byte := BitVec.ofNat 8 n

/-- The low `n` bytes of `v`, least significant first (00 R6). -/
def leBytes : Nat → Nat → Bytes
  | 0, _ => []
  | n + 1, v => byteOf v :: leBytes n (v / 256)

/-- A little-endian integer (00 R6). -/
def leNat : Bytes → Nat
  | [] => 0
  | b :: bs => b.toNat + 256 * leNat bs

/-- The low `n` bytes of `v`, most significant first. -/
def beBytes (n v : Nat) : Bytes := (leBytes n v).reverse

/-- A big-endian integer. -/
def beNat (bs : Bytes) : Nat := leNat bs.reverse

/-- `n` bytes of `bs` from offset `off`. -/
def slice (bs : Bytes) (off n : Nat) : Bytes := (bs.drop off).take n

/-- The little-endian field of `n` bytes at `off`. -/
def leAt (bs : Bytes) (off n : Nat) : Nat := leNat (slice bs off n)

/-- `bs` cut or padded with `p` to exactly `n` bytes. -/
def padTo (p : Byte) (n : Nat) (bs : Bytes) : Bytes := bs.take n ++ List.replicate (n - bs.length) p

/-- `bs` with the bytes from `off` on replaced by `v`, keeping its length. -/
def splice (bs : Bytes) (off : Nat) (v : Bytes) : Bytes :=
  (bs.take off ++ v ++ bs.drop (off + v.length)).take bs.length

/-- `b` as 0 or 1. -/
def bit (b : Bool) : Nat := if b then 1 else 0

/-- Bit `i` of `n`. -/
def tb (n i : Nat) : Bool := n.testBit i

/-- Bits `hi:lo` of `n` (00 R5). -/
def bitsOf (n hi lo : Nat) : Nat := (n / 2 ^ lo) % 2 ^ (hi + 1 - lo)

/-- The two's complement `w`-bit encoding of an integer. -/
def encInt (w : Nat) (i : Int) : Nat := (i % ((2 ^ w : Nat) : Int)).toNat

/-- The integer a two's complement `w`-bit field holds. -/
def decInt (w n : Nat) : Int := if n % 2 ^ w < 2 ^ (w - 1) then ((n % 2 ^ w : Nat) : Int) else ((n % 2 ^ w : Nat) : Int) - ((2 ^ w : Nat) : Int)

/-- `i` held within `lo` and `hi`. -/
def clampInt (lo hi i : Int) : Int := if i < lo then lo else if hi < i then hi else i

/-- Bytes xored pairwise. -/
def xorBytes (a b : Bytes) : Bytes := List.zipWith (· ^^^ ·) a b

/-- One bit step of a most-significant-bit-first CRC of width `w`. -/
def crcStep (w poly c : Nat) : Nat :=
  if c.testBit (w - 1) then ((c * 2) % 2 ^ w) ^^^ poly else (c * 2) % 2 ^ w

/-- One byte into a most-significant-bit-first CRC of width `w` ≥ 8. -/
def crcByte (w poly c : Nat) (b : Byte) : Nat :=
  (List.range 8).foldl (fun c _ => crcStep w poly c) (c ^^^ (b.toNat * 2 ^ (w - 8)))

/-- CRC-16 of 08 R353: polynomial 0x1021, initial 0xFFFF. -/
def crc16 (bs : Bytes) : Nat := bs.foldl (crcByte 16 0x1021) 0xFFFF

/-- CRC-8 of 13 R589: polynomial 0x07, initial 0. -/
def crc8 (bs : Bytes) : Nat := bs.foldl (crcByte 8 0x07) 0

/-- One byte into the reflected CRC-32 of 07 R334. -/
def crc32Byte (c : Nat) (b : Byte) : Nat :=
  (List.range 8).foldl (fun c _ => if c.testBit 0 then (c / 2) ^^^ 0xEDB88320 else c / 2) (c ^^^ b.toNat)

/-- CRC-32 of 07 R334 (IEEE 802.3). -/
def crc32 (bs : Bytes) : Nat := (bs.foldl crc32Byte 0xFFFFFFFF) ^^^ 0xFFFFFFFF

/-- Every byte is the erased value. -/
def allOnes (bs : Bytes) : Bool := bs.all (· == 0xFF#8)

/-- Every byte is zero. -/
def allZero (bs : Bytes) : Bool := bs.all (· == 0#8)

/-- The entry of a list keyed by naturals. -/
def assoc {α : Type} (k : Nat) : List (Nat × α) → Option α
  | [] => none
  | (j, v) :: r => if j = k then some v else assoc k r

/-- A keyed list, strictly rising by key, with `k` bound to `x`. -/
def assocIns {α : Type} (k : Nat) (x : α) : List (Nat × α) → List (Nat × α)
  | [] => [(k, x)]
  | (j, w) :: r => if j < k then (j, w) :: assocIns k x r else if j = k then (k, x) :: r else (k, x) :: (j, w) :: r

/-- The list with `k` bound to `v` (`none` unbinds it). -/
def assocPut {α : Type} (k : Nat) (v : Option α) (m : List (Nat × α)) : List (Nat × α) :=
  match v with
  | some x => assocIns k x m
  | none => m.filter fun e => e.1 != k

/-- The set elements of the 1 bits of `m` below `n`, ascending. -/
def bitList (n m : Nat) : List Nat := (List.range n).filter (fun i => m.testBit i)

/-- The mask whose bits are the listed numbers. -/
def maskOf (l : List Nat) : Nat := l.foldl (fun m i => m ||| 2 ^ i) 0

/-- The list with element `i` replaced by `f` of it. -/
def modAt {α : Type} (i : Nat) (f : α → α) (l : List α) : List α := l.modify i f

/-- Serial-number comparison modulo 2^32: `a` lies before `b`. -/
def seqLt (a b : Nat) : Bool := (b + 4294967296 - a % 4294967296) % 4294967296 < 2147483648 && a % 4294967296 != b % 4294967296

/-- `a - b` modulo 2^32. -/
def sub32 (a b : Nat) : Nat := (a % 4294967296 + 4294967296 - b % 4294967296) % 4294967296

end Sys2Proof.Machine
end

