-- ==== Sys2Proof/Machine/Crypto.lean ====
section
/-! DEFINITION. The algorithms that 06 Table 06-6 names by their standards: AES (FIPS 197), its modes (SP 800-38A),
CMAC (SP 800-38B), SHA-256 (FIPS 180-4), HMAC (FIPS 198-1), the SP 800-108 KDF of R252, and P-256 with ECDSA
(FIPS 186-5, RFC 6979) and ECDH. PRESUMED from those standards (log 18). -/

namespace Sys2Proof.Machine.Crypto

/-! AES -/

/-- Doubling in the AES field. -/
def xtime (a : Nat) : Nat := if a < 128 then 2 * a else (2 * a) % 256 ^^^ 0x1B

/-- Multiplication in the AES field. -/
def gmul (a b : Nat) : Nat :=
  ((List.range 8).foldl (fun (p : Nat × Nat) i =>
    (if b.testBit i then p.1 ^^^ p.2 else p.1, xtime p.2)) (0, a)).1

/-- The inverse in the AES field as the 254th power (0 for 0). -/
def ginv (a : Nat) : Nat :=
  let a2 := gmul a a
  let a3 := gmul a2 a
  let a6 := gmul a3 a3
  let a12 := gmul a6 a6
  let a15 := gmul a12 a3
  let a30 := gmul a15 a15
  let a60 := gmul a30 a30
  let a120 := gmul a60 a60
  let a126 := gmul a120 a6
  let a127 := gmul a126 a
  gmul a127 a127

/-- Rotation of a byte to the left. -/
def rotl8 (a n : Nat) : Nat := (a * 2 ^ n) % 256 + a / 2 ^ (8 - n)

/-- The affine step of the S-box. -/
def affine (b : Nat) : Nat := b ^^^ rotl8 b 1 ^^^ rotl8 b 2 ^^^ rotl8 b 3 ^^^ rotl8 b 4 ^^^ 0x63

def sbox (b : Byte) : Byte := byteOf (affine (ginv b.toNat))

/-- The inverse affine step. -/
def affineInv (b : Nat) : Nat := rotl8 b 1 ^^^ rotl8 b 3 ^^^ rotl8 b 6 ^^^ 0x05

def sboxInv (b : Byte) : Byte := byteOf (ginv (affineInv b.toNat))

/-- Key expansion: the round-key bytes, built one 4-byte word at a time. `nk` is 4 or 8. -/
def expandKey (nk : Nat) (key : Bytes) (words : Nat) : Bytes :=
  let go := (List.range words).foldl (fun (st : Bytes × Nat) i =>
    if i < nk then st else
    let w := st.1
    let prev := slice w (4 * (i - 1)) 4
    let old := slice w (4 * (i - nk)) 4
    if i % nk = 0 then
      let r := (prev.drop 1 ++ prev.take 1).map sbox
      let r' := match r with
        | a :: t => (a ^^^ byteOf st.2) :: t
        | [] => []
      (w ++ xorBytes old r', xtime st.2)
    else if nk = 8 ∧ i % 8 = 4 then (w ++ xorBytes old (prev.map sbox), st.2)
    else (w ++ xorBytes old prev, st.2)) (key, 1)
  go.1

def at16 (s : Bytes) (i : Nat) : Byte := s.getD i 0

def shiftRows (s : Bytes) : Bytes := (List.range 16).map fun i => at16 s ((i + 4 * (i % 4)) % 16)

def shiftRowsInv (s : Bytes) : Bytes := (List.range 16).map fun i => at16 s ((i + 16 - 4 * (i % 4)) % 16)

/-- One column times a circulant of the AES field. -/
def mixWith (a b c d : Nat) (s : Bytes) : Bytes :=
  (List.range 16).map fun i =>
    let col := 4 * (i / 4)
    let r := i % 4
    let x (k : Nat) : Nat := (at16 s (col + (r + k) % 4)).toNat
    byteOf (gmul a (x 0) ^^^ gmul b (x 1) ^^^ gmul c (x 2) ^^^ gmul d (x 3))

/-- Rounds of the cipher: 10 for a 16-byte key, 14 for a 32-byte key. -/
def rounds (key : Bytes) : Nat := if key.length = 32 then 14 else 10

/-- AES encryption of one 16-byte block. -/
def aesEnc (key block : Bytes) : Bytes :=
  let nr := rounds key
  let rk := expandKey (key.length / 4) key (4 * (nr + 1))
  let s0 := xorBytes block (slice rk 0 16)
  (List.range nr).foldl (fun s i =>
    let t := shiftRows (s.map sbox)
    let u := if i + 1 = nr then t else mixWith 2 3 1 1 t
    xorBytes u (slice rk (16 * (i + 1)) 16)) s0

/-- AES decryption of one 16-byte block. -/
def aesDec (key block : Bytes) : Bytes :=
  let nr := rounds key
  let rk := expandKey (key.length / 4) key (4 * (nr + 1))
  let s0 := xorBytes block (slice rk (16 * nr) 16)
  (List.range nr).foldl (fun s i =>
    let t := (shiftRowsInv s).map sboxInv
    let u := xorBytes t (slice rk (16 * (nr - 1 - i)) 16)
    if i + 1 = nr then u else mixWith 14 11 13 9 u) s0

/-- The 16-byte blocks of a string, the last one possibly short. -/
def blocks16 : Nat → Bytes → List Bytes
  | 0, _ => []
  | n + 1, bs => if bs.isEmpty then [] else bs.take 16 :: blocks16 n (bs.drop 16)

def blocksOf (bs : Bytes) : List Bytes := blocks16 bs.length bs

def ecbEnc (key data : Bytes) : Bytes := (blocksOf data).flatMap (aesEnc key)
def ecbDec (key data : Bytes) : Bytes := (blocksOf data).flatMap (aesDec key)

/-- CBC: the output and the chaining value. -/
def cbcEnc (key iv data : Bytes) : Bytes × Bytes :=
  (blocksOf data).foldl (fun st b => let c := aesEnc key (xorBytes b st.2); (st.1 ++ c, c)) ([], iv)

def cbcDec (key iv data : Bytes) : Bytes × Bytes :=
  (blocksOf data).foldl (fun st b => (st.1 ++ xorBytes (aesDec key b) st.2, b)) ([], iv)

/-- CTR with a 128-bit big-endian counter modulo 2^128: the output and the next counter block. -/
def ctr (key iv data : Bytes) : Bytes × Bytes :=
  (blocksOf data).foldl (fun st b =>
    (st.1 ++ xorBytes b (aesEnc key st.2), beBytes 16 ((beNat st.2 + 1) % 2 ^ 128))) ([], iv)

/-- Doubling of a CMAC subkey. -/
def cmacDbl (k : Bytes) : Bytes :=
  let n := beNat k
  beBytes 16 (if n.testBit 127 then ((2 * n) % 2 ^ 128) ^^^ 0x87 else 2 * n)

/-- The last block of a CMAC message with its subkey applied. -/
def cmacLast (key last : Bytes) : Bytes :=
  let k1 := cmacDbl (aesEnc key (List.replicate 16 0))
  if last.length = 16 then xorBytes last k1
  else xorBytes (padTo 0 16 (last ++ [0x80])) (cmacDbl k1)

/-- The CMAC chaining value after whole blocks. -/
def cmacFold (key acc data : Bytes) : Bytes :=
  (blocksOf data).foldl (fun a b => aesEnc key (xorBytes a b)) acc

/-- AES-CMAC, 16 bytes. -/
def cmac (key msg : Bytes) : Bytes :=
  let n := if msg.length = 0 then 0 else 16 * ((msg.length - 1) / 16)
  aesEnc key (xorBytes (cmacFold key (List.replicate 16 0) (msg.take n)) (cmacLast key (msg.drop n)))

/-- R252: the SP 800-108 counter-mode KDF with AES-128-CMAC; `l` is the length in bits. -/
def kdf (root label context : Bytes) (l : Nat) : Bytes :=
  let n := (l + 127) / 128
  let out := (List.range n).flatMap fun i =>
    cmac root (beBytes 4 (i + 1) ++ label ++ [0] ++ context ++ beBytes 4 l)
  out.take (l / 8)

/-! SHA-256 -/

def w32 (n : Nat) : Nat := n % 4294967296
def rotr (x n : Nat) : Nat := w32 (x / 2 ^ n + x * 2 ^ (32 - n))
def shaNot (x : Nat) : Nat := 4294967295 - x

/-- The integer `k`-th root of `n`, found bit by bit from `b` bits down, above the part `r` already found. -/
def rootFrom (k n : Nat) : Nat → Nat → Nat
  | 0, r => r
  | b + 1, r =>
    match Nat.ble ((r + 2 ^ b) ^ k) n with
    | true => rootFrom k n b (r + 2 ^ b)
    | false => rootFrom k n b r

/-- The first 32 fraction bits of the `k`-th root of `p`: where FIPS 180-4 takes its constants from. -/
def rootFraction (k p : Nat) : Nat := w32 (rootFrom k (p * 2 ^ (32 * k)) 40 0)

/-- Whether no `d` from 2 below `n` divides `n`. -/
def isPrime (n : Nat) : Bool := 2 ≤ n && (List.range n).all fun d => d < 2 || n % d != 0

/-- The primes below 312: the 64 that FIPS 180-4 uses. -/
def shaPrimes : List Nat := (List.range 312).filter isPrime

/-- The constant of round `i`: from the cube root of the `i`-th prime. -/
def roundConst (i : Nat) : Nat := rootFraction 3 (shaPrimes.getD i 0)

/-- The chaining value before the first block: from the square roots of the first eight primes. -/
def shaInit : List Nat := (shaPrimes.take 8).map (rootFraction 2)

/-- The message schedule of one 64-byte block. -/
def shaSchedule (block : Bytes) : List Nat :=
  let w0 := (List.range 16).map fun i => beNat (slice block (4 * i) 4)
  (List.range 48).foldl (fun w i =>
    let t := i + 16
    let a := w.getD (t - 15) 0
    let b := w.getD (t - 2) 0
    let s0 := rotr a 7 ^^^ rotr a 18 ^^^ (a / 8)
    let s1 := rotr b 17 ^^^ rotr b 19 ^^^ (b / 1024)
    w ++ [w32 (w.getD (t - 16) 0 + s0 + w.getD (t - 7) 0 + s1)]) w0

/-- The compression of one block into the chaining value. -/
def shaBlock (h : List Nat) (block : Bytes) : List Nat :=
  let w := shaSchedule block
  let r := (List.range 64).foldl (fun v i =>
    let a := v.getD 0 0
    let e := v.getD 4 0
    let s1 := rotr e 6 ^^^ rotr e 11 ^^^ rotr e 25
    let ch := (e &&& v.getD 5 0) ^^^ (shaNot e &&& v.getD 6 0)
    let t1 := v.getD 7 0 + s1 + ch + roundConst i + w.getD i 0
    let s0 := rotr a 2 ^^^ rotr a 13 ^^^ rotr a 22
    let maj := (a &&& v.getD 1 0) ^^^ (a &&& v.getD 2 0) ^^^ (v.getD 1 0 &&& v.getD 2 0)
    [w32 (t1 + s0 + maj), a, v.getD 1 0, v.getD 2 0, w32 (v.getD 3 0 + t1), e, v.getD 5 0, v.getD 6 0]) h
  List.zipWith (fun x y => w32 (x + y)) h r

/-- Compression of the whole 64-byte blocks of `data`. -/
def shaFold : Nat → List Nat → Bytes → List Nat
  | 0, h, _ => h
  | n + 1, h, data => shaFold n (shaBlock h (data.take 64)) (data.drop 64)

/-- The padded tail of a message of `total` bytes. -/
def shaPad (tail : Bytes) (total : Nat) : Bytes :=
  let z := (119 - tail.length % 64) % 64
  tail ++ [0x80] ++ List.replicate z 0 ++ beBytes 8 (8 * total)

def shaOut (h : List Nat) : Bytes := h.flatMap (beBytes 4)

def sha256 (msg : Bytes) : Bytes :=
  let p := shaPad msg msg.length
  shaOut (shaFold (p.length / 64) shaInit p)

def hmac (key msg : Bytes) : Bytes :=
  let k := padTo 0 64 key
  sha256 (k.map (· ^^^ 0x5C) ++ sha256 (k.map (· ^^^ 0x36) ++ msg))

/-! P-256 -/

def fp : Nat := 2 ^ 256 - 2 ^ 224 + 2 ^ 192 + 2 ^ 96 - 1
def fn : Nat := 0xFFFFFFFF00000000FFFFFFFFFFFFFFFFBCE6FAADA7179E84F3B9CAC2FC632551
def curveB : Nat := 0x5AC635D8AA3A93E7B3EBBD55769886BC651D06B0CC53B0F63BCE3C3E27D2604B
def gx : Nat := 0x6B17D1F2E12C4247F8BCE6E563A440F277037D812DEB33A0F4A13945D898C296
def gy : Nat := 0x4FE342E2FE1A7F9B8EE7EB4A7C0F9E162BCE33576B315ECECBB6406837BF51F5

/-- `a ^ e mod m` over the `n` low bits of `e`. -/
def powMod (a m : Nat) : Nat → Nat → Nat
  | 0, _ => 1
  | n + 1, e =>
    let h := powMod ((a * a) % m) m n (e / 2)
    if e % 2 = 1 then (h * a) % m else h

/-- The inverse modulo a prime. -/
def invMod (a m : Nat) : Nat := powMod (a % m) m 256 (m - 2)

/-- A point: `none` is the point at infinity. -/
abbrev Point := Option (Nat × Nat)

def onCurve (x y : Nat) : Bool :=
  x < fp && y < fp && (y * y) % fp == (x * x * x + 3 * (fp - x) + curveB) % fp

def ptAdd : Point → Point → Point
  | none, q => q
  | p, none => p
  | some (x1, y1), some (x2, y2) =>
    if x1 = x2 ∧ (y1 + y2) % fp = 0 then none else
    let l := if x1 = x2 then ((3 * x1 * x1 + (fp - 3)) * invMod (2 * y1) fp) % fp
             else ((y2 + fp - y1) * invMod (x2 + fp - x1) fp) % fp
    let x3 := (l * l + 2 * fp - x1 - x2) % fp
    some (x3, (l * (x1 + fp - x3) + fp - y1) % fp)

/-- Scalar multiplication over the `n` low bits. -/
def ptMul : Nat → Nat → Point → Point
  | 0, _, _ => none
  | n + 1, k, p =>
    let r := ptMul n (k / 2) (ptAdd p p)
    if k % 2 = 1 then ptAdd p r else r

def basePoint : Point := some (gx, gy)

def ptBytes : Point → Bytes
  | none => List.replicate 64 0
  | some (x, y) => beBytes 32 x ++ beBytes 32 y

/-- The public key of a private scalar. -/
def pubKey (d : Nat) : Bytes := ptBytes (ptMul 256 d basePoint)

/-- RFC 6979 section 3.2: the candidates for the nonce, at most `fuel` of them. -/
def nonceLoop : Nat → Bytes → Bytes → Nat
  | 0, _, v => beNat v % (fn - 1) + 1
  | fuel + 1, k, v =>
    let v := hmac k v
    let c := beNat v
    if 1 ≤ c ∧ c < fn then c else
    let k' := hmac k (v ++ [0])
    nonceLoop fuel k' (hmac k' v)

def nonce (d : Nat) (hash : Bytes) : Nat :=
  let x := beBytes 32 d ++ beBytes 32 (beNat hash % fn)
  let v0 : Bytes := List.replicate 32 1
  let k1 := hmac (List.replicate 32 0) (v0 ++ [0] ++ x)
  let v1 := hmac k1 v0
  let k2 := hmac k1 (v1 ++ [1] ++ x)
  nonceLoop 16 k2 (hmac k2 v1)

/-- ECDSA signature r ‖ s, big-endian. -/
def ecdsaSign (d : Nat) (hash : Bytes) : Bytes :=
  let k := nonce d hash
  let r := match ptMul 256 k basePoint with
    | some (x, _) => x % fn
    | none => 0
  let s := (invMod k fn * (beNat hash + r * d)) % fn
  beBytes 32 r ++ beBytes 32 s

/-- ECDSA verification over a 32-byte hash. -/
def ecdsaVerify (pub hash sig : Bytes) : Bool :=
  let x := beNat (slice pub 0 32)
  let y := beNat (slice pub 32 32)
  let r := beNat (slice sig 0 32)
  let s := beNat (slice sig 32 32)
  if 1 ≤ r ∧ r < fn ∧ 1 ≤ s ∧ s < fn ∧ onCurve x y then
    let w := invMod s fn
    match ptAdd (ptMul 256 ((beNat hash * w) % fn) basePoint) (ptMul 256 ((r * w) % fn) (some (x, y))) with
    | some (vx, _) => vx % fn == r
    | none => false
  else false

/-- r and s lie in [1, n - 1] (06 Table 06-13 code 0x08). -/
def sigInRange (sig : Bytes) : Bool :=
  let r := beNat (slice sig 0 32)
  let s := beNat (slice sig 32 32)
  1 ≤ r && r < fn && 1 ≤ s && s < fn

/-- ECDH: the big-endian x-coordinate. -/
def ecdh (d : Nat) (peer : Bytes) : Bytes :=
  match ptMul 256 d (some (beNat (slice peer 0 32), beNat (slice peer 32 32))) with
  | some (x, _) => beBytes 32 x
  | none => List.replicate 32 0

end Sys2Proof.Machine.Crypto
end

