-- ==== Sys2Proof/Config.lean ====
section
/-! DEFINITION. What an implementation fixes and what the spec leaves open. The free values are opaque constants: no
proof can see one. `Nat` arguments named `seed` take the model's counter `chip.clk.free`. -/

namespace Sys2Proof.Config

/-- Silicon revision, object 0x1000.03 (07 Table 07-9 gives no value; log 7). -/
opaque siliconRev : Byte
/-- Plinth revision, object 0x1000.07 (07 Table 07-9 gives no value; log 7). -/
opaque romRev : Half
/-- Contents of the Plinth ROM (not in the spec; log 6). -/
opaque romByte : Nat → Byte
/-- Gains of the proportional-integral law of 02 R55, in thousandths, which the spec does not give (log 8). -/
opaque servoGainP : Nat
opaque servoGainI : Nat
/-- What a word of a block whose erase was cut off decodes as (05 R753; log 12): 0 its old value, 1 a corrected value,
2 empty, 3 uncorrectable. Seed, physical word. -/
opaque cutKind : Nat → Nat → Fin 4
/-- The corrected value such a word may give. -/
opaque cutValue : Nat → Nat → Dword
/-- Contents of an uncorrectable word as read (the spec names none; log 12). -/
opaque badWord : Nat → Nat → Dword
/-- Whether a RESET_N low pulse between 0.9 µs and 1 µs is taken (17 R719; log 13). -/
opaque shortReset : Nat → Bool
/-- Sense of the IEEE 1344 parity bit, odd when true (02 R59 names it only; log 14). -/
opaque irigParityOdd : Bool
/-- Cycles of the RC oscillator per million nominal ones, used within ±3 % (11 R467; log 13). -/
opaque rcRate : Nat → Nat
/-- X of 10 R445: 64 bits of the engine's own oscillator. -/
opaque tagNoise : Nat → Dword
/-- The measured transmitter delay CNx_TDCV (09 Table 09-11; log 20). -/
opaque canDelay : Nat → Byte
/-- Bits that an OTP word program that failed to verify did set (13 R561; log 13): seed, wanted bits. -/
opaque otpPartial : Nat → Word → Word
/-- Temperature in the record of a disagreement, which the spec does not name (11 Table 11-3; log 21): seed, the two
sensors. -/
opaque disagreeTemp : Nat → Int → Int → Int
/-- Whether an external temperature between two degrees is recorded as the upper one (log 21). -/
opaque tempRoundUp : Nat → Bool
/-- Raw entropy bytes that a challenge takes beyond those of the FIFO (13 R583; log 15): seed, position. -/
opaque rawEntropy : Nat → Nat → Byte
/-- DBG_RESULT after a presentation that Reserve mode with reason 0x14 refuses (12 Table 12-4 gives no code; log 22). -/
opaque refusedLoan : Nat → Byte
/-- Echoed command byte of a response slot that has held nothing (08 Table 08-5 gives none; log 25). -/
opaque emptyEcho : Byte
/-- Wait cycles beyond those that 14 Table 14-6 fixes, in system cycles: contention, and fetches that do not come from
the core's own SRAM (log 17). -/
opaque waitCycles : Nat → Nat

end Sys2Proof.Config
end

