-- ==== Sys2Proof/Machine/Objects.lean ====
section
/-! DEFINITION. The Catalogue's hardware-backed objects as the object tables list them: subindex, type, access, ports,
Default, stored, range. -/

namespace Sys2Proof.Machine

/-- Types of 07 Table 07-2. -/
inductive Ty where
  | bool
  | u (bytes : Nat)
  | i (bytes : Nat)
  | stamp
  | angle
  | octets (n : Nat)
  | text (n : Nat)
  deriving DecidableEq, Repr

/-- Bytes of a value of the type. -/
def Ty.bytes : Ty → Nat
  | .bool => 1
  | .u n | .i n | .octets n | .text n => n
  | .stamp => 8
  | .angle => 2

/-- Access classes of 07 Table 07-3. -/
inductive Access where | const | ro | rw | wo | rwt
  deriving DecidableEq, Repr

/-- The Meaning column's range of a value. -/
inductive Rng where
  | any
  | within (lo hi : Int)
  /-- From `lo` to `hi` in steps of `k`. -/
  | steps (lo hi k : Int)
  | oneOf (l : List Int)
  /-- 0, or from `lo` to `hi`. -/
  | zeroOr (lo hi : Int)
  deriving DecidableEq, Repr

/-- Port mask bits of 07 R298. -/
def pH : Nat := 1
def pC : Nat := 2
def pT : Nat := 4
def pL : Nat := 8
def pD : Nat := 16
def pHCD : Nat := 19
def pHD : Nat := 17

/-- One row of an object table. `dflt` is the Default's little-endian number. -/
structure Obj where
  sub : Nat
  ty : Ty
  acc : Access
  ports : Nat := 0
  dflt : Nat := 0
  stored : Bool := false
  rng : Rng := .any
  deriving DecidableEq, Repr

/-- A read-only row. -/
def roRow (sub : Nat) (ty : Ty) (dflt : Nat := 0) (stored : Bool := false) : Obj := { sub, ty, acc := .ro, dflt, stored }
/-- A constant row. -/
def constRow (sub : Nat) (ty : Ty) (dflt : Nat := 0) : Obj := { sub, ty, acc := .const, dflt }
/-- A stored read-write row. -/
def rwRow (sub : Nat) (ty : Ty) (ports dflt : Nat) (rng : Rng := .any) : Obj :=
  { sub, ty, acc := .rw, ports, dflt, stored := true, rng }
/-- A stored row written only in transactions. -/
def rwtRow (sub : Nat) (ty : Ty) (ports dflt : Nat) (rng : Rng := .any) : Obj :=
  { sub, ty, acc := .rwt, ports, dflt, stored := true, rng }
/-- A write-only row. -/
def woRow (sub : Nat) (ty : Ty) (ports : Nat) (rng : Rng := .any) : Obj := { sub, ty, acc := .wo, ports, rng }

/-- 07 Table 07-9. -/
def obj1000 : List Obj := [constRow 1 (.u 2) 0x4757, constRow 2 (.u 2) 0x2630, constRow 3 (.u 1), constRow 4 (.octets 8),
  constRow 5 (.octets 7), roRow 6 (.u 1), constRow 7 (.u 2), constRow 8 (.u 2) 1]
/-- 12 Table 12-6. -/
def obj1010 : List Obj := [roRow 1 (.u 1), roRow 2 (.u 1), roRow 3 (.u 1), roRow 4 (.u 1), roRow 5 .bool,
  rwRow 6 (.u 2) pHD 2000 (.within 100 60000), woRow 7 (.u 1) pHCD, roRow 8 (.u 1), roRow 9 (.u 2), roRow 0xA (.u 1),
  roRow 0xB (.u 4), roRow 0xC (.u 4)]
/-- 07 Table 07-11. -/
def obj1F00 : List Obj := [woRow 1 (.u 1) 23 (.within 1 4), roRow 2 (.u 4), roRow 3 (.u 1), roRow 4 (.u 1),
  roRow 5 (.u 1), rwRow 6 (.u 4) pHCD 5000 (.within 100 60000), roRow 7 (.u 1), roRow 8 (.u 2), roRow 9 (.u 4)]
/-- 07 Table 07-12. -/
def obj1F10 : List Obj := [rwtRow 1 (.u 1) pHD 0 (.within 0 1), roRow 2 .bool, roRow 3 (.u 4), roRow 4 (.u 4),
  roRow 5 (.u 2), roRow 6 (.u 1)]
/-- 11 Table 11-7. -/
def obj1F50 : List Obj := [woRow 1 (.u 1) pHCD (.within 1 8), roRow 2 (.u 4), woRow 3 (.octets 256) 18, roRow 4 (.u 1),
  roRow 5 (.u 1), roRow 6 (.u 4), roRow 7 (.u 4), { sub := 8, ty := .bool, acc := .rwt, ports := pHD }]
/-- 02 Table 02-7. -/
def obj2000 : List Obj := [roRow 1 (.u 1), roRow 2 (.u 1) 4, roRow 3 .stamp, roRow 4 (.i 4), roRow 5 (.i 4),
  roRow 6 (.u 4), roRow 7 (.u 4), roRow 8 (.u 1) 0xF, roRow 9 (.u 4), roRow 0xA (.u 1)]
/-- 02 Table 02-8. -/
def obj2010 : List Obj := [rwRow 1 .bool pHCD 1, rwRow 2 (.i 4) pHCD 0 (.within (-1000000) 1000000), rwRow 3 .bool pHCD 1,
  rwRow 4 .bool pHCD 1, rwRow 5 (.u 1) pHCD 4 (.within 1 11), rwRow 6 (.i 4) pHCD 0 (.within (-1000000) 1000000),
  rwRow 7 .bool pHCD 0, rwRow 8 (.u 4) pHCD 3600, rwRow 9 .bool pHCD 0, rwRow 0xA (.u 4) pHCD 100000 (.within 1 500000),
  rwRow 0xB .bool pHCD 0, rwRow 0xC (.u 4) pHCD 0 (.within 0 999000000)]
/-- 02 Table 02-9. -/
def obj2020 : List Obj := [rwRow 1 (.u 4) pHCD 50000 (.within 40000 70000), rwRow 2 (.u 1) pHCD 1 (.within 1 3),
  rwRow 3 (.u 1) pHCD 7 (.within 0 7), rwRow 4 (.u 1) pHCD 20 (.steps 5 50 5), rwRow 5 (.u 2) pHCD 20 (.within 5 50),
  rwRow 6 (.i 4) pHCD 0 (.within (-1000000) 1000000), rwRow 7 (.i 4) pHCD 0 (.within (-1000000) 1000000),
  rwRow 8 (.i 4) pHCD 0 (.within (-1000000) 1000000), rwRow 9 (.u 1) pHCD 5 (.within 1 50),
  rwRow 0xA (.u 1) pHCD 10 (.within 2 50), roRow 0xB (.u 1), roRow 0xC (.u 1), roRow 0xD .angle, roRow 0xE (.u 4),
  roRow 0xF (.i 4), roRow 0x10 (.u 1), roRow 0x11 .angle, roRow 0x12 .angle, roRow 0x13 (.u 4)]
/-- 02 Table 02-10. -/
def obj2030 : List Obj := [rwRow 1 (.i 2) pHCD 37, rwRow 2 (.i 2) pHCD 0 (.within (-1) 1),
  rwRow 3 (.u 8) pHCD 0 (.within 0 17179869183)]
/-- 03 Table 03-8. -/
def obj3000 : List Obj := [rwRow 1 (.u 2) pHCD 0xFFFF, rwRow 2 (.u 2) pHCD 0x000F, roRow 3 (.u 4), roRow 4 (.u 4),
  roRow 5 (.u 4), roRow 6 (.u 4), roRow 7 (.u 4), roRow 8 (.u 4)]
/-- 03 Table 03-9. -/
def obj3100 : List Obj := [rwRow 1 .bool pHCD 1, rwRow 2 .bool pHCD 0, rwRow 3 (.u 2) pHCD 100,
  rwRow 4 (.u 1) pHCD 3 (.within 0 3), rwRow 5 (.u 1) pHCD 0 (.zeroOr 2 255), rwRow 6 (.u 2) pHCD 1000 (.within 1 65535),
  rwRow 7 (.u 2) pHCD 1000 (.within 1 65535), roRow 8 .bool, roRow 9 .bool, roRow 0xA (.u 4), roRow 0xB (.u 4)]
/-- 03 Table 03-10. -/
def obj3200 : List Obj := [constRow 1 (.u 2) 4096, roRow 2 (.u 2), roRow 3 (.u 4), roRow 4 (.u 4), roRow 5 (.u 4),
  { sub := 6, ty := .u 4, acc := .rw, ports := pH }, roRow 7 (.u 4), roRow 8 (.u 2)]
/-- 03 Table 03-11. -/
def obj3300 : List Obj := [roRow 1 (.u 4), constRow 2 (.u 2) 512, roRow 3 (.u 2), roRow 4 (.u 4), roRow 5 (.u 4),
  roRow 6 (.u 4) 0 true]
/-- 04 Table 04-6. -/
def obj4000 : List Obj := [rwRow 1 .bool pHD 1, rwRow 2 (.u 4) pHCD 20000 (.within 1000 1000000),
  rwRow 3 (.u 4) pHCD 10000 (.within 100 600000), roRow 4 (.u 4), roRow 5 (.u 4), roRow 6 (.u 1), roRow 7 .bool]
  ++ [8, 9, 0xA, 0xB].map (fun k => rwtRow k (.u 2) pHD 0)
  ++ [0xC, 0xD, 0xE, 0xF, 0x10, 0x11, 0x12, 0x13].map (fun k => roRow k (.u 4))
/-- 04 Table 04-7. -/
def obj4100 : List Obj := [rwtRow 1 .bool pHD 0, rwtRow 2 .bool pHD 1, rwRow 3 (.u 4) pHCD 0 (.within 0 200000000),
  rwRow 4 (.u 4) pHCD 100000 (.within 100 5000000), roRow 5 .bool 0 true, woRow 6 (.u 1) pHD (.oneOf [0xA5]),
  roRow 7 (.u 1), roRow 8 (.u 4) 0 true, roRow 9 (.u 4) 0 true]
/-- 04 Table 04-8. -/
def obj4200 : List Obj := [woRow 1 (.octets 40) 3, roRow 2 (.octets 8)]
/-- 04 Table 04-9. -/
def obj4300 : List Obj := (List.range 16).map fun k => roRow (k + 1) (.octets 24)
/-- 05 Table 05-8. -/
def obj5000 : List Obj := [rwRow 1 (.u 1) pHD 1 (.within 0 1), rwRow 2 (.u 1) pHCD 4 (.within 1 16), roRow 3 (.u 1),
  rwRow 4 (.u 2) pHD 30 (.within 1 90), rwRow 5 (.u 2) pHD 2000 (.within 100 60000), roRow 6 .stamp 0 true, roRow 7 (.u 2),
  roRow 8 (.u 4), roRow 9 (.u 4), roRow 0xA (.u 1), roRow 0xB (.u 2), roRow 0xC (.u 4), roRow 0xD (.u 4),
  roRow 0xE (.u 4), roRow 0xF (.u 4), roRow 0x10 (.u 4), roRow 0x11 (.u 8)]
/-- 06 Table 06-9. -/
def obj6000 : List Obj := [roRow 1 (.octets 64), roRow 2 (.u 2), roRow 3 (.u 4), roRow 4 (.u 4), roRow 5 (.u 4),
  roRow 6 (.u 4), { sub := 7, ty := .u 1, acc := .rwt, ports := pHD, dflt := 0xFF, rng := .within 0 3 }, roRow 8 (.u 2),
  roRow 9 (.u 2), roRow 0xA (.u 4), roRow 0xB (.u 4), roRow 0xC (.u 1), roRow 0xD (.u 1)]
/-- 06 Table 06-10. -/
def obj6100 : List Obj := [roRow 1 (.u 1), roRow 2 (.u 4), roRow 3 (.u 1), roRow 4 (.u 1), roRow 5 (.u 2)]
/-- 13 Table 13-9. -/
def obj6200 : List Obj := [roRow 1 (.u 4), roRow 2 (.u 4), roRow 3 (.u 4), roRow 4 (.u 4), roRow 5 (.u 1), roRow 6 .bool,
  roRow 7 (.u 2), roRow 8 (.u 2), roRow 9 (.octets 3), roRow 0xA (.u 1), roRow 0xB (.u 4)]
/-- 08 Table 08-9. -/
def obj7000 : List Obj := [rwRow 1 (.u 1) pHD 0 (.within 0 1), roRow 2 (.u 1), rwRow 3 .bool pHCD 1,
  rwRow 4 (.u 1) pHCD 0x1F, roRow 5 (.u 1), roRow 6 (.u 4), roRow 7 (.u 4), roRow 8 (.u 4), roRow 9 (.u 4),
  rwRow 0xA .bool pHD 1]
/-- Subindices 10 to 22 of 09 Table 09-9, for both buses. -/
def objCan : List Obj := [rwRow 0x10 .bool pHCD 0, rwRow 0x11 (.u 1) pHCD 0 (.within 0 1), rwRow 0x12 .bool pHCD 1,
  rwRow 0x13 (.u 1) pHCD 1 (.within 1 32), rwRow 0x14 (.u 2) pHCD 63 (.within 2 256),
  rwRow 0x15 (.u 1) pHCD 16 (.within 1 128), rwRow 0x16 (.u 1) pHCD 16 (.within 1 128),
  rwRow 0x17 (.u 1) pHCD 1 (.within 1 32), rwRow 0x18 (.u 1) pHCD 15 (.within 1 32),
  rwRow 0x19 (.u 1) pHCD 4 (.within 1 16), rwRow 0x1A (.u 1) pHCD 4 (.within 1 16),
  rwRow 0x1B (.u 1) pHCD 16 (.within 0 127), roRow 0x1C (.u 1), roRow 0x1D (.u 1), roRow 0x1E (.u 1), roRow 0x1F (.u 4),
  roRow 0x20 (.u 4), roRow 0x21 (.u 4), roRow 0x22 (.u 4)]
/-- 09 Table 09-9. -/
def obj7100 : List Obj := [rwRow 1 (.u 1) pHCD 1 (.within 1 127), rwRow 2 (.u 2) pHCD 0x400, rwRow 3 (.u 2) pHCD 0x500,
  rwRow 4 (.u 2) pHCD 100 (.within 10 1000), rwRow 5 (.u 2) pHCD 200 (.within 10 1000), roRow 6 (.u 4), roRow 7 (.u 4),
  roRow 8 (.u 4)] ++ objCan
/-- 09 Table 09-10. -/
def obj7200 : List Obj := [rwRow 1 (.u 1) pHCD 0x5A (.within 8 0x77), rwRow 2 .bool pHCD 1,
  rwRow 3 (.u 1) pHD 20 (.within 0 40), rwRow 4 (.u 2) pHD 160 (.within 0 1400), rwRow 5 (.u 2) pHD 120 (.within 0 1600),
  roRow 6 (.u 4), roRow 7 (.u 4), roRow 8 (.u 4)]
/-- 10 Table 10-9. -/
def obj7300 : List Obj := [rwRow 1 .bool pHD 1, rwRow 2 .bool pHD 1, rwRow 3 (.u 1) pHD 7 (.within 4 10),
  { sub := 4, ty := .u 4, acc := .wo, ports := pHD, stored := true }, roRow 5 .bool, roRow 6 (.u 4), roRow 7 (.u 4),
  roRow 8 (.u 4), roRow 9 (.u 4), roRow 0xA (.u 4), rwRow 0x10 (.text 48) 25 0, roRow 0x11 .stamp 0 true]
/-- 11 Table 11-8. -/
def obj8000 : List Obj := [roRow 1 (.u 1), rwRow 2 (.u 1) pHCD 0xFF, woRow 3 (.u 1) pHCD, roRow 4 (.i 2), roRow 5 (.i 2),
  roRow 6 (.i 2) 0xFFD8 true, roRow 7 (.u 2), roRow 8 (.u 2), roRow 9 (.u 2), roRow 0xA (.i 2), roRow 0xB (.u 1),
  rwRow 0xC (.u 2) pHCD 200 (.within 10 5000), roRow 0xD (.u 4), rwRow 0xE (.u 1) pHD 0 (.zeroOr 8 0x77), roRow 0xF (.i 2),
  roRow 0x10 (.octets 4)]
/-- 11 Table 11-9. -/
def obj8100 : List Obj := [constRow 1 (.u 4) 0x20680000, constRow 2 (.u 2) 62, roRow 3 (.u 4), roRow 4 (.u 4),
  roRow 5 (.u 4), roRow 6 (.u 4) 0 true, roRow 7 (.u 4)]
/-- 11 Table 11-10. -/
def obj8200 : List Obj := [rwtRow 1 .bool pHD 1, rwtRow 2 (.u 2) pHD 5 (.within 0 30000),
  rwtRow 3 (.u 2) pHD 100 (.within 10 60000), roRow 4 (.u 4), roRow 5 (.u 4)]

/-- The rows of the hardware-backed object at an index, none where the index is undefined (07 R292). -/
def objRows (idx : Nat) : List Obj :=
  if 0x3100 ≤ idx ∧ idx ≤ 0x3117 then obj3100
  else if 0x4100 ≤ idx ∧ idx ≤ 0x4107 then obj4100
  else match idx with
  | 0x1000 => obj1000 | 0x1010 => obj1010 | 0x1F00 => obj1F00 | 0x1F10 => obj1F10 | 0x1F50 => obj1F50
  | 0x2000 => obj2000 | 0x2010 => obj2010 | 0x2020 => obj2020 | 0x2030 => obj2030
  | 0x3000 => obj3000 | 0x3200 => obj3200 | 0x3300 => obj3300
  | 0x4000 => obj4000 | 0x4200 => obj4200 | 0x4300 => obj4300
  | 0x5000 => obj5000 | 0x6000 => obj6000 | 0x6100 => obj6100 | 0x6200 => obj6200
  | 0x7000 => obj7000 | 0x7100 => obj7100 | 0x7110 => objCan | 0x7200 => obj7200 | 0x7300 => obj7300
  | 0x8000 => obj8000 | 0x8100 => obj8100 | 0x8200 => obj8200
  | _ => []

/-- Every defined hardware-backed index, ascending. -/
def objIndices : List Nat :=
  [0x1000, 0x1010, 0x1F00, 0x1F10, 0x1F50, 0x2000, 0x2010, 0x2020, 0x2030, 0x3000]
  ++ (List.range 24).map (0x3100 + ·) ++ [0x3200, 0x3300, 0x4000] ++ (List.range 8).map (0x4100 + ·)
  ++ [0x4200, 0x4300, 0x5000, 0x6000, 0x6100, 0x6200, 0x7000, 0x7100, 0x7110, 0x7200, 0x7300, 0x8000, 0x8100, 0x8200]

/-- The row of an object and subindex. -/
def objRow (idx sub : Nat) : Option Obj := (objRows idx).find? (·.sub = sub)

/-- The key under which `cat.vals` holds a value. -/
def objKey (idx sub : Nat) : Nat := 256 * idx + sub

/-- The Default of an object as its bytes. -/
def objDefault (idx sub : Nat) : Bytes :=
  match objRow idx sub with
  | some o => leBytes o.ty.bytes o.dflt
  | none => []

end Sys2Proof.Machine
end

