-- ==== Sys2Proof/Machine/State.lean ====
section
/-! DEFINITION. The state of the VQ-2630 as plain data, block by block, and `State.reset`. A field's default is its
value in `State.reset`; INVENTORY.md names the rule or the log entry behind each. -/

namespace Sys2Proof.Machine

/-- Why the machine stops: it has no reason to. The spec gives every command an effect in every state, so no meaning
answers a fault and the type is empty; that is safe, since a stop is never passed off as an effect. -/
inductive Fault where
  deriving DecidableEq, Repr

/-- Why a command has no meaning here. -/
inductive Refusal where
  /-- Raised by an arm of `exec` whose command has no meaning yet; safe. -/
  | notModelled (mnemonic : String)
  deriving DecidableEq, Repr

/-- A memory: cells with strictly rising addresses, none equal to what an unlisted address reads as. -/
abbrev Cells := List Host.Cell

/-! ## Jarley cores (14, 15, 16) -/

/-- What a producer in flight will write (14 Table 14-5). -/
inductive Target where
  | reg (r : Fin 16)
  | flagC | flagZ | flagN | flagV
  | ml
  | vbase
  | wt (n : Fin 15)
  deriving DecidableEq, Repr

/-- A result that lands before the instruction of issue slot `due` reads its operands (14 R622). -/
structure Landing where
  due : Nat
  target : Target
  value : Word
  deriving DecidableEq, Repr

/-- A return-stack entry (14 R615): `exc` is KIND. -/
structure StackEntry where
  pc : Half
  st : Half
  exc : Bool
  deriving DecidableEq, Repr

/-- A buffered store (14 R633): physical address, bytes, and whether its instruction was fetched from Plinth ROM
(12 R513). -/
structure BufStore where
  addr : Nat
  bytes : Bytes
  fromRom : Bool
  deriving DecidableEq, Repr

/-- The six long instructions (15 Table 15-10). -/
inductive LongOp where | bmov | bfil | bcmp | bcrc | bmac | bxor
  deriving DecidableEq, Repr

/-- An access that froze its core, with the operands of its instruction. -/
inductive FrozenAccess where
  | ld (z : Size) (r : Fin 16) (p : Fin 8) (post parity : Bool)
  | st (z : Size) (r : Fin 16) (p : Fin 8) (post : Bool)
  | ldx (z : Size) (r : Fin 16) (p : Fin 8) (off : Half) (parity : Bool)
  | stx (z : Size) (r : Fin 16) (p : Fin 8) (off : Half)
  | lda (z : Size) (r : Fin 16) (addr : Half) (parity : Bool)
  | sta (z : Size) (r : Fin 16) (addr : Half)
  | long (op : LongOp) (more : Nat) (parity : Bool)
  deriving DecidableEq, Repr

structure Core where
  regs : Vector Byte 16 := Vector.replicate 16 0
  pc : Half := 0
  /-- ST of 14 Table 14-1. -/
  st : Half := 0x00E0
  flight : List Landing := []
  /-- The number of the next issue slot. -/
  slot : Nat := 0
  /-- A branch in its delay slots: slots left, and the address after them (none: the next in sequence). -/
  branch : Option (Nat × Option Half) := none
  /-- The long instruction at `pc` has completed an element and has more (15 R668). -/
  longMid : Bool := false
  wt : Vector Word 15 := Vector.replicate 15 0
  fwt : Vector Word 15 := Vector.replicate 15 0
  vbase : Half := 0x0100
  trap : Bool := false
  lock : Bool := false
  rsLost : Bool := false
  /-- General entries, oldest first. -/
  stack : List StackEntry := []
  alarm : Option StackEntry := none
  cycle : Word := 0
  wbuf : List BufStore := []
  /-- The access that froze the core (14 R631). -/
  frozen : Option FrozenAccess := none
  waiting : Bool := false
  halted : Bool := false
  /-- A halt waits for a point at which an interrupt could be taken (13 R592). -/
  haltReq : Bool := false
  /-- The next instruction ends with a halt (13 R592). -/
  stepping : Bool := false
  /-- The next instruction does not meet its breakpoint: the core was resumed or stepped at it (13). -/
  pastBp : Bool := false
  running : Bool := false
  deriving DecidableEq, Repr

/-- One core's view of the exception registers (16 Tables 16-9 and 16-10). -/
structure ExcView where
  fcause : Byte := 0
  fsrc : Byte := 0
  fpc : Half := 0
  faddr : Word := 0
  nstat : Byte := 0
  naddr : Word := 0
  ncount : Word := 0
  /-- Vector 16 latched at PFW_N assertion (16 Table 16-1). -/
  pfwLatch : Bool := false
  deriving DecidableEq, Repr

/-! ## Clock, supplies, memories, OTP -/

structure Clk where
  raw : Nat := 0
  /-- Time by the RC oscillator, in millionths of a nominal tick (11 R482, log 13). -/
  rc : Nat := 0
  /-- The model's own counter for free values; no part of the device. -/
  free : Nat := 0
  running : Bool := false
  vio : Bool := false
  /-- Power-good has risen and no brown-out has come since (17 R718). -/
  good : Bool := false
  resetLow : Bool := false
  resetDeferred : Bool := false
  pfw : Bool := false
  testmode : Bool := false
  /-- The Cold start waits before step 5 for PFW_N (12 R546). -/
  startHeld : Bool := false
  deriving DecidableEq, Repr

/-- ECC state of a flash word: one wrong bit, or uncorrectable (05 R194). -/
inductive Ecc where | corrected | uncorrectable
  deriving DecidableEq, Repr

structure Mem where
  curSram : Cells := []
  regSram : Cells := []
  /-- Flash main array by physical offset: 8192 × physical block + offset in block. -/
  flash : Cells := []
  /-- Flash words (by physical word number) that do not decode clean. -/
  ecc : List (Nat × Ecc) := []
  /-- Physical blocks whose erase was cut off (05 R753). -/
  cut : List Nat := []
  info : Cells := []
  /-- Words of the information area that read all ones and are not empty at the erase-verify margin (05 R753). -/
  infoWeak : List Nat := []
  deriving DecidableEq, Repr

structure Otp where
  fuses : Cells := []
  shadowA : Cells := []
  shadowB : Cells := []
  /-- Words programmed since the Cold start, as they were before: word number, four bytes (13 R562). -/
  before : List (Nat × Bytes) := []
  /-- Lock bits that a program which did not verify has left in the shadow: they are not in force (13 R562). -/
  loose : Word := 0
  deriving DecidableEq, Repr

/-! ## Records (03 R106) -/

structure Record where
  stamp : Dword
  angle : Half
  cycle : Byte
  quality : Byte
  seq : Word
  source : Half
  snap : BitVec 24
  data : BitVec 24
  tag : Dword
  deriving DecidableEq, Repr

/-- A record waiting to enter the seal lane: the tick at which it arose, its class of 01 R30, and t0 of a BI record
(03 R105; 0 for the others). -/
structure Arisen where
  rcd : Record
  tick : Nat
  cls : Nat
  t0 : Nat
  deriving DecidableEq, Repr

/-- Records not admitted: how many, the first, and the extreme stamps (03 R136). -/
structure Lost where
  count : Nat
  first : Record
  lo : Nat
  hi : Nat
  deriving DecidableEq, Repr

/-! ## Time base and phase tracker (02) -/

inductive Sync where | free | acquiring | locked | holdover
  deriving DecidableEq, Repr

structure TimeBase where
  sec : Nat := 0
  tick : Nat := 0
  /-- Corrected local time in ticks since power-on: raw ticks with holds and skips, never stepped. -/
  local_ : Nat := 0
  sync : Sync := .free
  rank : Nat := 4
  /-- The rank in use lost its source: rank 4 takes over at the next second of the local count (02 R51). -/
  rankDrop : Bool := false
  fcorr : Int := 0
  /-- Integral part of the correction, in ppb (02 R55). -/
  fint : Int := 0
  fAcc : Int := 0
  /-- Phase still to slew, in units of 0.5 ns. -/
  slew : Int := 0
  slewPhase : Nat := 0
  pherr : Int := 0
  count : Nat := 0
  /-- Corrected local time of the last valid PPS edge. -/
  lastPps : Option Nat := none
  /-- Its raw tick, and its compensated raw tick. -/
  ppsRaw : Option Nat := none
  ppsTick : Option Int := none
  lastEdge : Option Nat := none
  tod : Option Nat := none
  todSeen : Bool := false
  /-- Rank 3: the second named by the last valid PPS edge. -/
  rank3 : Option Nat := none
  /-- TAI second named by the last frame that passed its own checks. -/
  irigPrev : Option Nat := none
  irigValid : Bool := false
  irigNext : Option Nat := none
  /-- The last valid on-time edge: compensated raw tick and the second it names. -/
  irigEdge : Option (Int × Nat) := none
  irigQuality : Nat := 15
  irigFlags : Nat := 0
  holdSince : Option Nat := none
  holdx : Bool := false
  steps : Nat := 0
  refusals : Nat := 0
  offsetStep : Int := 0
  /-- L or E in force was written through the Catalogue and has not been overwritten by IRIG (02 R92). -/
  leapWritten : Bool := false
  ppsOut : Bool := false
  ppsOutEnd : Nat := 0
  /-- The second whose PPS_OUT pulse has begun. -/
  ppsOutSec : Option Nat := none
  deriving DecidableEq, Repr

structure PhaseIn where
  lastX : Option Int := none
  /-- The input was disabled after that crossing, so the next one ends no period (02 R71). -/
  gap : Bool := false
  /-- Raw tick of the comparator rise of that crossing; blanking runs from it. -/
  lastRise : Option Nat := none
  period : Option Nat := none
  valid : Nat := 0
  locked : Bool := false
  /-- Valid periods since lock, newest first. -/
  hist : List Nat := []
  /-- Reported frequencies in mHz with their crossing, newest first. -/
  freqs : List (Nat × Int) := []
  suppUntil : Option Nat := none
  lastRec : Bool := false
  /-- Reason of the last loss of lock (02 Table 02-4). -/
  reason : Nat := 0
  lastFreq : Nat := 0
  deriving DecidableEq, Repr

structure Phase where
  ins : Vector PhaseIn 3 := Vector.replicate 3 {}
  ref : Option (Fin 3) := none
  refSince : Int := 0
  cycle : Byte := 0
  bRelA : Half := 0
  cRelA : Half := 0
  suppressed : Nat := 0
  deriving DecidableEq, Repr

/-! ## Accession pipeline (03) -/

structure Cand where
  t0 : Nat
  stamp : Dword
  angle : Half
  cycle : Byte
  quality : Byte
  last : Nat
  debounce : Nat
  deriving DecidableEq, Repr

structure Bi where
  qual : Bool := false
  cand : Option Cand := none
  lastTrans : Nat := 0
  /-- Count window: opening tick and qualified edges in it. -/
  win : Option (Nat × Nat) := none
  supp : Bool := false
  suppRun : Nat := 0
  suppTotal : Nat := 0
  filtered : Nat := 0
  burst : Nat := 0
  burstRec : Option Nat := none
  deriving DecidableEq, Repr

/-- What a checkpoint's signature covers (03 R120). -/
structure Anchor where
  seq : Nat
  tag : Dword
  stamp : Dword
  deriving DecidableEq, Repr

/-- A record in its ring slot, its journal slot (256 × block + slot) and the tick of its shelving. -/
structure Shelved where
  rcd : Record
  seq : Nat
  pos : Nat
  tick : Nat
  deriving DecidableEq, Repr

structure Acc where
  en : Bool := false
  rawBi : BitVec 24 := 0
  bis : Vector Bi 24 := Vector.replicate 24 {}
  queue : List Arisen := []
  held : List Arisen := []
  nextSeq : Nat := 0
  baseSeq : Nat := 0
  baseSlot : Nat := 0
  drainSeq : Nat := 0
  prevTag : Dword := 0
  epoch : Nat := 0
  jBlock : Nat := 0
  jSlot : Nat := 0
  ring : List (Nat × Shelved) := []
  losing : Bool := false
  lost : Option Lost := none
  lostCount : Nat := 0
  overflows : Nat := 0
  checkpoints : Nat := 0
  anchorTick : Nat := 0
  ckDue : Bool := false
  ckSign : Option Anchor := none
  /-- A finished signature that waits for four slots in one block. -/
  ckReady : Option (Anchor × Bytes) := none
  /-- Its slot that is sealed next: 0 the header (03 R121). -/
  ckPos : Nat := 0
  lastAnchor : Nat := 0
  newest : Option Anchor := none
  hostMark : Nat := 0
  untested : Bool := false
  irq : Byte := 0
  irqen : Byte := 0
  postRef : Bool := false
  postUntil : Nat := 0
  postSrc : Half := 0
  postDat : Word := 0
  deriving DecidableEq, Repr

/-! ## Order pipeline (04) -/

/-- F_k and C_k; why a key is unavailable: damage or exhaustion (06 R267, 04 R161), a ceiling of R161 not yet in
force (04 R746), a rotation (06 R268). -/
structure KeyState where
  floor : Nat := 0
  ceil : Nat := 0
  damaged : Bool := false
  exhausted : Bool := false
  ceilHeld : Bool := false
  rotating : Bool := false
  deriving DecidableEq, Repr

inductive Drive where | highZ | inactive | active
  deriving DecidableEq, Repr

inductive Stage where | pending | pulsing | ended | done
  deriving DecidableEq, Repr

structure OutOrder where
  out : Fin 8
  release : Int
  delay : Nat
  width : Nat
  high : Bool
  stage : Stage
  /-- The first readback has been made. -/
  read1 : Bool
  /-- Tick of the pulse end once it has ended, and the record's view of that instant (04 R185). -/
  endTick : Int
  endStamp : Dword := 0
  endAngle : Half := 0
  endCycle : Byte := 0
  endQual : Byte := 0
  /-- The pulse was cut; no end record (04 R191, R748). -/
  cut : Bool
  deriving DecidableEq, Repr

structure Held where
  id : Nat
  action : Nat
  mask : Nat
  ref : Nat
  flags : Nat
  angle : Nat
  width : Nat
  notBefore : Nat
  notAfter : Nat
  key : Nat
  port : Port
  immediate : Bool
  fallback : Bool
  /-- Cycles from the latest crossing of the named input to the target cycle: j of 04 R170. -/
  j : Int
  outs : List OutOrder
  deriving DecidableEq, Repr

/-- Where an answer goes. `can`: bus, command, TID, index, subindex, segment. `memo`, `obj`: the contactless port with
its offset. -/
inductive Reply where
  | host
  | can (bus : Bool) (cmd tid : Byte) (idx sub seg : Nat)
  | twoWire
  | memo (session : Nat)
  | obj (session off : Nat)
  | curator
  | registrar
  | debug
  | none
  deriving DecidableEq, Repr

structure OrderMsg where
  port : Port
  tick : Nat
  bytes : Bytes
  reply : Reply
  /-- It arrived with fewer than 32 free ring slots: it is rejected, not verified (04 R165). -/
  full : Bool := false
  deriving DecidableEq, Repr

structure Ord where
  ven : Bool := false
  keys : Vector KeyState 4 := Vector.replicate 4 {}
  waiting : List OrderMsg := []
  hold : Vector (Option Held) 16 := Vector.replicate 16 none
  /-- Orders whose entry was freed while outputs of theirs still wait or carry a pulse (04 R181, R183): entry, order. -/
  loose : List (Fin 16 × Held) := []
  /-- Accepted CANCELs: arrival tick and mask. -/
  cancels : List (Nat × Nat) := []
  armLowSince : Option Nat := none
  armed : Bool := false
  drive : Vector Drive 8 := Vector.replicate 8 .highZ
  pads : Byte := 0
  accepted : Nat := 0
  rejected : Nat := 0
  results : List (Nat × Bytes) := []
  irq : Byte := 0
  irqen : Byte := 0
  deriving DecidableEq, Repr

/-! ## Conservator (05) -/

/-- What a register write or a chip event asks of the cores and of the reset logic. -/
inductive Ask where
  | cold (cause : Nat) (env : StartEnv)
  | curReset (cause : Nat)
  /-- The Curator is held in reset on entry to Reserve mode (12 R538). -/
  | holdCurator
  | release
  /-- The Plinth enters the Registrar image (14 R636). -/
  | enterRegistrar
  | halt | resume | step
  | coreWrite (value : Word)
  deriving DecidableEq, Repr

/-- What the array can be asked to do (05 Table 05-5), and what stands in its order without occupying it. -/
inductive FlashOp where
  | winProgram (w : CoreId) (addr : Nat) (data : Bytes)
  | winErase (w : CoreId) (addr : Nat)
  /-- Journal block, page, first record and count; `flush` under PFW_N. -/
  | journalPage (block page : Nat) (first count : Nat) (flush : Bool)
  | preErase (block : Nat)
  /-- The program of a store image, and its read-back alone after a remap. -/
  | catImage
  | catRead
  | catErase (slot : Nat)
  /-- The entry of the first write that waits, into copy A of the wrapped-key area. -/
  | vaultWrite
  /-- An entry that stands in one copy, into the other (0 A, 1 B), and the erase of a block of a copy. -/
  | vaultEntry (copy : Nat) (entry : Bytes)
  | vaultErase (copy block : Nat)
  /-- The Registrar's own commands of its window: the update path, the ledger, the placard. -/
  | imageErase (block left : Nat)
  | imagePage (off : Nat) (data : Bytes)
  | ledgerPage (pos : Nat) (recs : List Bytes)
  | ledgerErase (block : Nat)
  | placardErase (block : Nat)
  | placardPage (page : Nat) (data : Bytes)
  /-- A start-attempt word, the word of its area it is tried at first (none: after the largest), and what waits for it. -/
  | startWord (value : Nat) (start : Option Nat) (after : Option Ask)
  /-- The erase of the page that a start-attempt word begins. -/
  | startErase (page : Nat) (word : FlashOp)
  /-- A grown-table entry into a copy (0 A, 1 B), and what ends with a result once it stands. -/
  | grown (copy : Nat) (entry : Bytes) (of : FlashOp) (res : Nat)
  | grownErase (copy page : Nat)
  /-- The completion of a remap for a failed operation (1 program, 2 erase) of a logical block: the bytes it was to program from an
  offset in the block on. -/
  | remap (of : FlashOp) (reason block off : Nat) (data : Bytes)
  /-- Its guarded erase of a pool block, and its copy into one. -/
  | remapErase (of : FlashOp) (phys : Nat)
  | remapCopy (of : FlashOp) (phys : Nat)
  /-- A refresh that waits, and its copy. -/
  | refresh (block : Nat)
  | refreshCopy (block phys : Nat)
  | poolErase (phys : Nat)
  | nothing
  deriving DecidableEq, Repr

structure RunOp where
  op : FlashOp
  guarded : Bool
  nested : Bool
  deriving DecidableEq, Repr

structure FlashWin where
  res : Byte := 0
  addr : Word := 0
  buf : Cells := []
  deriving DecidableEq, Repr

structure Cns where
  /-- Grown mapping in force: logical block to physical block, 0x7FF retired. -/
  map : List (Nat × Nat) := []
  bad : List Nat := []
  gen : Nat := 0
  /-- The highest generation among the entries that have come into force. -/
  genUsed : Nat := 0
  queue : List FlashOp := []
  /-- The Registrar's own window commands, for which it waits until its window is free. -/
  rjobs : List FlashOp := []
  /-- Information pages whose erase failed: they hold no empty word (05 R750). -/
  noEmpty : List Nat := []
  /-- The model's own: programs of the epoch word of this start that will not verify (`StartEnv.epochFaults`). -/
  epochFaults : Nat := 0
  run : Option RunOp := none
  susp : Option FlashOp := none
  /-- The running or last erase was started under YIELD. -/
  yield : Bool := true
  lastRead : Nat := 0
  /-- The oldest sealed record not yet programmed has waited 100 ms (05 R225). -/
  pageDue : Bool := false
  ahead : Nat := 0
  jNewest : Option Nat := none
  pass : Bool := false
  passPos : Nat := 0xFFFF
  passTick : Nat := 0
  /-- Blocks passed over in this pass, visited after block 1023 (05 R239). -/
  passLater : List Nat := []
  sched : List Nat := []
  sec : Nat := 0
  ded : Nat := 0
  secAddr : Word := 0
  dedAddr : Word := 0
  susps : Nat := 0
  guardedCount : Nat := 0
  progFails : Nat := 0
  eraseFails : Nat := 0
  refreshes : Nat := 0
  irq : Byte := 0
  irqen : Byte := 0
  cwin : FlashWin := {}
  rwin : FlashWin := {}
  /-- The Curator window's running command outlived a Curator reset (05 R248). -/
  cwinOrphan : Bool := false
  deriving DecidableEq, Repr

/-! ## Vault and entropy (06) -/

structure KeySlot where
  key : Bytes
  /-- The complemented second copy (06 R259). -/
  inv : Bytes
  attr : Half
  deriving DecidableEq, Repr

/-- A chain of channel commands (06 R276): command, slot, and what continues it: the last block of CBC, the counter
block of CTR, every byte so far of CMAC, SHA-256 and HMAC. -/
structure Chain where
  cmd : Nat
  slot : Nat
  acc : Bytes
  deriving DecidableEq, Repr

structure VaultChan where
  res : Byte := 0
  slot : Byte := 0
  flags : Byte := 0
  len : Half := 0
  attr : Half := 0
  iv : Cells := []
  key : Cells := []
  inp : Cells := []
  out : Cells := []
  chain : Option Chain := none
  deriving DecidableEq, Repr

/-- A queued engine command with the inputs copied at its write (06 R275). -/
structure VaultJob where
  ch : CoreId
  cmd : Nat
  slot : Nat
  flags : Nat
  len : Nat
  attr : Nat
  iv : Bytes
  key : Bytes
  inp : Bytes
  /-- The Curator was reset while the command ran: its result is discarded. -/
  orphan : Bool
  deriving DecidableEq, Repr

/-- Why a wrapped-key entry is written. -/
inductive VaultWhy where
  | ceiling (k : Fin 4) (c : Nat)
  | rotate (k : Fin 4)
  | load (job : VaultJob)
  | clear (job : VaultJob)
  deriving DecidableEq, Repr

structure Vlt where
  slots : Vector (Option KeySlot) 16 := Vector.replicate 16 none
  kfault : Half := 0
  cch : VaultChan := {}
  rch : VaultChan := {}
  jobs : List VaultJob := []
  writes : List VaultWhy := []
  /-- The highest write counter, with the jump of 06 R267. -/
  counter : Nat := 0
  gens : Vector Nat 4 := Vector.replicate 4 0
  tagFails : Nat := 0
  slotFaults : Nat := 0
  /-- The model's own: what is still to strike the keys (`StartEnv.keyFaults`). -/
  keyFaults : List Nat := []
  /-- The model's own: order keys whose ceiling write of this start is held or fails (`StartEnv.heldCeilings`). -/
  heldCeil : List Nat := []
  pub : Bytes := []
  ready : Bool := false
  irq : Byte := 0
  irqen : Byte := 0
  deriving DecidableEq, Repr

inductive TrnState where | testing | delivering | blocked | exhausted
  deriving DecidableEq, Repr

structure Trn where
  st : TrnState := .testing
  fifo : Bytes := []
  under : Bool := false
  irq : Byte := 0
  irqen : Byte := 0
  thresh : Byte := 16
  fails : Nat := 0
  restarts : Nat := 0
  runMax : Nat := 0
  aptMax : Nat := 0
  last : Option Bool := none
  run : Nat := 0
  aptFirst : Bool := false
  aptN : Nat := 0
  aptC : Nat := 0
  deriving DecidableEq, Repr

/-! ## Catalogue (07) -/

structure CatReq where
  port : Port
  tick : Nat
  write : Bool
  idx : Nat
  sub : Nat
  data : Bytes
  reply : Reply
  deriving DecidableEq, Repr

structure MailReq where
  id : Nat
  port : Port
  write : Bool
  idx : Nat
  sub : Nat
  data : Bytes
  tick : Nat
  reply : Reply
  deriving DecidableEq, Repr

/-- A commit whose values wait for a crossing (07 R324): staged values and count, token, port of the BEGIN, limit. -/
structure CrossApply where
  vals : List (Nat × Bytes)
  count : Nat
  token : Nat
  port : Port
  limit : Nat
  deriving DecidableEq, Repr

/-- Why a store image is being written (07 R329, R331, R304). -/
inductive JobWhy where
  | commit (crossing : Bool) (reply : Reply)
  | single (port : Port) (key : Nat) (reply : Reply)
  | internal
  deriving DecidableEq, Repr

structure CatJob where
  why : JobWhy
  /-- Values the image brings into force. -/
  vals : List (Nat × Bytes)
  /-- The stored RO values it holds. -/
  ro : List (Nat × Bytes)
  image : Bytes
  deriving DecidableEq, Repr

structure CatChan where
  res : Byte := 0
  abort : Half := 0
  idx : Half := 0
  sub : Byte := 0
  len : Half := 0
  data : Cells := []
  deriving DecidableEq, Repr

structure Cat where
  /-- Values that differ from the Default, keyed by 256 × index + subindex. -/
  vals : List (Nat × Bytes) := []
  gen : Nat := 0
  slot : Option Nat := none
  loaded : Bool := false
  noImage : Bool := false
  size : Nat := 0
  nextErased : Bool := true
  job : Option CatJob := none
  dirtyFast : Bool := false
  dirtySlow : Bool := false
  lastSlow : Nat := 0
  txState : Nat := 0
  token : Nat := 0
  owner : Port := .internal
  staged : List (Nat × Bytes) := []
  txTick : Nat := 0
  result : Nat := 0
  lastAbort : Nat := 0
  timedOut : Option Port := none
  crossing : List CrossApply := []
  reqs : List CatReq := []
  /-- Writes taken in the latest window: its number, object key, port. -/
  taken : List (Nat × Nat × Port) := []
  mbox : List MailReq := []
  mboxId : Nat := 0
  cch : CatChan := {}
  rch : CatChan := {}
  kch : CatChan := {}
  irq : Byte := 0
  irqen : Byte := 0
  fwReady : Bool := false
  deriving DecidableEq, Repr

/-! ## Host port (08) -/

structure Answer where
  status : Byte
  cmd : Byte
  payload : Bytes
  deriving DecidableEq, Repr

inductive Deferred where
  | records (s count : Nat)
  | challenge
  | loan (cert : Bytes)
  | image (n : Nat) (data : Bytes)
  deriving DecidableEq, Repr

structure HostPort where
  imm : Option Answer := none
  defr : Option Answer := none
  defJob : Option Deferred := none
  defUnfetched : Bool := false
  /-- The command byte whose answer keeps HRDY low. -/
  busy : Option Byte := none
  open_ : Bool := false
  /-- A frame is being clocked in; it began in busy time. -/
  frame : Option Bool := none
  idleSince : Nat := 0
  attention : Option Nat := none
  notices : Nat := 0
  frames : Nat := 0
  crcErrs : Nat := 0
  malformed : Nat := 0
  whileBusy : Nat := 0
  irq : Byte := 0
  irqen : Byte := 0
  quad : Bool := false
  /-- The bytes the latest RESP_FETCH drove. -/
  driven : Bytes := []
  deriving DecidableEq, Repr

/-! ## CAN and two-wire (09) -/

/-- A frame on a bus as a controller sends it: always FD, with its bit rate switch and error state indicator (09 Table 09-1). -/
structure CanSent where
  id : Nat
  data : Bytes
  brs : Bool
  esi : Bool
  deriving DecidableEq, Repr

structure CanCtl where
  en : Bool := false
  restricted : Bool := false
  /-- Bit rate switch, delay compensation offset, and prescaler, TSEG1, TSEG2 and SJW of the nominal and the data phase, as the last
  Cold start took them (09 R383, R385). -/
  brs : Bool := true
  tdcOffset : Nat := 16
  timing : List Nat := [1, 63, 16, 16, 1, 15, 4, 4]
  st : Nat := 0
  tec : Nat := 0
  rec_ : Nat := 0
  lec : Nat := 0
  tdcv : Byte := 0
  busOffs : Nat := 0
  rx : Nat := 0
  tx : Nat := 0
  drops : Nat := 0
  evq : List Record := []
  txq : List Bytes := []
  irq : Byte := 0
  irqen : Byte := 0
  /-- The last frame put on the bus, and whether the last one met on it was acknowledged. -/
  sent : Option CanSent := none
  acked : Bool := false
  deriving DecidableEq, Repr

structure DupEntry where
  data : Bytes
  bus : Bool
  tick : Nat
  resp : Option Bytes
  /-- Buses whose duplicates wait for the response. -/
  waiting : List Bool
  deriving DecidableEq, Repr

structure Segment where
  write : Bool
  tid : Byte
  idx : Nat
  sub : Nat
  total : Nat
  value : Bytes
  next : Nat
  tick : Nat
  bus : Bool
  deriving DecidableEq, Repr

structure Can where
  a : CanCtl := {}
  b : CanCtl := {}
  open_ : Bool := false
  node : Nat := 1
  base : Nat := 0x400
  ebase : Nat := 0x500
  dup : List DupEntry := []
  /-- Requests no longer remembered that are still to be answered. -/
  owed : List DupEntry := []
  seg : Option Segment := none
  /-- The transfer that the segment timeout ended last: TID, index, subindex. -/
  lapsed : Option (Byte × Nat × Nat) := none
  taken : Nat := 0
  dups : Nat := 0
  ignored : Nat := 0
  deriving DecidableEq, Repr

structure TwoWire where
  open_ : Bool := false
  addr : Nat := 0x5A
  ptr : Half := 0
  filter : Nat := 20
  holdT : Nat := 160
  setup : Nat := 120
  snap : Bytes := []
  pIdx : Half := 0
  pSub : Byte := 0
  pLen : Byte := 0
  pStat : Byte := 0
  pAbort : Half := 0
  pData : Cells := []
  /-- A proxy command written in the transaction that just ended. -/
  pStart : Byte := 0
  /-- The tick of the STOP or repeated START that ended that transaction. -/
  pTick : Nat := 0
  pRun : Bool := false
  count : Nat := 0
  refused : Nat := 0
  aborts : Nat := 0
  irq : Byte := 0
  irqen : Byte := 0
  out : Bytes := []
  acked : Bool := false
  deriving DecidableEq, Repr

structure Twm where
  ctrl : Byte := 0
  res : Byte := 0
  addr : Byte := 0
  wlen : Byte := 0
  rlen : Byte := 0
  retry : Byte := 0x53
  tries : Byte := 0
  wbuf : Cells := []
  rbuf : Cells := []
  inGap : Bool := false
  /-- The tick at which the attempt, or the gap, began. -/
  since : Nat := 0
  /-- What the transfer puts on the bus: 7-bit address, bytes written, bytes asked for; and the SCL pulses sent before its START. -/
  bus : Option (Nat × Bytes × Nat) := none
  pulses : Nat := 0
  deriving DecidableEq, Repr

/-! ## Contactless (10) -/

inductive Layer where | idle | ready | active | halt | readyStar | activeStar | layer4
  deriving DecidableEq, Repr

inductive Overlay where | closed | opened | securedP | securedA
  deriving DecidableEq, Repr

/-- What a tag command brings to its body: its data without the MAC, and whether a MAC verified. -/
structure TagCall where
  a : Apdu
  data : Bytes
  mac : Bool
  /-- It comes directly after a successful AUTH-1. -/
  afterAuth : Bool
  deriving DecidableEq, Repr

structure Tag where
  /-- The field domain's own time in units of 2.5 ns, and its layer-4 activations. -/
  clock : Nat := 0
  session : Nat := 0
  /-- The field domain runs. -/
  on : Bool := false
  field : Bool := false
  /-- The root sensed at field on, K_tag with its complement (slot 7, 06 R259), and the UID (13 R556). -/
  root : Bytes := []
  key : Bytes := []
  keyInv : Bytes := []
  /-- The model's own: what is still to strike slot 7 in this field (the faults of FIELD_ON). -/
  faults : List Nat := []
  uid : Bytes := []
  /-- OTP mismatch or life-cycle at field on: no answer until the field goes (10, 13 R556). -/
  dead : Bool := false
  enabled : Bool := true
  allow212 : Bool := true
  fwi : Nat := 7
  password : Nat := 0
  fieldOnly : Bool := false
  layer : Layer := .idle
  level1 : Bool := false
  overlay : Overlay := .closed
  tx212 : Bool := false
  rx212 : Bool := false
  cid : Nat := 0
  fsd : Nat := 0
  /-- Nothing but the RATS has come since layer 4 began: a PPS may follow. -/
  ppsOk : Bool := false
  fails : Nat := 0
  clearSince : Option Nat := none
  selected : Bool := false
  rndR : Bytes := []
  rndT : Bytes := []
  authPend : Bool := false
  ks : Bytes := []
  n : Nat := 0
  /-- The answer last sent: data and status words. -/
  out : Bytes := []
  /-- The blocks that answered the last command, without their CRC, and the number of the engine's last block. -/
  sent : List Bytes := []
  blk : Bool := true
  /-- An answer that waits for R444, with its earliest tick. -/
  delayed : Option (Bytes × Nat) := none
  /-- The command that waits for a Catalogue answer, and the one that waits for the array. -/
  waitCat : Option Apdu := none
  waitRead : Option TagCall := none
  /-- The tick by which the worst-case bounds of what blocks the answer have passed. -/
  waitEnd : Nat := 0
  /-- End of the reader's last block, and the extended waiting time factor. -/
  blockEnd : Nat := 0
  wtxm : Nat := 1
  wtxOut : Bool := false
  sessions : Nat := 0
  auths : Nat := 0
  failed : Nat := 0
  wtxs : Nat := 0
  irq : Byte := 0
  irqen : Byte := 0
  /-- The placard in force: page 0 to 31, generation, bytes. -/
  placard : Option (Nat × Nat × Bytes) := none
  placardTick : Nat := 0
  /-- A placard is due at once: after a start or a memo commit. -/
  placardDue : Bool := false
  deriving DecidableEq, Repr

/-! ## Registrar and start (11, 12) -/

structure Rgr where
  alerts : Byte := 0
  t1 : Int := 0
  t2 : Int := 0
  tExt : Int := 0
  tMaxCold : Int := -128
  /-- Warnings raised: die 1, die 2, disagreement, external. -/
  warn : Vector Bool 4 := Vector.replicate 4 false
  disSince : Option Nat := none
  supply : Vector Nat 3 := Vector.replicate 3 0
  supplyOut : Vector Bool 3 := Vector.replicate 3 false
  brownRail : Option Nat := none
  clkDev : Int := 0
  pllBad : Nat := 0
  backup : Bool := false
  goodSince : Option Nat := none
  pllFaultSeen : Bool := false
  glitches : Nat := 0
  glitchTicks : List Nat := []
  /-- The Curator has been released and not reset since. -/
  wdRun : Bool := false
  wdLast : Nat := 0
  wdHalf : Bool := false
  wdo : Bool := false
  expiries : Nat := 0
  badKicks : Nat := 0
  /-- Confirm window: the tick it opened and its length; remaining RC ticks while the Curator is halted. -/
  win : Option (Nat × Nat) := none
  winPaused : Option Nat := none
  /-- Time run since the last kick, while halted. -/
  wdPaused : Option Nat := none
  crcFails : Nat := 0
  ledSeq : Nat := 0
  ledTag : Dword := 0
  ledBlock : Nat := 0
  ledSlot : Nat := 0
  /-- Sealed ledger records not yet programmed: position, tick, bytes. -/
  ledBuf : List (Nat × Nat × Bytes) := []
  /-- Those of them that a command of the window takes. -/
  ledTaken : Nat := 0
  ledStarted : Bool := false
  ledNewest : Nat := 0
  ledHour : Nat := 0
  ledHourN : Nat := 0
  ledNotAdm : Nat := 0
  ledLost : Option Lost := none
  refTick : Vector (Option Nat) 7 := Vector.replicate 7 none
  imgStatus : Nat := 0
  imgOwner : Option Port := none
  imgKind : Nat := 0
  imgSlot : Nat := 0
  imgNext : Nat := 0
  imgBytes : Nat := 0
  imgVer : Nat := 0
  imgLen : Nat := 0
  imgLast : Bytes := []
  imgTick : Nat := 0
  rmbIrq : Byte := 0
  rmbIrqen : Byte := 0
  anId : Half := 0
  anCode : Half := 0
  anLen : Half := 0
  anData : Cells := []
  deriving DecidableEq, Repr

inductive Life where | blank | factory | provision | field | retd | scrap | lost
  deriving DecidableEq, Repr

structure Start where
  mode : Nat := 0
  cause : Nat := 0
  findings : Nat := 0
  /-- Codes found by the latest start, highest kept (12 R537). -/
  found : Nat := 0
  confirmed : Bool := false
  resetTick : Nat := 0
  relTime : Nat := 0
  timer : Option Nat := none
  slotCur : Nat := 0
  slotReg : Nat := 0
  pairing : Nat := 0
  life : Life := .blank
  exh : Bool := false
  /-- The start-attempt value in force. -/
  word : Nat := 0
  /-- Start-attempt values that wait to be written (12 R518). -/
  wordsHeld : List Nat := []
  regIn : Bool := false
  curVer : Nat := 0
  regVer : Nat := 0
  policy : Nat := 0
  reserve14 : Bool := false
  untested : Bool := false
  deriving DecidableEq, Repr

/-! ## Debug port and OTP programming (13) -/

structure Dbg where
  loaned : Word := 0
  loansOk : Nat := 0
  loansBad : Nat := 0
  loanNo : Nat := 0
  loanRes : Nat := 0
  chal : Option Bytes := none
  result : Byte := 0
  lcTarget : Byte := 0
  otpAddr : Half := 0
  otpData : Word := 0
  otpRun : Option (Nat × Nat) := none
  transRun : Option Nat := none
  lcDone : Bool := false
  otpProgs : Nat := 0
  /-- DBG_STATUS.BUSY and ENTBLK have taken their Warm value 0 and show neither the command that outlived the Curator reset
  nor the block from before it (13 Table 13-10). -/
  busyHid : Bool := false
  entHid : Bool := false
  creg : Byte := 0
  bps : Vector Half 4 := Vector.replicate 4 0
  bpen : Byte := 0
  loanBuf : Cells := []
  resp : Bytes := []
  deriving DecidableEq, Repr

/-! ## Vitrine, register buffers, GPIO (16, 01, 17) -/

structure Region where
  base : Word := 0
  lim : Word := 0x000000FF
  perm : Word := 0
  en : Bool := false
  lock : Bool := false
  deriving DecidableEq, Repr

structure Vit where
  en : Bool := false
  regions : Vector Region 32 := Vector.replicate 32 {}
  refs : Vector Word 7 := Vector.replicate 7 0
  /-- The model's own: transfers whose parity is still to fail (`StartEnv.busFaults`). -/
  parityFaults : List (Nat × Nat) := []
  cur : ExcView := {}
  reg : ExcView := {}
  deriving DecidableEq, Repr

/-- Read latches and staging buffers, keyed by 2^32 × initiator + register address (01 R34, R37). A staged value is
its bytes with their positions. -/
structure BusBufs where
  latches : List (Nat × Nat) := []
  staged : List (Nat × List (Nat × Byte)) := []
  deriving DecidableEq, Repr

structure Gpio where
  pins : BitVec 9 := 0
  dir : Half := 0
  out : Half := 0
  psel : Half := 0
  pen : Half := 0x01FF
  clkout : Byte := 0
  deriving DecidableEq, Repr

/-- Everything but the cores. -/
structure Chip where
  clk : Clk := {}
  mem : Mem := {}
  otp : Otp := {}
  time : TimeBase := {}
  phase : Phase := {}
  acc : Acc := {}
  ord : Ord := {}
  cns : Cns := {}
  vlt : Vlt := {}
  trn : Trn := {}
  cat : Cat := {}
  host : HostPort := {}
  can : Can := {}
  tw : TwoWire := {}
  twm : Twm := {}
  tag : Tag := {}
  rgr : Rgr := {}
  start : Start := {}
  dbg : Dbg := {}
  vit : Vit := {}
  bus : BusBufs := {}
  gpio : Gpio := {}
  asks : List Ask := []
  deriving DecidableEq, Repr

/-- The device: the two cores and the rest. -/
structure Device where
  chip : Chip := {}
  cur : Core := {}
  reg : Core := {}
  deriving DecidableEq, Repr

/-- The block: the device and its queue of waiting commands, first in first out. -/
structure State where
  dev : Device
  pending : List Instr
  deriving DecidableEq, Repr

/-- The device before power-good: every register at its Cold value, memories unwritten, the queue empty (log 4). -/
def State.reset : State := { dev := {}, pending := [] }

end Sys2Proof.Machine
end

