-- ==== Sys2Proof/Machine/Ops.lean ====
section
/-! DEFINITION. Operations that every family uses: memories, updates of one block, times, Catalogue values in force,
the two time axes of a record, and a record's entry into the seal lane. -/

namespace Sys2Proof.Machine

open Sys2Proof

/-! ## Memories -/

/-- The byte at an address; an unlisted address reads `d`. -/
def Cells.get (d : Byte) (m : Cells) (a : Nat) : Byte := (assoc a m).getD d

/-- The memory with one byte written, in canonical form. -/
def Cells.put (d : Byte) (m : Cells) (a : Nat) (b : Byte) : Cells := assocPut a (if b = d then none else some b) m

/-- `n` bytes from `a`. -/
def Cells.read (d : Byte) (m : Cells) (a : Nat) : Nat → Bytes
  | 0 => []
  | n + 1 => m.get d a :: Cells.read d m (a + 1) n

/-- The bytes written from `a` on. -/
def Cells.write (d : Byte) (m : Cells) (a : Nat) : Bytes → Cells
  | [] => m
  | b :: bs => Cells.write d (m.put d a b) (a + 1) bs

/-- `n` bytes from `a` set to what unlisted addresses read as. -/
def Cells.clear (m : Cells) (a n : Nat) : Cells := m.filter fun c => !(a ≤ c.1 && c.1 < a + n)

/-- Keys strictly rise from above `lo` and no value is the unlisted one. -/
def Cells.wfFrom (d : Byte) : Option Nat → Cells → Bool
  | _, [] => true
  | lo, (a, b) :: r => (match lo with | none => true | some l => decide (l < a)) && b != d && Cells.wfFrom d (some a) r

/-- The canonical form of a memory. -/
def Cells.wf (d : Byte) (m : Cells) : Bool := m.wfFrom d none

/-- The canonical form of every memory of the device. -/
def Mem.wf (m : Mem) : Bool :=
  m.curSram.wf 0 && m.regSram.wf 0 && m.flash.wf 0xFF && m.info.wf 0xFF

/-! ## Updates of one block -/

namespace Chip

def modClk (f : Clk → Clk) (c : Chip) : Chip := { c with clk := f c.clk }
def modMem (f : Mem → Mem) (c : Chip) : Chip := { c with mem := f c.mem }
def modOtp (f : Otp → Otp) (c : Chip) : Chip := { c with otp := f c.otp }
def modTime (f : TimeBase → TimeBase) (c : Chip) : Chip := { c with time := f c.time }
def modPhase (f : Phase → Phase) (c : Chip) : Chip := { c with phase := f c.phase }
def modAcc (f : Acc → Acc) (c : Chip) : Chip := { c with acc := f c.acc }
def modOrd (f : Ord → Ord) (c : Chip) : Chip := { c with ord := f c.ord }
def modCns (f : Cns → Cns) (c : Chip) : Chip := { c with cns := f c.cns }
def modVlt (f : Vlt → Vlt) (c : Chip) : Chip := { c with vlt := f c.vlt }
def modTrn (f : Trn → Trn) (c : Chip) : Chip := { c with trn := f c.trn }
def modCat (f : Cat → Cat) (c : Chip) : Chip := { c with cat := f c.cat }
def modHost (f : HostPort → HostPort) (c : Chip) : Chip := { c with host := f c.host }
def modCan (f : Can → Can) (c : Chip) : Chip := { c with can := f c.can }
def modTw (f : TwoWire → TwoWire) (c : Chip) : Chip := { c with tw := f c.tw }
def modTwm (f : Twm → Twm) (c : Chip) : Chip := { c with twm := f c.twm }
def modTag (f : Tag → Tag) (c : Chip) : Chip := { c with tag := f c.tag }
def modRgr (f : Rgr → Rgr) (c : Chip) : Chip := { c with rgr := f c.rgr }
def modStart (f : Start → Start) (c : Chip) : Chip := { c with start := f c.start }
def modDbg (f : Dbg → Dbg) (c : Chip) : Chip := { c with dbg := f c.dbg }
def modVit (f : Vit → Vit) (c : Chip) : Chip := { c with vit := f c.vit }
def modBus (f : BusBufs → BusBufs) (c : Chip) : Chip := { c with bus := f c.bus }
def modGpio (f : Gpio → Gpio) (c : Chip) : Chip := { c with gpio := f c.gpio }

/-- Applies `f` when `p` holds. -/
def when (p : Bool) (f : Chip → Chip) (c : Chip) : Chip := if p then f c else c

/-- Asks the device for something the chip cannot do alone. -/
def ask (a : Ask) (c : Chip) : Chip := { c with asks := c.asks ++ [a] }

end Chip

/-- A command whose effect is on the chip alone; the queue and the cores stay. -/
def State.onChip (f : Chip → Chip) (s : State) : State := { s with dev := { s.dev with chip := f s.dev.chip } }

/-- As `onChip`, for an event that only a powered main domain out of reset can see (log 3). -/
def State.onMain (f : Chip → Chip) (s : State) : State :=
  s.onChip fun c => if c.clk.running then f c else c

/-! ## Times in stamp ticks of 2.5 ns -/

def ticksUs (n : Nat) : Nat := 400 * n
def ticksMs (n : Nat) : Nat := 400000 * n
def ticksS (n : Nat) : Nat := 400000000 * n
/-- A time in ns in ticks, rounded to nearest. -/
def ticksNs (n : Int) : Int := (2 * n + (if n < 0 then -2 else 2)).tdiv 5

/-- The stamp of a second and a tick index (02 R44). -/
def stampOf (sec tick : Nat) : Dword := BitVec.ofNat 64 (sec * 1073741824 + tick * 5 / 2)

/-- The nanoseconds since the stamp origin that a stamp names. -/
def stampNs (s : Dword) : Nat := (s.toNat / 1073741824) * 1000000000 + s.toNat % 1073741824

/-- The stamp of a count of nanoseconds. -/
def stampOfNs (n : Nat) : Dword := BitVec.ofNat 64 ((n / 1000000000) % 17179869184 * 1073741824 + n % 1000000000)

def syncNat : Sync → Nat
  | .free => 0 | .acquiring => 1 | .locked => 2 | .holdover => 3

namespace Chip

/-! ## Catalogue values in force -/

/-- The stored or set value of an object, or its Default (07 R303). -/
def objVal (c : Chip) (idx sub : Nat) : Bytes := (assoc (objKey idx sub) c.cat.vals).getD (objDefault idx sub)

/-- The same as an unsigned number. -/
def cfg (c : Chip) (idx sub : Nat) : Nat := leNat (c.objVal idx sub)

/-- The same as a signed number. -/
def cfgI (c : Chip) (idx sub : Nat) : Int := decInt (8 * (c.objVal idx sub).length) (c.cfg idx sub)

/-- The same as a BOOL. -/
def cfgB (c : Chip) (idx sub : Nat) : Bool := c.cfg idx sub != 0

/-- Sets a value; one equal to the Default is not listed. -/
def setVal (idx sub : Nat) (v : Bytes) (c : Chip) : Chip :=
  c.modCat fun t => { t with vals := assocPut (objKey idx sub) (if v = objDefault idx sub then none else some v) t.vals }

/-- Sets a numeric value of the object's width. -/
def setNum (idx sub n : Nat) (c : Chip) : Chip := c.setVal idx sub (leBytes (objDefault idx sub).length n)

/-! ## The two time axes -/

/-- The stamp of this instant. -/
def stamp (c : Chip) : Dword := stampOf c.time.sec c.time.tick

/-- Nanoseconds of this instant on the TAI clock. -/
def nowNs (c : Chip) : Nat := c.time.sec * 1000000000 + c.time.tick * 5 / 2

/-- The pending leap L of object 0x2030.02. -/
def leapL (c : Chip) : Int := c.cfgI 0x2030 2

/-- TAI−UTC offset O of object 0x2030.01. -/
def offsetO (c : Chip) : Int := c.cfgI 0x2030 1

/-- The angle at raw tick `t` on one input (02 R75): 0 without a crossing or a period. -/
def angleOn (c : Chip) (i : Fin 3) (t : Int) : Half :=
  match (c.phase.ins[i]).lastX, (c.phase.ins[i]).period with
  | some tc, some p => if p = 0 then 0 else BitVec.ofNat 16 (((t - tc) * 65536 / (p : Int)) % 65536).toNat
  | _, _ => 0

/-- The angle on the active reference; 0 with none (02 R77). -/
def angleAt (c : Chip) (t : Int) : Half :=
  match c.phase.ref with
  | some r => c.angleOn r t
  | none => 0

/-- Now, on the active reference. -/
def angle (c : Chip) : Half := c.angleAt c.clk.raw

/-- Reference bits: 0 A, 1 B, 2 C, 3 none. -/
def refBits (c : Chip) : Nat := match c.phase.ref with | some r => r.val | none => 3

/-- The quality byte of a record stamped now (03 Table 03-2); bit 7 is set at sealing (R107). -/
def quality (c : Chip) : Byte :=
  byteOf (syncNat c.time.sync + (if c.phase.ref.isSome then 8 else 0) + 16 * c.refBits + (if c.leapL ≠ 0 then 64 else 0))

/-! ## Binary inputs -/

/-- Object 0x3100+n.01. -/
def biOn (c : Chip) (n : Nat) : Bool := c.cfgB (0x3100 + n) 1

/-- The raw level after the optional inversion. -/
def biRaw (c : Chip) (n : Nat) : Bool := (c.acc.rawBi.getLsbD n) != c.cfgB (0x3100 + n) 2

/-- The BI snapshot: qualified levels, 0 for a disabled input (03 R108). -/
def levels (c : Chip) : BitVec 24 :=
  BitVec.ofNat 24 (maskOf ((List.finRange 24).filter (fun i => (c.acc.bis[i]).qual && c.biOn i.val) |>.map (·.val)))

/-! ## Records -/

/-- A record as it arises, before its sequence number and tag. -/
def mkRecord (c : Chip) (kind src : Nat) (data : Nat) : Record :=
  { stamp := c.stamp, angle := c.angle, cycle := c.phase.cycle, quality := c.quality, seq := 0,
    source := BitVec.ofNat 16 (kind * 4096 + src), snap := c.levels, data := BitVec.ofNat 24 data, tag := 0 }

end Chip

/-- Seal order: by tick, then by class of 01 R30, then by t0 (03 R105). -/
def laneBefore (a b : Arisen) : Bool :=
  a.tick < b.tick || (a.tick = b.tick && (a.cls < b.cls || (a.cls = b.cls && a.t0 < b.t0)))

/-- The records that enter the lane behind an edge record, in its tick, hold the levels after its edges (03 R108). -/
def laneSnap (a : Arisen) (l : List Arisen) : List Arisen :=
  l.map fun b => if a.cls = 0 ∧ b.tick = a.tick then { b with rcd := { b.rcd with snap := a.rcd.snap } } else b

/-- Inserts into the seal order, after those of equal rank. -/
def laneInsert (a : Arisen) : List Arisen → List Arisen
  | [] => [a]
  | b :: r => if laneBefore a b then a :: laneSnap a (b :: r) else b :: laneInsert a r

/-- One more lost record (03 R135, R136). -/
def addLost (r : Record) : Option Lost → Lost
  | none => { count := 1, first := r, lo := stampNs r.stamp, hi := stampNs r.stamp }
  | some l => { l with count := l.count + 1, lo := min l.lo (stampNs r.stamp), hi := max l.hi (stampNs r.stamp) }

/-- A record is not admitted (03 R135). -/
def Acc.lose (r : Record) (p : Acc) : Acc :=
  { p with losing := true, lost := some (addLost r p.lost), lostCount := p.lostCount + 1
           irq := if p.losing then p.irq else p.irq ||| 2 }

/-- Records that the seal lane's queue holds (03 R115). -/
def laneSize : Nat := 64

/-- A record enters the seal lane, is lost at a full queue (log 72), or waits for the epoch start (03 R744). -/
def Acc.enter (a : Arisen) (p : Acc) : Acc :=
  if !p.en then { p with held := p.held ++ [a] }
  else if p.queue.length < laneSize then { p with queue := laneInsert a p.queue }
  else p.lose a.rcd

/-- A count in 24 bits, saturating (11 R483). -/
def sat24 (n : Nat) : Nat := min n 0xFFFFFF

/-! Classes of 01 R30. -/
def clsBi : Nat := 0
def clsOrder : Nat := 1
def clsTime : Nat := 2
def clsCat : Nat := 3
def clsSec : Nat := 4
def clsHealth : Nat := 5
def clsPost : Nat := 6

namespace Chip

/-- A record arises: it waits for the seal lane, or for the epoch start before the pipeline runs (03 R744). -/
def ariseRec (cls : Nat) (r : Record) (c : Chip) (t0 : Nat := 0) : Chip :=
  c.modAcc (Acc.enter { rcd := r, tick := c.clk.raw, cls := cls, t0 := t0 })

/-- A record stamped now. -/
def arise (cls kind src data : Nat) (c : Chip) : Chip := c.ariseRec cls (c.mkRecord kind src data)

/-- A record with the stamp and phase of another instant. -/
def ariseAt (cls kind src data : Nat) (st : Dword) (an : Half) (cy q : Byte) (c : Chip) : Chip :=
  c.ariseRec cls { c.mkRecord kind src data with stamp := st, angle := an, cycle := cy, quality := q }

/-- Time event record (02 Table 02-4). -/
def timeEvent (code detail data : Nat) (c : Chip) : Chip := c.arise clsTime 4 (code * 256 + detail) data

/-- Latches alert bits (11 R475). -/
def alert (m : Nat) (c : Chip) : Chip := c.modRgr fun r => { r with alerts := r.alerts ||| BitVec.ofNat 8 m }

/-- Alert bits of a health event (11 Table 11-2). -/
def healthAlert (code : Nat) : Nat :=
  match code with
  | 0 => 1 | 2 => 4 | 4 => 16 | 5 | 6 => 64 | 7 => 32 | _ => 0

/-- Security, power and health records (11 Table 11-3): code in Source 11:8, detail in 7:0; with the alert bits of 11
Table 11-2. -/
def secEvent (code detail data : Nat) (c : Chip) : Chip :=
  (c.alert (if code = 8 then 0x88 else 0x80)).arise clsSec 9 (code * 256 + detail) data
def powerEvent (code detail data : Nat) (c : Chip) : Chip :=
  (c.alert (if code = 2 then 2 else 0)).arise clsSec 10 (code * 256 + detail) data
def healthEvent (code detail data : Nat) (c : Chip) : Chip :=
  (c.alert (healthAlert code)).arise clsHealth 11 (code * 256 + detail) data

/-- RC oscillator time that passes in a tick, in millionths of a nominal tick: exactly one where the stamp clock is the oscillator
multiplied (11 R472), else what its rate within ±3 % gives (11 R482; log 13). -/
def rcStep (c : Chip) : Nat := if c.rgr.backup then 1000000 else max 970000 (min 1030000 (Config.rcRate c.clk.free))

/-- Time by the RC oscillator, in nominal ticks. -/
def rcNow (c : Chip) : Nat := c.clk.rc / 1000000

/-- A code of 12 Table 12-3 found by this start: object 0x1010.09 and the highest code (12 R537). -/
def noteFinding (code : Nat) (c : Chip) : Chip :=
  c.modStart fun s => { s with
    findings := s.findings ||| (if code = 0x20 then 256 else if code = 0x21 then 512 else 2 ^ (code - 0x10))
    found := max s.found code }

/-- Spends one seed of the free-value counter. -/
def spend (c : Chip) : Chip := c.modClk fun k => { k with free := k.free + 1 }

end Chip

end Sys2Proof.Machine
end

