-- ==== Sys2Proof/Machine/VitOps.lean ====
section
/-! DEFINITION. The Vitrine (16 R693 to R707): how a bus transfer is judged, and what its refusal leaves. -/

namespace Sys2Proof.Machine

open Sys2Proof

/-- The kinds of transfer of 16 R693. -/
inductive BusKind where | read | write | fetch
  deriving DecidableEq, Repr

/-! Initiators in the order of 01 R15. -/
def byCurator : Fin 7 := 0
def byRegistrar : Fin 7 := 1
def byTag : Fin 7 := 5
def byDebug : Fin 7 := 6

def initNo : Init → Fin 7
  | .curator => 0 | .registrar => 1 | .debug => 6

def coreNo : CoreId → Fin 7
  | .curator => 0 | .registrar => 1

/-! Causes of VIT_FSRC.SRC (16 Table 16-10). -/
def srcVitrine : Nat := 1
def srcDecode : Nat := 2
def srcFixed : Nat := 3
def srcParity : Nat := 4

/-- `a` lies in `n` bytes from `lo`. -/
def within (lo n a : Nat) : Bool := lo ≤ a && a < lo + n

/-! Ranges of 01 Table 01-1. -/
def inRom (a : Nat) : Bool := within 0 0x18000 a
def inCurSram (a : Nat) : Bool := within 0x10000000 0x100000 a
def inRing (a : Nat) : Bool := within 0x11000000 0x20000 a
def inRegSram (a : Nat) : Bool := within 0x12000000 0x20000 a
def inFlash (a : Nat) : Bool := within 0x20000000 0x800000 a
def inInfo (a : Nat) : Bool := within 0x21000000 0x4000 a
def inOtp (a : Nat) : Bool := within 0x30000000 0x1000 a
def inPeriph (a : Nat) : Bool := within 0x40000000 0x12000 a

/-- The fixed limits (01 R17 to R20, R739): 0, or the cause of the refusal. -/
def fixedLimit (i : Fin 7) (k : BusKind) (a : Nat) : Nat :=
  if inCurSram a then 0
  else if inRom a ∨ inFlash a then (if k = .write then srcFixed else 0)
  else if inRing a then (if k = .read ∨ (k = .write ∧ i = 2) then 0 else srcFixed)
  else if inRegSram a then (if i = byRegistrar then 0 else srcFixed)
  else if inInfo a ∨ inOtp a then (if k = .read then 0 else srcFixed)
  else if inPeriph a then (if k = .fetch then srcFixed else 0)
  else srcDecode

/-- The rights bit of an initiator and a kind in a PERM word; bit 4i says whether the region applies to it (16 Table
16-3). -/
def permBit (i : Fin 7) (k : BusKind) : Nat := 4 * i.val + (match k with | .read => 1 | .write => 2 | .fetch => 3)

/-- The highest enabled region that holds an address for an initiator (16 R693). -/
def regionFor (v : Vit) (i : Fin 7) (a : Nat) : Option Region :=
  v.regions.toList.reverse.find? fun r => r.en && r.base.toNat ≤ a && a ≤ r.lim.toNat && r.perm.getLsbD (4 * i.val)

namespace Chip

/-- The judgement of a transfer: 0, or the cause of its refusal. Its parity fails at the target where `parity` says so, or
where the world struck it (01 R16). -/
def judge (c : Chip) (i : Fin 7) (k : BusKind) (a : Nat) (parity : Bool) : Nat :=
  let f := fixedLimit i k a
  if f ≠ 0 then f
  else if parity || c.vit.parityFaults.contains (i.val, a) then srcParity
  else if !c.vit.en then 0
  else match regionFor c.vit i a with
  | some r => if r.perm.getLsbD (permBit i k) then 0 else srcVitrine
  | none => srcVitrine

/-- A refusal is counted, and recorded at most once per 10 ms for each initiator (16 R704). -/
def refuseTransfer (i : Fin 7) (a : Nat) (c : Chip) : Chip :=
  let c : Chip := c.modVit fun v => { v with refs := v.refs.set i (v.refs[i] + 1), parityFaults := v.parityFaults.erase (i.val, a) }
  let due : Bool := match c.rgr.refTick[i] with | some t => t + ticksMs 10 ≤ c.clk.raw | none => true
  c.when due fun c => (c.modRgr fun r => { r with refTick := r.refTick.set i (some c.clk.raw) }).secEvent 0 i.val (a % 16777216)

/-- The first of the addresses that is refused, with its cause (01 R740). -/
def firstRefused (c : Chip) (i : Fin 7) (k : BusKind) (parity : Bool) (l : List Nat) : Option (Nat × Nat) :=
  l.findSome? fun a => let f := c.judge i k a parity; if f = 0 then none else some (a, f)

/-! ## What a drain or a fault leaves in the exception registers (16 R689, Table 16-10) -/

def excView (w : CoreId) (c : Chip) : ExcView := match w with | .curator => c.vit.cur | .registrar => c.vit.reg

def modExc (w : CoreId) (f : ExcView → ExcView) (c : Chip) : Chip :=
  c.modVit fun v => match w with
    | .curator => { v with cur := f v.cur }
    | .registrar => { v with reg := f v.reg }

/-- A refused drain (16 R689). -/
def notice (w : CoreId) (a cause : Nat) (c : Chip) : Chip :=
  c.modExc w fun e =>
    let n := e.ncount + 1
    if e.nstat.getLsbD 0 then { e with nstat := e.nstat ||| 2, ncount := n }
    else { e with nstat := byteOf (1 + 2 * bit (e.nstat.getLsbD 1) + 4 * cause), naddr := BitVec.ofNat 32 a, ncount := n }

end Chip

end Sys2Proof.Machine
end

