-- ==== Sys2Proof/Machine/FlashOps.lean ====
section
/-! DEFINITION. The flash array (05): the block map and its tables, words and their ECC, pages, erases, the start order of
operations, and reads that meet an operation. -/

namespace Sys2Proof.Machine

open Sys2Proof

/-- Bytes of a block. -/
def blockBytes : Nat := 8192

/-- Physical number that marks a retired logical block (05 R201). -/
def retiredMark : Nat := 0x7FF

namespace Chip

/-! ## OTP as the device uses it -/

/-- A byte of the OTP by its offset in the 4 KiB, from shadow A (13 R554). -/
def otpByte (c : Chip) (off : Nat) : Byte := c.otp.shadowA.get 0 off

/-- `n` bytes of a region from an offset in it. -/
def otpBytes (c : Chip) (region off n : Nat) : Bytes := c.otp.shadowA.read 0 (256 * region + off) n

/-- The same as the Plinth and the Vault use it: a word programmed since the Cold start as it was before (13 R562). -/
def otpUsed (c : Chip) (region off n : Nat) : Bytes :=
  (List.range n).map fun i =>
    let a := 256 * region + off + i
    match assoc (a / 4) c.otp.before with
    | some w => w.getD (a % 4) 0
    | none => c.otpByte a

/-! ## The block map (05 R199 to R203) -/

/-- Factory-bad physical blocks (05 R199). -/
def factoryBad (c : Chip) : List Nat :=
  (List.range 10).filterMap fun i =>
    let w := leNat (c.otpUsed 1 (0x40 + 2 * i) 2)
    if w.testBit 15 then some (w % 2048) else none

/-- Factory-bad blocks below 1024, ascending, and the spares that stand in for them. -/
def factoryLow (c : Chip) : List Nat := (List.range 1024).filter fun b => c.factoryBad.contains b
def factorySubs (c : Chip) : List Nat :=
  ((List.range 40).map (1024 + ·)).filter fun p => !c.factoryBad.contains p

/-- Base mapping of a logical block (05 R200). -/
def basePhys (c : Chip) (b : Nat) : Nat :=
  if c.factoryBad.contains b then c.factorySubs.getD (c.factoryLow.idxOf b) retiredMark else b

/-- Mapping in force (05 R202). -/
def physOf (c : Chip) (b : Nat) : Nat := (assoc b c.cns.map).getD (c.basePhys b)

/-- A retired logical block. -/
def retired (c : Chip) (b : Nat) : Bool := c.physOf b = retiredMark

/-- The logical block whose base mapping is a physical block. -/
def baseInv (c : Chip) (p : Nat) : Option Nat :=
  if p < 1024 then (if c.factoryBad.contains p then none else some p)
  else
    let i := c.factorySubs.idxOf p
    if c.factorySubs.contains p then c.factoryLow[i]? else none

/-- Some logical block maps to a physical block. -/
def physMapped (c : Chip) (p : Nat) : Bool :=
  c.cns.map.any (fun e => e.2 = p) ||
  (match c.baseInv p with
   | some b => (assoc b c.cns.map).isNone
   | none => false)

/-- The pool, ascending (05 R203). -/
def pool (c : Chip) : List Nat :=
  (List.range 1064).filter fun p => !(c.physMapped p) && !(c.cns.bad.contains p) && !(c.factoryBad.contains p)

/-- A pool block whose erase is still queued or running is not erased. -/
def poolErased (c : Chip) (p : Nat) : Bool :=
  !(c.cns.queue.contains (.poolErase p)) && c.cns.run.map (·.op) != some (.poolErase p) &&
  c.cns.susp != some (.poolErase p) && !(c.mem.cut.contains p)

/-- The Catalogue store slot after the one in force: the copies alternate, and within a copy the slots ascend (07
R337). -/
def nextSlot (c : Chip) : Nat :=
  match c.cat.slot with
  | none => 0
  | some s => if s < 16 then s + 16 else (s - 15) % 16

/-! ## Words -/

/-- What a read of a flash word gives: value and its ECC outcome. -/
structure WordRead where
  value : Bytes
  ecc : Option Ecc
  deriving DecidableEq, Repr

/-- A physical word (05 R194, R753). -/
def physWord (c : Chip) (w : Nat) : WordRead :=
  let v := c.mem.flash.read 0xFF (8 * w) 8
  let free : WordRead := { value := leBytes 8 (Config.badWord c.clk.free w).toNat, ecc := some .uncorrectable }
  if c.mem.cut.contains (w / 1024) then
    match Config.cutKind c.clk.free w with
    | 0 => { value := v, ecc := none }
    | 1 => { value := leBytes 8 (Config.cutValue c.clk.free w).toNat, ecc := some .corrected }
    | 2 => { value := List.replicate 8 0xFF, ecc := none }
    | 3 => free
  else match assoc w c.mem.ecc with
  | some .uncorrectable => free
  | some .corrected => { value := v, ecc := some .corrected }
  | none => { value := v, ecc := none }

/-- The word of the main array that holds a byte offset; a retired block reads uncorrectable (05 R213). -/
def flashWord (c : Chip) (off : Nat) : WordRead :=
  let p := c.physOf (off / blockBytes)
  if p = retiredMark then
    { value := leBytes 8 (Config.badWord c.clk.free (off / 8)).toNat, ecc := some .uncorrectable }
  else c.physWord (p * 1024 + off % blockBytes / 8)

/-- Bytes of the main array from an offset in it. -/
def flashBytes (c : Chip) (off n : Nat) : Bytes :=
  let ws := (List.range ((off % 8 + n + 7) / 8)).flatMap fun i => (c.flashWord (off / 8 * 8 + 8 * i)).value
  slice ws (off % 8) n

/-- Some word of the range is uncorrectable. -/
def flashBad (c : Chip) (off n : Nat) : Bool :=
  (List.range ((off % 8 + n + 7) / 8)).any fun i => (c.flashWord (off / 8 * 8 + 8 * i)).ecc = some .uncorrectable

/-- A read reports what its words need (05 R214, R237): counters, addresses, interrupts, refreshes and records. -/
def touchWord (off : Nat) (c : Chip) : Chip :=
  match (c.flashWord off).ecc with
  | none => c
  | some .corrected =>
    let b := off / blockBytes
    c.modCns fun k => { k with
      sec := k.sec + 1, secAddr := BitVec.ofNat 32 (0x20000000 + off / 8 * 8), irq := k.irq ||| 2
      sched := if k.sched.contains b then k.sched else k.sched ++ [b] }
  | some .uncorrectable =>
    (c.modCns fun k => { k with
      ded := k.ded + 1, dedAddr := BitVec.ofNat 32 (0x20000000 + off / 8 * 8), irq := k.irq ||| 4 }).healthEvent 7 6
        (off / blockBytes)

/-- Words of a range, by their offset, that a read may have to report: those of a cut or retired block, and those marked. -/
def markedWords (off n : Nat) (c : Chip) : List Nat :=
  let first := off / 8
  let last := (off + n + 7) / 8
  (List.range ((last * 8 - off / blockBytes * blockBytes + blockBytes - 1) / blockBytes)).flatMap fun i =>
    let b := off / blockBytes + i
    let p := c.physOf b
    let ws := if p = retiredMark ∨ c.mem.cut.contains p then List.range 1024
      else c.mem.ecc.filterMap fun e => if e.1 / 1024 = p then some (e.1 % 1024) else none
    ws.filterMap fun w => let k := 1024 * b + w; if first ≤ k ∧ k < last then some (8 * k) else none

/-- A read of a range reports its words. -/
def touchFlash (off n : Nat) (c : Chip) : Chip := (c.markedWords off n).foldl (fun c w => c.touchWord w) c

/-- A physical word with all 72 bits at 1, at the erase-verify margin (05 R207, R753). -/
def wordEmpty (c : Chip) (w : Nat) : Bool :=
  !(c.mem.cut.contains (w / 1024)) && (assoc w c.mem.ecc).isNone && allOnes (c.mem.flash.read 0xFF (8 * w) 8)

/-- A physical block is wholly empty. -/
def physBlank (c : Chip) (p : Nat) : Bool :=
  !(c.mem.cut.contains p) && !(c.mem.ecc.any fun e => e.1 / 1024 = p) && !(c.mem.flash.any fun e => e.1 / blockBytes = p)

/-- A logical block is wholly empty. -/
def blockBlank (c : Chip) (b : Nat) : Bool := !c.retired b && c.physBlank (c.physOf b)

/-- A physical block erased. -/
def erasePhys (p : Nat) (c : Chip) : Chip :=
  c.modMem fun m => { m with
    flash := m.flash.clear (blockBytes * p) blockBytes
    ecc := m.ecc.filter fun e => e.1 / 1024 != p
    cut := m.cut.filter (· != p) }

/-- An erase of a physical block was cut off (05 R753). -/
def cutPhys (p : Nat) (c : Chip) : Chip :=
  if p = retiredMark then c else c.modMem fun m => { m with cut := if m.cut.contains p then m.cut else p :: m.cut }

/-- The words of a page that a program writes: number in the page and bytes; words all ones are skipped (05 R207). -/
def pageWords (data : Bytes) : List (Nat × Bytes) :=
  (List.range 64).filterMap fun i =>
    let v := slice data (8 * i) 8
    if allOnes v then none else some (i, v)

/-- The words that a program of bytes from an offset in a block on writes: number in the block and bytes. -/
def blockWords (off : Nat) (data : Bytes) : List (Nat × Bytes) :=
  (List.range ((data.length + 7) / 8)).filterMap fun i =>
    let v := padTo 0xFF 8 (slice data (8 * i) 8)
    if allOnes v then none else some (off / 8 + i, v)

/-- The page, and the buffer of its program, for bytes at an offset of the main array. -/
def pageBuffer (off : Nat) (data : Bytes) : Nat × Nat × Bytes :=
  (off / blockBytes, off % blockBytes / 512, padTo 0xFF 512 (List.replicate (off % 512) (0xFF : Byte) ++ data))

/-- Programs words of a physical page. -/
def putWords (p page : Nat) (ws : List (Nat × Bytes)) (c : Chip) : Chip :=
  ws.foldl (fun c w => c.modMem fun m => { m with
    flash := m.flash.write 0xFF (blockBytes * p + 512 * page + 8 * w.1) w.2
    ecc := assocPut (p * 1024 + 64 * page + w.1) none m.ecc }) c

/-- A whole program that needs no remap. -/
def putPage (b page : Nat) (data : Bytes) (c : Chip) : Chip :=
  if c.retired b then c else c.putWords (c.physOf b) page (pageWords data)

/-- Bytes programmed into erased words at an address of the main array that needs no remap. -/
def putFlash (off : Nat) (data : Bytes) (c : Chip) : Chip :=
  let b := off / blockBytes
  if c.retired b then c
  else c.modMem fun m => { m with flash := m.flash.write 0xFF (blockBytes * c.physOf b + off % blockBytes) data }

/-! ## The grown defect table (05 R201 to R205) -/

/-- A table entry (05 Table 05-3). -/
def grownEntry (logical reason phys gen : Nat) : Bytes :=
  let h := leBytes 2 (logical % 1024 + 1024 * reason) ++ leBytes 2 phys ++ leBytes 2 gen
  h ++ leBytes 2 (crc16 h)

/-- The entry at index `i` of a copy (0 A, 1 B). -/
def grownAt (c : Chip) (copy i : Nat) : Bytes := c.mem.info.read 0xFF (4096 * copy + 8 * i) 8

def grownValid (e : Bytes) : Bool := !allOnes e && leAt e 6 2 = crc16 (e.take 6)
def grownReason (e : Bytes) : Nat := leAt e 0 2 / 1024 % 8
def grownLogical (e : Bytes) : Nat := leAt e 0 2 % 1024
def grownPhys (e : Bytes) : Nat := leAt e 2 2 % 2048
def grownGen (e : Bytes) : Nat := leAt e 4 2

/-- Valid entries of a copy. -/
def grownCopy (c : Chip) (copy : Nat) : List Bytes := ((List.range 512).map (c.grownAt copy)).filter grownValid

/-- Every entry that either copy holds. -/
def grownAll (c : Chip) : List Bytes :=
  let a := c.grownCopy 0
  a ++ (c.grownCopy 1).filter fun e => !a.contains e

/-- The entries in force: for each logical block the entry of the highest generation, and every bad marker. -/
def grownInForce (es : List Bytes) : List Bytes :=
  es.filter fun e =>
    grownReason e = 7 || !(es.any fun f => grownReason f != 7 && grownLogical f = grownLogical e && grownGen e < grownGen f)

/-- The mapping and the bad markers from the tables (05 R202, R204). -/
def loadGrown (c : Chip) : Chip :=
  let f := grownInForce c.grownAll
  let m := (f.filter fun e => grownReason e != 7).foldl (fun m e => assocPut (grownLogical e) (some (grownPhys e)) m) []
  c.modCns fun k => { k with
    map := m, bad := (f.filter fun e => grownReason e = 7).map grownPhys
    gen := (c.grownAll.map grownGen).foldl max 0, genUsed := (c.grownAll.map grownGen).foldl max 0 }

/-- A word of the information area is empty at the erase-verify margin, in a page that may be programmed (05 R750, R753). -/
def infoEmpty (c : Chip) (off : Nat) : Bool :=
  allOnes (c.mem.info.read 0xFF off 8) && !c.mem.infoWeak.contains (off / 8) && !c.cns.noEmpty.contains (off / 512)

/-- A page of the information area is wholly empty. -/
def infoBlank (c : Chip) (page : Nat) : Bool :=
  allOnes (c.mem.info.read 0xFF (512 * page) 512) && !c.mem.infoWeak.any (fun w => w / 64 = page)

/-- An information page erased. -/
def eraseInfo (page : Nat) (c : Chip) : Chip :=
  c.modMem fun m => { m with info := m.info.clear (512 * page) 512, infoWeak := m.infoWeak.filter fun w => w / 64 != page }

/-- Bytes programmed into empty words of the information area. -/
def putInfo (off : Nat) (data : Bytes) (c : Chip) : Chip := c.modMem fun m => { m with info := m.info.write 0xFF off data }

/-- A word is valid when its two halves are complements (05 R196). -/
def wordValid (b : Bytes) : Bool := b.drop 4 == (b.take 4).map (~~~ ·)

/-- What a word holds whose program did not verify: neither empty nor valid (05 R196, R198). -/
def badInfoWord (c : Chip) (w : Nat) : Bytes :=
  let v := leBytes 8 (Config.badWord c.clk.free (0x200000 + w)).toNat
  if allOnes v || wordValid v then (v.getD 0 0 ^^^ 1) :: v.drop 1 else v

/-- A program of the information area ends; the words numbered in `bad` did not verify. -/
def infoProgram (off : Nat) (d : Bytes) (bad : List Nat) (c : Chip) : Chip :=
  ((blockWords 0 d).foldl (fun c w => c.putInfo (off + 8 * w.1) (if bad.contains w.1 then c.badInfoWord (off / 8 + w.1) else w.2)) c).spend

/-- First empty entry of a copy. -/
def grownFree (c : Chip) (copy : Nat) : Option Nat := (List.range 512).find? fun i => c.infoEmpty (4096 * copy + 8 * i)

/-- Fewer than 16 empty entries are left in a copy. -/
def grownFull (c : Chip) (copy : Nat) : Bool := ((List.range 512).filter fun i => c.infoEmpty (4096 * copy + 8 * i)).length < 16

/-- Entries that one copy lacks, programmed into it at a start (05 R204). -/
def syncGrown (c : Chip) : Chip :=
  let put (copy : Nat) (c : Chip) (e : Bytes) : Chip := match c.grownFree copy with
    | some i => c.putInfo (4096 * copy + 8 * i) e
    | none => c
  let a := c.grownCopy 0
  let b := c.grownCopy 1
  let c := (b.filter fun e => !a.contains e).foldl (put 0) c
  (a.filter fun e => !b.contains e).foldl (put 1) c

/-- The next table entries, each into copy A and, once verified there, into copy B (05 R204); the last one ends an operation with a
result. Each entry: logical block, reason, physical block. -/
def addGrown (es : List (Nat × Nat × Nat)) (of : FlashOp) (res : Nat) (c : Chip) : Chip :=
  c.modCns fun k => { k with
    gen := k.gen + es.length
    queue := k.queue ++ (List.range es.length).flatMap fun i =>
      let x := es.getD i (0, 0, 0)
      let e := grownEntry x.1 x.2.1 x.2.2 (k.gen + i + 1)
      [.grown 0 e .nothing 0, if i + 1 = es.length then .grown 1 e of res else .grown 1 e .nothing 0] }

/-- A pool block that is not erased is to be erased (05 R206). -/
def queuePoolErase (p : Nat) (c : Chip) : Chip :=
  if c.pool.contains p && !c.physBlank p && !c.cns.queue.contains (.poolErase p) then
    c.modCns fun k => { k with queue := k.queue ++ [.poolErase p] }
  else c

/-- An entry is in force once copy A has verified (05 R202, R204): it is reported (R214), and a block that has joined the pool is to be
erased. -/
def applyGrown (e : Bytes) (c : Chip) : Chip :=
  let c := c.modCns fun k => { k with irq := k.irq ||| 8 }
  let b := grownLogical e
  let p := grownPhys e
  if grownReason e = 7 then c.modCns fun k => { k with bad := if k.bad.contains p then k.bad else p :: k.bad }
  else
    let old := c.physOf b
    let c := c.modCns fun k => { k with
      map := assocPut b (some p) k.map, refreshes := if grownReason e = 3 then k.refreshes + 1 else k.refreshes }
    let c := c.healthEvent 7 (if p = retiredMark then 5 else grownReason e) b
    if grownReason e = 3 ∨ p = retiredMark then c.queuePoolErase old else c

/-- A copy that has fewer than 16 empty entries left after a new entry is compacted: copy B, then copy A (05 R205). -/
def compactGrown (e : Bytes) (c : Chip) : Chip :=
  if (c.grownFull 0 || c.grownFull 1) && grownGen e = c.cns.gen && !c.cns.queue.any (fun o => match o with | .grownErase .. => true | _ => false) then
    let es := grownInForce c.grownAll
    let copy (n : Nat) : List FlashOp := (List.range 8).map (fun i => .grownErase n (8 * n + i)) ++ es.map fun e => .grown n e .nothing 0
    c.modCns fun k => { k with queue := k.queue ++ copy 1 ++ copy 0 }
  else c

/-- A bad marker for a physical block, which leaves the pool at once. -/
def markBad (phys : Nat) (c : Chip) : Chip :=
  (c.modCns fun k => { k with bad := if k.bad.contains phys then k.bad else phys :: k.bad }).addGrown [(0, 7, phys)] .nothing 0

/-- Physical blocks that a remap or a refresh under way has taken. -/
def reserved (c : Chip) : List Nat :=
  (c.cns.queue ++ (c.cns.run.map (·.op)).toList).filterMap fun o => match o with
    | .grown _ e _ _ => some (grownPhys e)
    | .remapErase _ p | .remapCopy _ p | .refreshCopy _ p => some p
    | _ => none

/-- Pool blocks that may be taken, ascending. -/
def freePool (c : Chip) : List Nat := c.pool.filter fun p => !c.reserved.contains p

/-- A pool block that is erased. -/
def poolReady (c : Chip) (p : Nat) : Bool := c.poolErased p && c.physBlank p

/-- The words of a physical block in another, with their ECC marks; a copy of a block whose erase was cut decodes no better (05 R236: raw copies). -/
def copyBlock (src dst : Nat) (c : Chip) : Chip :=
  c.modMem fun m =>
    let fl := m.flash.filter fun e => e.1 / blockBytes = src
    let ec := m.ecc.filter fun e => e.1 / 1024 = src
    { m with
      flash := fl.foldl (fun f e => f.put 0xFF (e.1 % blockBytes + blockBytes * dst) e.2) m.flash
      ecc := ec.foldl (fun f e => assocPut (e.1 % 1024 + 1024 * dst) (some e.2) f) m.ecc
      cut := if m.cut.contains src && !m.cut.contains dst then dst :: m.cut else m.cut }

/-! ## The journal as the Conservator sees it -/

/-- The logical block of journal block `j`. -/
def journalBlock (j : Nat) : Nat := 320 + j

/-- The next journal block, retired ones skipped (05 R226). -/
def nextJournalFrom (c : Chip) : Nat → Nat → Nat
  | 0, j => (j + 1) % 512
  | n + 1, j =>
    let k := (j + 1) % 512
    if c.retired (journalBlock k) then c.nextJournalFrom n k else k

def nextJournal (c : Chip) (j : Nat) : Nat := c.nextJournalFrom 511 j

/-- The `n`th block after `j`. -/
def journalAfter (c : Chip) (j : Nat) : Nat → Nat
  | 0 => j
  | n + 1 => c.nextJournal (c.journalAfter j n)

/-- A pre-erase of a journal block is queued, running or suspended. -/
def preErasePending (c : Chip) : Option Nat :=
  let f (o : FlashOp) : Option Nat := match o with | .preErase b => some b | _ => none
  match c.cns.run.bind (fun r => f r.op) with
  | some b => some b
  | none => match c.cns.susp.bind f with
    | some b => some b
    | none => c.cns.queue.findSome? f

/-- The block whose pre-erase has begun: its records have left the journal (05 R224). -/
def preEraseBegun (c : Chip) : Option Nat :=
  ((c.cns.run.map (·.op)).toList ++ c.cns.susp.toList).findSome? fun o => match o with | .preErase b => some b | _ => none

/-- The next block to pre-erase is queued while the count falls short (05 R224). -/
def queuePreErase (c : Chip) : Chip :=
  if c.acc.en ∧ c.preErasePending = none ∧ c.cns.ahead < c.cfg 0x5000 2 ∧ c.cns.ahead < 500 then
    c.modCns fun k => { k with queue := k.queue ++ [.preErase (c.journalAfter c.acc.jBlock (k.ahead + 1))] }
  else c

/-- Sealed records that no program has taken. -/
def unprogrammed (c : Chip) : Nat := sub32 c.acc.nextSeq c.acc.drainSeq

/-- Free slots of the ring: they hold no record that waits for the journal or is in the seal lane (03 R134). -/
def freeSlots (c : Chip) : Nat := 4096 - c.unprogrammed - c.acc.queue.length

/-- Ring slot of a sequence number (03 R130). -/
def ringSlot (c : Chip) (seq : Nat) : Nat := (c.acc.baseSlot + sub32 seq c.acc.baseSeq) % 4096

/-- The shelved record of a sequence number, if the ring still holds it. -/
def shelved (c : Chip) (seq : Nat) : Option Shelved :=
  match assoc (c.ringSlot seq) c.acc.ring with
  | some s => if s.seq = seq then some s else none
  | none => none

/-- The operation that a step of a remap or of a word's writing serves. -/
def opBase : FlashOp → FlashOp
  | .remap o _ _ _ _ | .remapErase o _ | .remapCopy o _ | .grown _ _ o _ | .startErase _ o => opBase o
  | o => o

/-- The first record that no program has taken: those of a failed program whose remap waits are taken. -/
def journalNext (c : Chip) : Nat :=
  (c.cns.queue.findSome? fun o => match opBase o with
    | .journalPage _ _ f n _ => some ((f + n) % 4294967296)
    | _ => none).getD c.acc.drainSeq

/-- The journal program that could start now: position, first record, count. Whole pages, or what is sealed when the
100 ms have passed or under PFW_N (05 R225, R229). -/
def journalDue (c : Chip) : Option (Nat × Nat × Nat × Nat) :=
  let first := c.journalNext
  match c.shelved first with
  | none => none
  | some s =>
    let left := sub32 c.acc.nextSeq first
    if left = 0 then none
    else
      let room := 16 - s.pos % 16
      let n := min room left
      if n = room || c.cns.pageDue || c.clk.pfw then some (s.pos / 256, s.pos % 256 / 16, first, n) else none

end Chip

/-- The 32 bytes of a record (03 Table 03-1). A continuation slot stores signature bytes in its sequence field: its
`seq` holds them. -/
def Record.bytes (r : Record) : Bytes :=
  leBytes 8 r.stamp.toNat ++ leBytes 2 r.angle.toNat ++ ([r.cycle, r.quality] : Bytes) ++ leBytes 4 r.seq.toNat
  ++ leBytes 2 r.source.toNat ++ leBytes 3 r.snap.toNat ++ leBytes 3 r.data.toNat ++ beBytes 8 r.tag.toNat

/-- A record from its 32 bytes. -/
def Record.ofBytes (b : Bytes) : Record :=
  { stamp := BitVec.ofNat 64 (leAt b 0 8), angle := BitVec.ofNat 16 (leAt b 8 2), cycle := b.getD 10 0, quality := b.getD 11 0
    seq := BitVec.ofNat 32 (leAt b 12 4), source := BitVec.ofNat 16 (leAt b 16 2), snap := BitVec.ofNat 24 (leAt b 18 3)
    data := BitVec.ofNat 24 (leAt b 21 3), tag := BitVec.ofNat 64 (beNat (slice b 24 8)) }

/-- A record's kind. -/
def Record.kind (r : Record) : Nat := r.source.toNat / 4096

namespace Chip

/-- The page buffer of a journal program: the records in their slots, all ones elsewhere. -/
def journalData (c : Chip) (first count : Nat) : Bytes :=
  match c.shelved first with
  | none => List.replicate 512 0xFF
  | some s =>
    padTo 0xFF 512 (List.replicate (32 * (s.pos % 16)) (0xFF : Byte) ++
      (List.range count).flatMap fun i =>
        match c.shelved ((first + i) % 4294967296) with
        | some r => r.rcd.bytes
        | none => List.replicate 32 0xFF)

/-! ## Windows -/

def win (w : CoreId) (c : Chip) : FlashWin := match w with | .curator => c.cns.cwin | .registrar => c.cns.rwin

def modWin (w : CoreId) (f : FlashWin → FlashWin) (c : Chip) : Chip :=
  c.modCns fun k => match w with
    | .curator => { k with cwin := f k.cwin }
    | .registrar => { k with rwin := f k.rwin }

/-- A window command ends with a result; CDONE marks the Curator's (05 Table 05-11), and the Registrar's window has no
done bit in the tables. The result of a command that a Curator reset orphaned is not kept (R248). -/
def winDone (w : CoreId) (res : Nat) (c : Chip) : Chip :=
  match w with
  | .curator =>
    if c.cns.cwinOrphan then c.modCns fun k => { k with cwinOrphan := false, cwin := { k.cwin with res := 0 } }
    else c.modCns fun k => { k with cwin := { k.cwin with res := byteOf res }, irq := k.irq ||| 1 }
  | .registrar => c.modWin .registrar fun x => { x with res := byteOf res }

/-- A command that the Registrar's own work gives its window (05 R195, 12 R518). -/
def ownJob (o : FlashOp) : Bool :=
  match opBase o with
  | .imageErase .. | .imagePage .. | .ledgerPage .. | .ledgerErase _ | .placardErase _ | .placardPage .. | .startWord .. => true
  | _ => false

/-- The window of a window operation. -/
def opWindow (o : FlashOp) : Option CoreId :=
  match opBase o with
  | .winProgram w _ _ | .winErase w _ => some w
  | _ => if ownJob o then some .registrar else none

/-- The Registrar has a command of its own for its window; under PFW_N the window refuses it (05 R229) and the Registrar repeats it
(R752). -/
def addJob (o : FlashOp) (c : Chip) : Chip :=
  let c := c.modCns fun k => { k with rjobs := k.rjobs ++ [o] }
  if c.clk.pfw ∧ !(1 ≤ c.cns.rwin.res.toNat && c.cns.rwin.res.toNat ≤ 3) then c.winDone .registrar 0x12 else c

/-! ## Start order (05 Table 05-5) -/

/-- The logical block an operation acts on. -/
def opBlock (c : Chip) : FlashOp → Option Nat
  | .winProgram _ a _ | .winErase _ a => if 0x20000000 ≤ a ∧ a < 0x20800000 then some ((a - 0x20000000) / blockBytes) else none
  | .journalPage b _ _ _ _ => some (journalBlock b)
  | .preErase b => some (journalBlock b)
  | .catImage | .catRead => some (896 + c.nextSlot)
  | .catErase s => some (896 + s)
  | .vaultErase copy b => some (928 + 4 * copy + b)
  | .imageErase b _ => some b
  | .imagePage off _ => some (off / blockBytes)
  | .ledgerPage pos _ => some (832 + pos / 256)
  | .ledgerErase b => some (832 + b)
  | .placardErase b => some b
  | .placardPage p _ => some (894 + p / 16)
  | .poolErase p => if c.physMapped p then c.baseInv p else none
  | _ => none

/-- The logical block that a remap or a refresh under way keeps other operations from (05 R238). -/
def opHolds : FlashOp → Option Nat
  | .remap _ _ b _ _ => some b
  | .remapErase o _ | .remapCopy o _ | .grown _ _ o _ => opHolds o
  | .refreshCopy b _ => some b
  | _ => none

/-- Rank of an operation in the start order. -/
def opRank (c : Chip) : FlashOp → Nat
  | .journalPage _ _ _ _ f => if f then 1 else 3
  | .preErase _ => if c.cns.ahead = 0 then 2 else 9
  | .remap .. | .remapErase .. | .remapCopy .. => 4
  | .catImage | .catRead | .catErase _ | .vaultWrite | .vaultEntry .. | .vaultErase .. => 5
  | .grown .. | .grownErase .. => 6
  | .winProgram .curator _ _ | .winErase .curator _ => 8
  | .refresh _ | .refreshCopy .. | .poolErase _ | .nothing => 10
  | _ => 7

/-- An operation that programs. -/
def opPrograms : FlashOp → Bool
  | .winProgram .. | .journalPage .. | .catImage | .catRead | .vaultWrite | .vaultEntry .. | .imagePage .. | .ledgerPage ..
  | .placardPage .. | .startWord .. | .grown .. | .remapCopy .. | .refreshCopy .. => true
  | _ => false

/-- The information page a window address names. -/
def infoPage (a : Nat) : Option Nat := if 0x21000000 ≤ a ∧ a < 0x21004000 then some ((a - 0x21000000) / 512) else none

/-- The information page an operation erases. -/
def infoErases : FlashOp → Option Nat
  | .winErase _ a => infoPage a
  | .startErase p _ | .grownErase _ p => some p
  | _ => none

/-- An erase of an information page: never suspended (05 R750). -/
def opInfoErase (o : FlashOp) : Bool := (infoErases o).isSome

/-- Operations of the wrapped-key area. -/
def opVault : FlashOp → Bool
  | .vaultWrite | .vaultEntry .. | .vaultErase .. => true
  | _ => false

/-- Blocks that a remap or a refresh under way holds. -/
def heldBlocks (c : Chip) : List Nat := c.cns.queue.filterMap opHolds

/-- An operation may start beside what is suspended or under way: a block under a remap or a refresh waits for it (05 R238); a
suspended erase leaves only programs to other blocks (R221); a remap may take the pool block whose erase is suspended; a refresh
needs an erased pool block. -/
def startable (c : Chip) (o : FlashOp) : Bool :=
  ((opHolds o).isSome || !(match c.opBlock o with | some b => c.heldBlocks.contains b | none => false)) &&
  (match o with
   | .refresh _ => c.pool.length < 2 || c.freePool.any c.poolReady
   | _ => true) &&
  match c.cns.susp with
  | none => true
  | some e => match o with
    | .remap .. => match c.freePool.head? with
      | none => true
      | some p => c.poolReady p || e == .poolErase p
    | .refresh _ => true
    | o => opPrograms o && (c.opBlock e = none || c.opBlock o != c.opBlock e) && !(opVault e && opVault o)

/-- Operations that may start now: the queue and the journal program that is due. PFW_N leaves only the flush (05 R751); the drain
waits for the remap of a program of its own, unless it is the flush; a journal block that waits for its erase takes no program. -/
def candidates (c : Chip) : List FlashOp :=
  let own : Bool := c.journalNext != c.acc.drainSeq
  let j := match c.journalDue with
    | some (b, p, f, n) => if c.preErasePending = some b ∨ (own ∧ !c.clk.pfw) then [] else [FlashOp.journalPage b p f n c.clk.pfw]
    | none => []
  if c.clk.pfw then j.filter fun o => match c.cns.susp with
    | none => true
    | some e => c.opBlock o != c.opBlock e
  else (j ++ c.cns.queue).filter c.startable

/-- The first candidate of the lowest rank. -/
def nextOp (c : Chip) : Option FlashOp :=
  c.candidates.foldl (fun b o => match b with
    | none => some o
    | some x => if c.opRank o < c.opRank x then some o else some x) none

/-! ## Reads that meet an operation (05 R217 to R220, Table 05-6) -/

/-- The logical block a running or suspended erase acts on is `b`. -/
def underErase (c : Chip) (b : Nat) : Bool :=
  (match c.cns.run with
   | some r => !opPrograms r.op && c.opBlock r.op == some b
   | none => false) ||
  (match c.cns.susp with
   | some e => c.opBlock e == some b
   | none => false)

/-- A read of logical block `b` (none: the information area) must wait for the array. -/
def readWaits (c : Chip) (b : Option Nat) : Bool :=
  (match c.cns.run with
   | none => false
   | some r => opPrograms r.op || opInfoErase r.op || r.guarded || !c.cns.yield) ||
  (match b with
   | some b => c.underErase b
   | none => false)

/-- A read request reaches the array: an unguarded erase in YIELD is suspended (05 R219). -/
def readRequest (b : Option Nat) (c : Chip) : Chip :=
  match c.cns.run with
  | some r =>
    if !opPrograms r.op && !opInfoErase r.op && !r.guarded && c.cns.yield && !(match b with | some b => c.underErase b | none => false) then
      let c := c.modCns fun k => { k with run := none, susp := some r.op, susps := k.susps + 1, lastRead := c.clk.raw }
      match opWindow r.op with
      | some w => c.modWin w fun x => { x with res := 3 }
      | none => c
    else c.modCns fun k => { k with lastRead := c.clk.raw }
  | none => c.modCns fun k => { k with lastRead := c.clk.raw }

/-- A suspended pre-erase that is guarded resumes at once, when no nested program runs (05 R222). -/
def resumeGuarded (c : Chip) : Chip :=
  match c.cns.susp, c.cns.run with
  | some (.preErase b), none =>
    if c.cns.ahead = 0 then
      c.modCns fun k => { k with run := some { op := .preErase b, guarded := true, nested := false }, susp := none }
    else c
  | _, _ => c

/-- A pre-erase that becomes guarded: it counts as a guarded erase, refuses suspension, and resumes where it is suspended (05 R222). -/
def guardPreErase (c : Chip) : Chip :=
  if c.cns.ahead ≠ 0 then c
  else
    let c := match c.cns.run with
      | some r => (match r.op with
        | .preErase _ => if r.guarded then c
            else c.modCns fun k => { k with run := some { r with guarded := true }, guardedCount := k.guardedCount + 1 }
        | _ => c)
      | none => c
    match c.cns.susp with
    | some (.preErase _) => (c.modCns fun k => { k with guardedCount := k.guardedCount + 1 }).resumeGuarded
    | _ => c

/-- The array is free again; a guarded erase that waits for it resumes. -/
def endRun (c : Chip) : Chip := (c.modCns fun k => { k with run := none }).resumeGuarded

end Chip

end Sys2Proof.Machine
end

