-- ==== Sys2Proof/Machine/VaultOps.lean ====
section
/-! DEFINITION. The Vault (06): roots, derivation, slots, the wrapped-key area, channel commands, and the entropy
source's tests. -/

namespace Sys2Proof.Machine

open Sys2Proof

/-! ## Derived keys (06 R250 to R254) -/

def labelSeal : Bytes := [0x53, 0x45, 0x41, 0x4C]
def labelLedger : Bytes := [0x4C, 0x44, 0x47, 0x52]
def labelCkpt : Bytes := [0x43, 0x4B, 0x50, 0x54]
def labelOrder : Bytes := [0x4F, 0x52, 0x44, 0x4B]
def labelTag : Bytes := [0x54, 0x41, 0x47, 0x4B]
def labelWenc : Bytes := [0x57, 0x45, 0x4E, 0x43]
def labelWmac : Bytes := [0x57, 0x4D, 0x41, 0x43]

/-- Fixed attribute words of slots 0 to 8 (06 Tables 06-3, 06-4). -/
def slotAttr : List Nat := [0x4004, 0x2004, 0x4310, 0x4004, 0x4004, 0x4004, 0x4004, 0x4007, 0x4005]

namespace Chip

/-- A root, row `r` of 06 Table 06-1. -/
def root (c : Chip) (r : Nat) : Bytes := c.otpUsed 2 (16 * r) 16

/-- A root that reads all zeros (06 R251). -/
def zeroRoots (c : Chip) : Nat := maskOf ((List.range 6).filter fun r => allZero (c.otpBytes 2 (16 * r) 16))

def epochKey (c : Chip) : Bytes := Crypto.kdf (c.root 0) labelSeal (beBytes 4 c.acc.epoch) 128
def ledgerKey (c : Chip) : Bytes := Crypto.kdf (c.root 1) labelLedger (beBytes 4 c.acc.epoch) 128

/-- The checkpoint private key (06 R254). -/
def ckptScalar (c : Chip) : Nat := beNat (Crypto.kdf (c.root 2) labelCkpt [] 320) % (Crypto.fn - 1) + 1

def orderKey (c : Chip) (k : Fin 4) : Bytes :=
  Crypto.kdf (c.root 3) labelOrder (byteOf k.val :: beBytes 4 (c.vlt.gens[k])) 128

def uid (c : Chip) : Bytes := c.otpBytes 3 8 7
def tagKey (c : Chip) : Bytes := Crypto.kdf (c.root 4) labelTag (c.otpUsed 3 8 7) 128

/-- The key that derivation puts into slots 0 to 8. -/
def derived (c : Chip) (n : Nat) : Bytes :=
  match n with
  | 0 => c.epochKey
  | 1 => c.ledgerKey
  | 2 => beBytes 32 c.ckptScalar
  | 7 => c.tagKey
  | 8 => Crypto.kdf (c.root 5) labelWenc [] 128 ++ Crypto.kdf (c.root 5) labelWmac [] 128
  | n => c.orderKey (Fin.ofNat 4 (n - 3))

/-! ## Slots (06 R256 to R260, R290) -/

def setSlot (n : Nat) (k : Option KeySlot) (c : Chip) : Chip :=
  if h : n < 16 then c.modVlt fun v => { v with slots := v.slots.set n k } else c

def slotOf (c : Chip) (n : Nat) : Option KeySlot := if h : n < 16 then c.vlt.slots[n] else none

/-- A slot with both copies of its key. -/
def keySlot (key : Bytes) (attr : Nat) : KeySlot := { key, inv := key.map (~~~ ·), attr := BitVec.ofNat 16 attr }

/-- A slot fails: its key is erased, marked and recorded (06 R290). -/
def eraseSlot (n : Nat) (c : Chip) : Chip :=
  ((c.setSlot n none).modVlt fun v => { v with
    kfault := v.kfault ||| BitVec.ofNat 16 (2 ^ n), irq := v.irq ||| 4, slotFaults := v.slotFaults + 1 }).secEvent 1 n 0

/-- Takes up to `m` entries `k` out of what is to strike the keys. -/
def takeKeyFaults (m k : Nat) (c : Chip) : Chip :=
  c.modVlt fun v => { v with keyFaults := (List.range m).foldl (fun l _ => l.erase k) v.keyFaults }

/-- Rounds of up to three attempts at a slot's derivation; the slot is faulted after three, and derived again at once. -/
def deriveRounds : Nat → Nat → Chip → Chip
  | 0, n, c => c.setSlot n (some (keySlot (c.derived n) (slotAttr.getD n 0)))
  | r + 1, n, c =>
    if 3 ≤ c.vlt.keyFaults.count n then deriveRounds r n ((c.takeKeyFaults 3 n).eraseSlot n)
    else (c.takeKeyFaults 2 n).setSlot n (some (keySlot (c.derived n) (slotAttr.getD n 0)))

/-- Fills a derived slot (06 R255). -/
def deriveSlot (n : Nat) (c : Chip) : Chip := deriveRounds (c.vlt.keyFaults.length / 3 + 1) n c

/-- A derived slot that fails is erased, marked, recorded and derived again at once (06 R290). -/
def derivedFault (n : Nat) (c : Chip) : Chip := (c.eraseSlot n).deriveSlot n

/-- The two copies agree (06 R259). -/
def slotSound (k : KeySlot) : Bool := k.inv = k.key.map (~~~ ·)

/-- The key lane compares the copies of slot 8 before each use of it. -/
def keyLane (c : Chip) : Chip :=
  match c.slotOf 8 with
  | some k => if slotSound k ∧ !c.vlt.keyFaults.contains 24 then c else (c.takeKeyFaults 1 24).derivedFault 8
  | none => c

/-- K_wenc and K_wmac, the pair of slot 8. -/
def wencKey (c : Chip) : Bytes := match c.slotOf 8 with | some k => k.key.take 16 | none => []
def wmacKey (c : Chip) : Bytes := match c.slotOf 8 with | some k => k.key.drop 16 | none => []

/-- Slots loaded. -/
def slotsLoaded (c : Chip) : Nat := maskOf ((List.finRange 16).filter (fun n => (c.vlt.slots[n]).isSome) |>.map (·.val))

/-! ## The wrapped-key area (06 R261 to R267) -/

/-- Byte offset of entry `i` of a copy in the main array. -/
def wkOff (copy i : Nat) : Nat := 0x740000 + 0x8000 * copy + 64 * i

/-- The entries of a copy that are not empty, with their index. -/
def wkUsed (c : Chip) (copy : Nat) : List (Nat × Bytes) :=
  (List.range 4).flatMap fun b =>
    if c.blockBlank (928 + 4 * copy + b) then []
    else (List.range 128).filterMap fun i =>
      let e := c.flashBytes (wkOff copy (128 * b + i)) 64
      if allOnes e && !c.flashBad (wkOff copy (128 * b + i)) 64 then none else some (128 * b + i, e)

/-- A correct entry: no uncorrectable word and the right tag (06 R262). -/
def wkGood (c : Chip) (copy : Nat) (e : Nat × Bytes) : Bool :=
  !c.flashBad (wkOff copy e.1) 64 && Crypto.cmac c.wmacKey (e.2.take 48) = e.2.drop 48

def wkCorrect (c : Chip) (copy : Nat) : List Bytes := (c.wkUsed copy).filter (c.wkGood copy) |>.map (·.2)

/-- Correct entries of either copy. -/
def wkAll (c : Chip) : List Bytes :=
  let a := c.wkCorrect 0
  a ++ (c.wkCorrect 1).filter fun e => !a.contains e

/-- Entries whose tag fails, in both copies. -/
def wkBad (c : Chip) : Nat :=
  ((c.wkUsed 0).filter fun e => !c.wkGood 0 e).length + ((c.wkUsed 1).filter fun e => !c.wkGood 1 e).length

def wkCounter (e : Bytes) : Nat := leAt e 4 4
/-- Type group and id. -/
def wkGroup (e : Bytes) : Nat × Nat := (if e.getD 0 0 = 1 then 1 else 2, (e.getD 1 0).toNat)

/-- The entry in force of a group and id (06 R262). -/
def wkInForce (es : List Bytes) (g : Nat × Nat) : Option Bytes :=
  (es.filter fun e => wkGroup e = g).foldl (fun b e => match b with
    | none => some e
    | some x => if wkCounter x < wkCounter e then some e else some x) none

/-- Every entry in force. -/
def wkForce (es : List Bytes) : List Bytes := es.filter fun e => wkInForce es (wkGroup e) = some e

/-- First empty entry of a copy: in no retired or cut block, and empty at the erase-verify margin. -/
def wkFree (c : Chip) (copy : Nat) : Option Nat :=
  (List.range 512).find? fun i =>
    let off := wkOff copy i
    let p := c.physOf (off / blockBytes)
    p != retiredMark && (List.range 8).all fun k => c.wordEmpty (p * 1024 + off % blockBytes / 8 + k)

/-- An entry's program: block, page and buffer. -/
def wkTarget (c : Chip) (copy : Nat) (e : Bytes) : Option (Nat × Nat × Bytes) := (c.wkFree copy).map fun i => pageBuffer (wkOff copy i) e

def wkPut (copy : Nat) (e : Bytes) (c : Chip) : Chip :=
  match c.wkFree copy with
  | some i => c.putFlash (wkOff copy i) e
  | none => c

/-- Fewer than 16 empty entries are left in a copy: copy B, then copy A, is erased and takes the entries in force (06 R265). `e` is the
entry just written. -/
def wkCompact (e : Bytes) (c : Chip) : Chip :=
  if (496 < (c.wkUsed 0).length ∨ 496 < (c.wkUsed 1).length) ∧ wkCounter e = c.vlt.counter ∧
      !c.cns.queue.any (fun o => match o with | .vaultErase .. => true | _ => false) then
    let es := wkForce c.wkAll
    let copy (n : Nat) : List FlashOp := (List.range 4).map (.vaultErase n) ++ es.map (.vaultEntry n)
    c.modCns fun k => { k with queue := copy 1 ++ copy 0 ++ k.queue }
  else c

/-- Entries that one copy lacks are scheduled for it (06 R264). -/
def wkSync (c : Chip) : Chip :=
  let a := c.wkCorrect 0
  let b := c.wkCorrect 1
  c.modCns fun k => { k with queue := k.queue ++ (b.filter fun e => !a.contains e).map (.vaultEntry 0)
    ++ (a.filter fun e => !b.contains e).map (.vaultEntry 1) }

/-- The tag closes an entry's first 48 bytes. -/
def wkSeal (c : Chip) (b : Bytes) : Bytes := b ++ Crypto.cmac c.wmacKey b

/-- A type 1 entry: key state with its write counter. -/
def wkOrderEntry (c : Chip) (k g ceil n : Nat) : Bytes :=
  c.wkSeal (([1, byteOf k, 0, 0] : Bytes) ++ leBytes 4 n ++ leBytes 4 g ++ leBytes 4 ceil ++ List.replicate 32 0)

/-- A type 2 entry: the key encrypted with the header as counter block. -/
def wkKeyEntry (c : Chip) (slot attr : Nat) (key : Bytes) (n : Nat) : Bytes :=
  let h : Bytes := ([2, byteOf slot] : Bytes) ++ leBytes 2 attr ++ leBytes 4 n ++ List.replicate 8 0
  c.wkSeal (h ++ (Crypto.ctr c.wencKey h (padTo 0 32 key)).1)

/-- A type 3 entry. -/
def wkClearEntry (c : Chip) (slot n : Nat) : Bytes :=
  c.wkSeal (([3, byteOf slot, 0, 0] : Bytes) ++ leBytes 4 n ++ List.replicate 40 0)

/-- Bytes of a key of a TYPE. -/
def keyLen (attr : Nat) : Nat := if attr / 256 % 4 = 0 then 16 else 32

/-- Loads a firmware slot from a type 2 entry. -/
def loadStored (e : Bytes) (c : Chip) : Chip :=
  let attr := leAt e 2 2
  let key := (Crypto.ctr c.wencKey (e.take 16) (slice e 16 32)).1.take (keyLen attr)
  c.setSlot (e.getD 1 0).toNat (some (keySlot key attr))

/-- A slot fails its comparison (06 R290): erased, marked, recorded, and filled again where it can be. -/
def slotFault (n : Nat) (c : Chip) : Chip :=
  let attr := match c.slotOf n with | some k => k.attr.toNat | none => 0
  if n < 9 then c.derivedFault n
  else
    let c := c.eraseSlot n
    if attr.testBit 15 then
      let c := c.keyLane
      match wkInForce c.wkAll (2, n) with
      | some e => if e.getD 0 0 = 2 then c.loadStored e else c
      | none => c
    else c

/-- The key of a slot at its use: `none` where it is empty or its copies disagree; the second case faults the slot. -/
def useSlot (n : Nat) (c : Chip) : Option KeySlot × Chip :=
  match c.slotOf n with
  | none => (none, c)
  | some k => if slotSound k ∧ !c.vlt.keyFaults.contains (16 + n) then (some k, c) else (none, (c.takeKeyFaults 1 (16 + n)).slotFault n)

/-- The key of a derived slot, which a fault leaves derived again at once (06 R290). -/
def useDerivedFrom : Nat → Nat → Chip → Option KeySlot × Chip
  | 0, n, c => c.useSlot n
  | f + 1, n, c =>
    let u := c.useSlot n
    if u.1.isNone ∧ (c.slotOf n).isSome then useDerivedFrom f n u.2 else u

def useDerived (n : Nat) (c : Chip) : Option KeySlot × Chip := useDerivedFrom (c.vlt.keyFaults.length + 1) n c

/-! ## Order-key state (04 R159 to R161, R746; 06 R266 to R268) -/

def modKey (k : Fin 4) (f : KeyState → KeyState) (c : Chip) : Chip :=
  c.modOrd fun o => { o with keys := o.keys.set k (f o.keys[k]) }

/-- A key that Verify rejects with 0x11 whatever its policy. -/
def keyUnavailable (s : KeyState) : Bool := s.damaged || s.exhausted || s.ceilHeld || s.rotating

/-- Object 0x6000.0D: keys unavailable by R267, R746 or R268. -/
def unavailable (c : Chip) : Nat :=
  maskOf ((List.finRange 4).filter (fun k => let s := c.ord.keys[k]; s.damaged || s.ceilHeld || s.rotating) |>.map (·.val))

/-- Queues the writing of an entry. -/
def queueWk (w : VaultWhy) (c : Chip) : Chip :=
  (c.modVlt fun v => { v with writes := v.writes ++ [w] }).modCns fun k => { k with queue := k.queue ++ [.vaultWrite] }

/-- The next write counter is used. -/
def nextCounter (c : Chip) : Nat := (c.vlt.counter + 1) % 4294967296

/-- The ceiling above a floor, held at the top of the field (04 R160, R161). -/
def ceilingAbove (f : Nat) : Nat := min (f + 65536) 0xFFFFFFFF

/-- The entry that a write stands for (06 Table 06-5, R264, R268). -/
def wkEntry (w : VaultWhy) (c : Chip) : Bytes :=
  let n := c.nextCounter
  match w with
  | .ceiling k ceil => c.wkOrderEntry k.val (c.vlt.gens[k]) ceil n
  | .rotate k => c.wkOrderEntry k.val n 65536 n
  | .load j => c.wkKeyEntry j.slot j.attr (j.key.take (keyLen j.attr)) n
  | .clear j => c.wkClearEntry j.slot n

/-- A key's state at a start (04 R161, R746; 06 R266, R267): the ceiling of this epoch is written and in force, or, with its write held
or failed, waits to be. -/
def startKey (es : List Bytes) (bad : Nat) (heldKeys : List Nat) (k : Fin 4) (c : Chip) : Chip :=
  let e := wkInForce es (1, k.val)
  let g := match e with | some e => leAt e 8 4 | none => 0
  let f := match e with | some e => leAt e 12 4 | none => 0
  let damaged : Bool := bad ≠ 0 && e.isNone
  let n := ceilingAbove f
  let c := (c.modVlt fun v => { v with gens := v.gens.set k g }).deriveSlot (3 + k.val)
  let late : Bool := !damaged && heldKeys.contains k.val
  let c := c.modKey k fun _ => { floor := f, ceil := if damaged || late then f else n, damaged := damaged, ceilHeld := late,
                                 exhausted := !damaged && 0xFFFFFFFF < f + 65536 }
  if damaged then c
  else if late then c.queueWk (.ceiling k n)
  else
    let e := c.wkEntry (.ceiling k n)
    ((((c.wkPut 0 e).wkPut 1 e).modVlt fun v => { v with counter := c.nextCounter })).wkCompact e

/-- Start of the Vault (06 Table 06-8), from the epoch increment on; `heldKeys`: order keys whose ceiling write of this start is held or
fails. -/
def vaultStart (heldKeys : List Nat) (c : Chip) : Chip :=
  let c := ([0, 1, 2, 7, 8].foldl (fun c n => c.deriveSlot n) c).keyLane
  let c := c.touchFlash 0x740000 0x10000
  let bad := c.wkBad
  let es := c.wkAll
  let top := (es.map wkCounter).foldl max 0
  let c := c.wkSync.modVlt fun v => { v with counter := if bad = 0 then top else top + 1023, tagFails := bad }
  let c := if bad = 0 then c else c.secEvent 4 0 (sat24 bad)
  let c := (List.range 7).foldl (fun c i => match wkInForce es (2, 9 + i) with
    | some e => if e.getD 0 0 = 2 then c.loadStored e else c
    | none => c) c
  let c := (List.finRange 4).foldl (fun c k => c.startKey es bad heldKeys k) c
  (c.modVlt fun v => { v with pub := Crypto.pubKey c.ckptScalar, ready := true }).modOrd fun o => { o with ven := true }

/-! ## Channels (06 R274 to R276, Tables 06-12 and 06-13) -/

def chan (ch : CoreId) (c : Chip) : VaultChan := match ch with | .curator => c.vlt.cch | .registrar => c.vlt.rch

def modChan (ch : CoreId) (f : VaultChan → VaultChan) (c : Chip) : Chip :=
  c.modVlt fun v => match ch with
    | .curator => { v with cch := f v.cch }
    | .registrar => { v with rch := f v.rch }

/-- The initiator that owns a channel or window. -/
def owns (i : Init) (ch : CoreId) : Bool := match i, ch with
  | .curator, .curator => true
  | .registrar, .registrar => true
  | _, _ => false

/-- The engine that a channel command runs in; the key lane takes the loads and the codes that name no command. -/
def engineOf (cmd : Nat) : Engine :=
  if 1 ≤ cmd ∧ cmd ≤ 6 then .aes else if cmd = 8 ∨ cmd = 9 then .sha else if 0xA ≤ cmd ∧ cmd ≤ 0xD then .ecc else .key

/-- A job that is in its engine. -/
def jobRuns (c : Chip) (j : VaultJob) : Bool := j.orphan || (c.chan j.ch).res = 2

/-- The job of an engine that runs, or is the next to. -/
def engineHead (e : Engine) (c : Chip) : Option VaultJob := c.vlt.jobs.find? fun j => engineOf j.cmd = e

/-- Checkpoint signing has the ECC engine: it waits for a running command and precedes those that wait (06 R271). -/
def ckHasEcc (c : Chip) : Bool :=
  c.acc.ckSign.isSome && !(match c.engineHead .ecc with | some j => c.jobRuns j | none => false)

/-- The head job of an engine may run. -/
def mayRun (c : Chip) (e : Engine) : Bool := !(e = .ecc && c.ckHasEcc)

/-- An engine is at work. -/
def engineBusy (c : Chip) (e : Engine) : Bool := (c.engineHead e).isSome || (e = .ecc && c.acc.ckSign.isSome)

/-- The engines take the Registrar channel first; a running command is not preempted (06 R271). -/
def queueJob (running : VaultJob → Bool) (j : VaultJob) : List VaultJob → List VaultJob
  | [] => [j]
  | h :: t => if j.ch = .registrar ∧ !running h then j :: h :: t else h :: queueJob running j t

/-- A write to a channel's command register (06 R274, R275). -/
def vaultCommand (i : Init) (ch : CoreId) (cmd : Nat) (c : Chip) : Chip :=
  let x := c.chan ch
  if !owns i ch ∨ x.res = 1 ∨ x.res = 2 then c
  else
    let cur : Bool := ch = .curator
    let job : VaultJob := { ch, cmd, slot := x.slot.toNat, flags := x.flags.toNat, len := x.len.toNat
                            attr := if cur then x.attr.toNat else 0, iv := x.iv.read 0 0 16
                            key := if cur then x.key.read 0 0 32 else [], inp := x.inp.read 0 0 256, orphan := false }
    (c.modChan ch fun x => { x with res := 1, key := if cmd = 0x10 ∧ cur then [] else x.key }).modVlt fun v =>
      { v with jobs := queueJob c.jobRuns job v.jobs }

/-- The use an attribute word must allow for a command; `none` where the command takes no slot. -/
def cmdUse (cmd : Nat) : Option (Nat × List Nat) :=
  -- attribute bit, allowed TYPE values
  match cmd with
  | 0x01 | 0x03 | 0x05 => some (0, [0, 1])
  | 0x02 | 0x04 => some (1, [0, 1])
  | 0x06 => some (2, [0, 1])
  | 0x09 => some (3, [2])
  | 0x0A => some (4, [3])
  | 0x0C => some (5, [3])
  | _ => none

/-- What a finished job brings: result, OUT bytes, chain. -/
structure JobEnd where
  res : Nat
  out : Bytes := []
  chain : Option Chain := none

/-- A data command on its key with the chain it continues. -/
def runData (j : VaultJob) (key : Bytes) (prev : Option Chain) : JobEnd :=
  let first : Bool := j.flags.testBit 0
  let last : Bool := j.flags.testBit 1
  let d := j.inp.take j.len
  let keep (acc : Bytes) : Option Chain := if last then none else some { cmd := j.cmd, slot := j.slot, acc }
  let before : Bytes := if first then [] else match prev with | some p => p.acc | none => []
  let iv : Bytes := if first then j.iv else before
  match j.cmd with
  | 0x01 => { res := 4, out := Crypto.ecbEnc key d, chain := keep [] }
  | 0x02 => { res := 4, out := Crypto.ecbDec key d, chain := keep [] }
  | 0x03 => let r := Crypto.cbcEnc key iv d; { res := 4, out := r.1, chain := keep r.2 }
  | 0x04 => let r := Crypto.cbcDec key iv d; { res := 4, out := r.1, chain := keep r.2 }
  | 0x05 => let r := Crypto.ctr key iv d; { res := 4, out := r.1, chain := keep r.2 }
  | 0x06 => { res := 4, out := if last then Crypto.cmac key (before ++ d) else [], chain := keep (before ++ d) }
  | 0x08 => { res := 4, out := if last then Crypto.sha256 (before ++ d) else [], chain := keep (before ++ d) }
  | _ => { res := 4, out := if last then Crypto.hmac key (before ++ d) else [], chain := keep (before ++ d) }

/-- The length rule of a command (06 R276, Table 06-12). -/
def lenOk (j : VaultJob) : Bool :=
  let last : Bool := j.flags.testBit 1
  j.len ≤ 256 &&
  (match j.cmd with
  | 0x01 | 0x02 | 0x03 | 0x04 => j.len % 16 = 0
  | 0x05 | 0x06 => last || j.len % 16 = 0
  | 0x08 | 0x09 => last || j.len % 64 = 0
  | 0x0A => j.len = 32
  | 0x0B => j.len = 160
  | 0x0C => j.len = 64
  | _ => true)

/-- The attribute word and key of a LOAD_KEY are valid (06 R258). -/
def loadOk (j : VaultJob) : Bool :=
  j.attr &&& 0x4CC0 = 0 &&
  (j.attr / 256 % 4 ≠ 3 || (let d := beNat j.key; 1 ≤ d && d < Crypto.fn))

/-- A channel command other than LOAD_KEY and CLEAR_KEY, with the number of signature runs that disagreed (R272). -/
def runJob (j : VaultJob) (prev : Option Chain) (faults : Nat) (slot : Option KeySlot) : JobEnd :=
  let chained : Bool := j.flags.testBit 0 ||
    (match prev with | some p => p.cmd = j.cmd && p.slot = j.slot | none => false)
  let curBit : Nat := match j.ch with | .curator => 12 | .registrar => 13
  let needs : Option Nat := match cmdUse j.cmd with
    | none => if j.cmd = 0x0D then (match slot with
        | none => some 0x11
        | some k => if k.attr.toNat / 256 % 4 = 3 then none else some 0x10) else none
    | some (b, ts) => match slot with
        | none => some 0x11
        | some k =>
          if k.attr.toNat.testBit b && k.attr.toNat.testBit curBit && !k.attr.toNat.testBit 14
            && ts.contains (k.attr.toNat / 256 % 4) then none else some 0x10
  let key : Bytes := match slot with | some k => k.key | none => []
  match needs with
  | some r => { res := r, chain := prev }
  | none =>
    if !lenOk j then { res := 0x12, chain := prev }
    else if !chained then { res := 0x16, chain := prev }
    else match j.cmd with
    | 0x0A => if 3 ≤ faults then { res := 0x15 } else { res := 4, out := Crypto.ecdsaSign (beNat key) (j.inp.take 32) }
    | 0x0B =>
      let pub := slice j.inp 32 64
      let sig := slice j.inp 96 64
      if !Crypto.onCurve (beNat (pub.take 32)) (beNat (pub.drop 32)) then { res := 0x13 }
      else if !Crypto.sigInRange sig then { res := 8 }
      else if Crypto.ecdsaVerify pub (j.inp.take 32) sig then { res := 4 } else { res := 8 }
    | 0x0C =>
      let p := j.inp.take 64
      if !Crypto.onCurve (beNat (p.take 32)) (beNat (p.drop 32)) then { res := 0x13 }
      else { res := 4, out := Crypto.ecdh (beNat key) p }
    | 0x0D => { res := 4, out := Crypto.pubKey (beNat key) }
    | _ => runData j key prev

/-- A command code that a channel may carry. -/
def cmdDefined (cmd : Nat) : Bool := (1 ≤ cmd && cmd ≤ 0x0D && cmd != 7) || cmd = 0x10 || cmd = 0x11

/-- A channel command ends with a result: CDONE or RDONE marks it. An orphan's result is discarded. -/
def endJob (j : VaultJob) (e : JobEnd) (c : Chip) : Chip :=
  if j.orphan then c
  else (c.modChan j.ch fun x => { x with res := byteOf e.res, out := Cells.write 0 [] 0 e.out, chain := e.chain }).modVlt fun v =>
    { v with irq := v.irq ||| (match j.ch with | .curator => 1 | .registrar => 2) }

/-- LOAD_KEY and CLEAR_KEY (06 R258, R288; 05 R751). -/
def runKeyJob (j : VaultJob) (c : Chip) : Chip :=
  let chained : Bool := j.flags.testBit 0
  let stored : Bool := match c.slotOf j.slot with | some k => k.attr.toNat.testBit 15 | none => false
  let will : Bool := j.cmd = 0x10 && j.attr.testBit 15
  if j.ch = .registrar ∨ j.slot < 9 ∨ 15 < j.slot then c.endJob j { res := 0x10 }
  else if j.cmd = 0x10 ∧ !loadOk j then c.endJob j { res := 0x12 }
  else if !chained then c.endJob j { res := 0x16 }
  else if stored ∨ will then
    if c.clk.pfw then c.endJob j { res := 0x14 }
    else (c.queueWk (if will then .load j else .clear j)).when (!j.orphan) fun c => c.modChan j.ch fun x => { x with res := 2 }
  else
    let c := if j.cmd = 0x10 then c.setSlot j.slot (some (keySlot (j.key.take (keyLen j.attr)) j.attr)) else c.setSlot j.slot none
    c.endJob j { res := 4 }

/-- The command in an engine ends (06 R271, R275). -/
def vaultDone (e : Engine) (faults : Nat) (c : Chip) : Chip :=
  match c.engineHead e with
  | none => c
  | some j =>
    if !c.mayRun e then c
    else
      let c := c.modVlt fun v => { v with jobs := v.jobs.erase j }
      if j.cmd = 0x10 ∨ j.cmd = 0x11 then c.runKeyJob j
      else if !cmdDefined j.cmd then c.endJob j { res := 0x10 }
      else
        let u := if (cmdUse j.cmd).isSome ∨ j.cmd = 0x0D then c.useSlot j.slot else (none, c)
        u.2.endJob j (runJob j (u.2.chan j.ch).chain faults u.1)

/-- The job in each engine reads as running once a tick has passed. -/
def startJob (c : Chip) : Chip :=
  [Engine.aes, .sha, .ecc, .key].foldl (fun c e => match c.engineHead e with
    | some j => if !j.orphan && c.mayRun e && (c.chan j.ch).res = 1 then c.modChan j.ch fun x => { x with res := 2 } else c
    | none => c) c

/-- What the end of an entry write brings (06 R264, R268, R288; 04 R160, R746): with `ok`, the entry has verified in copy A and is in
force. A rotation leaves no ceiling of the old key to be written. -/
def wkEnd (w : VaultWhy) (ok : Bool) (c : Chip) : Chip :=
  let n := c.nextCounter
  match w with
  | .ceiling k ceil =>
    if ok then (c.modVlt fun v => { v with counter := n }).modKey k fun s => { s with ceil := ceil, ceilHeld := false }
    else if (c.ord.keys[k]).ceilHeld then c.queueWk w
    else c
  | .rotate k =>
    if ok then
      let old := c.vlt.writes.filter fun w => match w with | .ceiling j _ => j = k | _ => false
      let c := c.modVlt fun v => { v with
        counter := n, gens := v.gens.set k n, writes := v.writes.filter fun w => !old.contains w }
      let c := c.modCns fun q => { q with queue := old.foldl (fun l _ => l.erase .vaultWrite) q.queue }
      (c.deriveSlot (3 + k.val)).modKey k fun _ => { floor := 0, ceil := 65536, rotating := c.vlt.writes.contains (.rotate k) }
    else c.queueWk w
  | .load j =>
    if ok then
      let c := c.modVlt fun v => { v with counter := n }
      (c.setSlot j.slot (some (keySlot (j.key.take (keyLen j.attr)) j.attr))).endJob j { res := 4 }
    else c.endJob j { res := 0x14 }
  | .clear j =>
    if ok then
      let c := c.modVlt fun v => { v with counter := n }
      let c := if j.cmd = 0x10 then c.setSlot j.slot (some (keySlot (j.key.take (keyLen j.attr)) j.attr)) else c.setSlot j.slot none
      c.endJob j { res := 4 }
    else c.endJob j { res := 0x14 }

/-- The head of the entry writes is out of the queue: running, or with its remap under way. -/
def wkUnderWay (c : Chip) : Bool :=
  (match c.cns.run with | some r => opBase r.op == .vaultWrite | none => false) ||
  c.cns.queue.any fun o => o != .vaultWrite && opBase o == .vaultWrite

/-- PFW_N discards held entry writes of LOAD_KEY and CLEAR_KEY (05 R751): each ends with 0x14. -/
def wkPfw (c : Chip) : Chip :=
  let keep := if c.wkUnderWay then c.vlt.writes.take 1 else []
  let held := if c.wkUnderWay then c.vlt.writes.drop 1 else c.vlt.writes
  let c := c.modVlt fun v => { v with writes := keep ++ held.filter fun w => match w with | .load _ | .clear _ => false | _ => true }
  held.foldl (fun c w => match w with
    | .load j | .clear j =>
      (c.endJob j { res := 0x14 }).modCns fun k => { k with queue := k.queue.erase .vaultWrite }
    | _ => c) c

/-- Rotation of a key by a commit of object 0x6000.07 (06 R268). -/
def rotateKey (k : Fin 4) (c : Chip) : Chip := (c.modKey k fun s => { s with rotating := true }).queueWk (.rotate k)

/-! ## Entropy (06 R277 to R282) -/

/-- One sample through both tests: the state after it, and 0, or 1 repetition, 2 proportion. -/
def trnSample (t : Trn) (b : Bool) : Trn × Nat :=
  let run := if t.last = some b then t.run + 1 else 1
  let n := if t.aptN = 0 ∨ 1024 ≤ t.aptN then 1 else t.aptN + 1
  let first := if n = 1 then b else t.aptFirst
  let cnt := if n = 1 then 1 else if b = first then t.aptC + 1 else t.aptC
  ({ t with last := some b, run := run, runMax := max t.runMax run, aptFirst := first, aptN := n, aptC := cnt
            aptMax := max t.aptMax cnt },
   if 41 ≤ run then 1 else if 800 ≤ cnt then 2 else 0)

/-- Samples through the tests up to the first failure. -/
def trnSamples : List Bool → Trn → Trn × Nat
  | [], t => (t, 0)
  | b :: bs, t =>
    let r := trnSample t b
    if r.2 = 0 then trnSamples bs r.1 else r

/-- A test fails (06 R281): 0 start-up, 1 repetition, 2 proportion. -/
def trnFail (kind : Nat) (c : Chip) : Chip :=
  let c := c.modTrn fun t => { t with
    fifo := [], fails := t.fails + 1, irq := t.irq ||| 2, st := if 4 ≤ t.restarts then .exhausted else .blocked }
  let c := c.modDbg fun d => { d with entHid := false }
  let c := c.secEvent 2 kind (c.trn.fails % 256)
  if kind = 0 then c.noteFinding 0x15 else c

/-- Samples of the start-up test: it ends at its first failure, or passes at its 1024th sample, and bits are delivered from then on (06
R278). -/
def trnStartup (samples : List Bool) (c : Chip) : Chip :=
  if c.trn.st ≠ .testing then c
  else
    let r := trnSamples (samples.take (1024 - c.trn.aptN)) c.trn
    let c := c.modTrn fun _ => r.1
    if r.2 ≠ 0 then c.trnFail 0
    else if c.trn.aptN = 1024 then c.modTrn fun t => { t with st := .delivering }
    else c

/-- A byte of eight samples, bit 0 the earliest (06 R277, R280). -/
def trnByte (b : Byte) (c : Chip) : Chip :=
  if c.trn.st ≠ .delivering then c
  else
    let r := trnSamples ((List.range 8).map fun i => b.getLsbD i) c.trn
    let c := c.modTrn fun _ => r.1
    if r.2 ≠ 0 then c.trnFail r.2
    else if 32 ≤ c.trn.fifo.length then c
    else c.modTrn fun t => { t with
      fifo := t.fifo ++ [b], irq := if t.fifo.length + 1 = t.thresh.toNat then t.irq ||| 1 else t.irq }

/-- A write of TRN_CTRL (06 R282). -/
def trnCtrl (v : Byte) (c : Chip) : Chip :=
  if v = 0xA5 ∧ c.trn.st = .blocked ∧ c.trn.restarts < 4 then
    c.modTrn fun t => { t with st := .testing, restarts := t.restarts + 1, fifo := [], last := none, run := 0, aptN := 0, aptC := 0 }
  else c

/-- A read of one byte of TRN_DATA (06 R283, R289). -/
def trnRead (c : Chip) : Byte × Chip :=
  match c.trn.st, c.trn.fifo with
  | .delivering, b :: r => (b, c.modTrn fun t => { t with fifo := r })
  | _, _ => (0, c.modTrn fun t => { t with under := true })

end Chip

end Sys2Proof.Machine
end

