-- ==== Sys2Proof/Machine/LedgerOps.lean ====
section
/-! DEFINITION. The Registrar's ledger (11 R484 to R490): copies, its chain, its pages and its admission. -/

namespace Sys2Proof.Machine

open Sys2Proof

/-- The span of an overflow record: unit and 34-bit value of `ns` (03 R111). -/
def spanField (ns : Nat) : Nat × Nat :=
  if ns < 17179869184 then (0, ns)
  else if ns / 1000 < 17179869184 then (1, ns / 1000)
  else if ns / 1000000 < 17179869184 then (2, ns / 1000000)
  else if ns / 1000000000 < 17179869184 then (3, ns / 1000000000)
  else (3, 17179869183)

/-- An overflow record (03 R110, R111, R136). -/
def overflowRecord (l : Lost) : Record :=
  let s := spanField (l.hi - l.lo)
  { l.first with
    source := BitVec.ofNat 16 (0xC000 + 1024 * s.1 + s.2 / 16777216)
    snap := BitVec.ofNat 24 (s.2 % 16777216), data := BitVec.ofNat 24 (sat24 l.count) }

/-- Blocks of the ledger and its first logical block. -/
def ledBlocks : Nat := 62
def ledFirst : Nat := 832

/-- Buffered ledger records by page, oldest first: the position of the first of a page, and the records. -/
def ledPages : List (Nat × Nat × Bytes) → List (Nat × List Bytes)
  | [] => []
  | e :: r => match ledPages r with
    | (p, l) :: q => if p / 16 = e.1 / 16 then (e.1, e.2.2 :: l) :: q else (e.1, [e.2.2]) :: (p, l) :: q
    | [] => [(e.1, [e.2.2])]

namespace Chip

/-- Byte offset of a ledger slot in the main array: position 256 × block + slot. -/
def ledOff (pos : Nat) : Nat := blockBytes * (ledFirst + pos / 256) + 32 * (pos % 256)

/-- The ledger block after `b`, retired ones skipped (11 R487, 05 R226). -/
def nextLedFrom (c : Chip) : Nat → Nat → Nat
  | 0, b => (b + 1) % ledBlocks
  | n + 1, b =>
    let k := (b + 1) % ledBlocks
    if c.retired (ledFirst + k) then c.nextLedFrom n k else k

def nextLed (c : Chip) (b : Nat) : Nat := c.nextLedFrom ledBlocks b

/-- Programs of the pages that are full, or of all that is buffered, become commands of the Registrar's window (11 R488). -/
def ledgerFlush (all : Bool) (c : Chip) : Chip :=
  let go := (c.rgr.ledBuf.drop c.rgr.ledTaken).filter fun e => all || (c.rgr.ledBlock * 256 + c.rgr.ledSlot) / 16 != e.1 / 16
  let c := (ledPages go).foldl (fun c p => c.addJob (.ledgerPage p.1 p.2)) c
  c.modRgr fun r => { r with ledTaken := r.ledTaken + go.length }

/-- A program of ledger records has ended; `ok`: they stand in the ledger. -/
def ledgerProgrammed (recs : List Bytes) (ok : Bool) (c : Chip) : Chip :=
  c.modRgr fun r => { r with
    ledBuf := r.ledBuf.drop recs.length, ledTaken := r.ledTaken - recs.length
    ledNewest := match recs.getLast? with | some e => if ok then leAt e 12 4 else r.ledNewest | none => r.ledNewest }

/-- Seals a record into the next ledger slot (11 R485, R486). -/
def ledgerPut (r : Record) (c : Chip) : Chip :=
  let u := c.useDerived 1
  match u.1 with
  | none => u.2
  | some k =>
    let c := u.2
    let r := { r with seq := BitVec.ofNat 32 c.rgr.ledSeq }
    let m := r.bytes.take 24 ++ beBytes 8 c.rgr.ledTag.toNat
    let tag := BitVec.ofNat 64 (beNat ((Crypto.cmac k.key m).take 8))
    let r := { r with tag := tag }
    let pos := c.rgr.ledBlock * 256 + c.rgr.ledSlot
    let c := c.modRgr fun g => { g with
      ledSeq := (g.ledSeq + 1) % 4294967296, ledTag := tag, ledSlot := g.ledSlot + 1
      ledBuf := g.ledBuf ++ [(pos, c.clk.raw, r.bytes)] }
    if c.rgr.ledSlot < 256 then c.ledgerFlush false
    else
      -- the next block, and one erased block ahead of it (R488)
      let b := c.nextLed c.rgr.ledBlock
      let lap : Bool := b ≤ c.rgr.ledBlock
      let c := ((c.modRgr fun g => { g with ledBlock := b, ledSlot := 0 }).ledgerFlush false).addJob (.ledgerErase (c.nextLed b))
      if lap then (c.setNum 0x8100 6 (c.cfg 0x8100 6 + 1)).modCat fun t => { t with dirtySlow := true } else c

/-- A ledger record with the block header before it where slot 0 is next. -/
def ledgerNext (r : Record) (c : Chip) : Chip :=
  let c := if c.rgr.ledSlot = 0 then
      c.ledgerPut (c.mkRecord 0xD c.rgr.ledBlock (c.acc.epoch % 16777216))
    else c
  c.ledgerPut r

/-- Ledger slots and admissions that the next copy takes: the record, the overflow record before it, and block headers. -/
def ledgerNeeds (c : Chip) : Nat × Nat :=
  let n := if c.rgr.ledLost.isSome then 2 else 1
  (n, n + (if c.rgr.ledSlot = 0 ∨ (n = 2 ∧ c.rgr.ledSlot = 255) then 1 else 0))

/-- The copy of a sealed kind 0x9, 0xA or 0xB record (11 R485, R488, R490). -/
def ledgerCopy (r : Record) (c : Chip) : Chip :=
  if !c.rgr.ledStarted then c
  else if 3600 < c.rgr.ledHourN + c.ledgerNeeds.1 ∨ 64 < c.rgr.ledBuf.length + c.ledgerNeeds.2 then
    c.modRgr fun g => { g with ledNotAdm := g.ledNotAdm + 1, ledLost := some (addLost r g.ledLost) }
  else
    let c := match c.rgr.ledLost with
      | some l => ((c.ledgerNext (overflowRecord l)).modRgr fun g => { g with ledLost := none, ledHourN := g.ledHourN + 1 })
      | none => c
    (c.ledgerNext r).modRgr fun g => { g with ledHourN := g.ledHourN + 1 }

/-- The oldest unprogrammed ledger record has waited 1 s (11 R488). -/
def ledgerTimeout (c : Chip) : Chip :=
  match c.rgr.ledBuf.drop c.rgr.ledTaken with
  | e :: _ => if e.2.1 + ticksS 1 ≤ c.clk.raw then c.ledgerFlush true else c
  | [] => c

/-- A new hour of admission (11 R490). -/
def ledgerHour (c : Chip) : Chip :=
  if c.rgr.ledHour + ticksS 3600 ≤ c.clk.raw then
    c.modRgr fun g => { g with ledHour := g.ledHour + ticksS 3600, ledHourN := 0 }
  else c

/-- Sequence number and tag position of the last ledger record found: block, slot and number (11 R489; 05 R227's rule
for the ledger). -/
def ledgerScan (c : Chip) : Option (Nat × Nat) :=
  let heads := (List.range ledBlocks).filterMap fun b =>
    if c.retired (ledFirst + b) || c.blockBlank (ledFirst + b) then none
    else
      let e := c.flashBytes (ledOff (256 * b)) 32
      if allOnes e || c.flashBad (ledOff (256 * b)) 32 then none else some (b, leAt e 12 4)
  match heads.foldl (fun x y => match x with | none => some y | some z => if seqLt z.2 y.2 then some y else some z) none with
  | none => none
  | some (b, _) =>
    let last := (List.range 256).reverse.find? fun k =>
      !allOnes (c.flashBytes (ledOff (256 * b + k)) 32) && !c.flashBad (ledOff (256 * b + k)) 32
    match last with
    | some k => some (b, leAt (c.flashBytes (ledOff (256 * b + k)) 32) 12 4)
    | none => none

/-- The oldest ledger record held. -/
def ledgerOldest (c : Chip) : Nat :=
  let order := (List.range ledBlocks).map fun i => (c.rgr.ledBlock + 1 + i) % ledBlocks
  match order.find? (fun b => !c.retired (ledFirst + b) && !c.blockBlank (ledFirst + b)) with
  | some b => leAt (c.flashBytes (ledOff (256 * b)) 32) 12 4
  | none => 0

/-- What the scan of the ledger reads: the first record of each block, and the block it finds. -/
def touchLedger (c : Chip) : Chip :=
  let d := (List.range ledBlocks).foldl (fun (d : Chip) b =>
    if c.retired (ledFirst + b) || c.blockBlank (ledFirst + b) then d else d.touchFlash (ledOff (256 * b)) 32) c
  match c.ledgerScan with
  | some (b, _) => d.touchFlash (ledOff (256 * b)) blockBytes
  | none => d

/-- The ledger of a new epoch (11 R486, R489): the next block, sequence s_last + 65, an epoch start record. The block, and the one ahead
of it, are erased before they are programmed. -/
def ledgerStart (c : Chip) : Chip :=
  let f := c.ledgerScan
  let c := c.touchLedger
  let b := match f with | some (b, _) => c.nextLed b | none => c.nextLed (ledBlocks - 1)
  let s := match f with | some (_, n) => (n + 65) % 4294967296 | none => 0
  let lap : Bool := match f with | some (b0, _) => b ≤ b0 | none => false
  let c := (c.addJob (.ledgerErase b)).modRgr fun g => { g with
    ledSeq := s, ledTag := 0, ledBlock := b, ledSlot := 0, ledBuf := [], ledTaken := 0, ledStarted := true, ledHour := c.clk.raw
    ledHourN := 0, ledLost := none, ledNotAdm := 0 }
  let c := if lap then (c.setNum 0x8100 6 (c.cfg 0x8100 6 + 1)).modCat fun t => { t with dirtySlow := true } else c
  let c := c.addJob (.ledgerErase (c.nextLed b))
  c.ledgerPut (c.mkRecord 6 (c.acc.epoch / 16777216) (c.acc.epoch % 16777216))

end Chip

end Sys2Proof.Machine
end

