-- ==== Sys2Proof/Machine/TimeOps.lean ====
section
/-! DEFINITION. The time base (02): the tick, steps, the servo, the sources and their ranks. -/

namespace Sys2Proof.Machine

open Sys2Proof

/-- Stamp ticks of one second. -/
def secTicks : Nat := 400000000

/-- S and T from a count of stamp ticks (02 R44). -/
def TimeBase.setTotal (t : TimeBase) (n : Int) : TimeBase :=
  { t with sec := ((n / (secTicks : Int)) % 17179869184).toNat, tick := (n % (secTicks : Int)).toNat }

/-- S and T as one count of stamp ticks. -/
def TimeBase.total (t : TimeBase) : Int := (t.sec : Int) * secTicks + t.tick

/-- The hold (−1) or skip (+1) that the frequency correction makes this cycle, and its accumulator after it (02 R46,
log 9): one tick for every 10^9 accumulated ppb. -/
def fcorrAdjust (t : TimeBase) : Int × Int :=
  let a := t.fAcc + t.fcorr
  if 1000000000 ≤ a then (1, a - 1000000000)
  else if a ≤ -1000000000 then (-1, a + 1000000000)
  else (0, a)

/-- The hold or skip that slewing makes this cycle: at most one in 20 000 cycles, 2.5 ns of the phase left, and none in
a cycle that the frequency correction adjusts (02 R46, log 9). -/
def slewAdjust (t : TimeBase) (busy : Bool) : Int :=
  if busy ∨ t.slewPhase ≠ 0 then 0
  else if 3 ≤ t.slew then -1
  else if t.slew ≤ -3 then 1
  else 0

/-- One stamp clock cycle (02 R45): the raw count advances by 1, T by 1, 0 or 2. -/
def TimeBase.cycle (t : TimeBase) : TimeBase :=
  let f := fcorrAdjust t
  let w := slewAdjust t (f.1 != 0)
  let t' := t.setTotal (t.total + 1 + f.1 + w)
  { t' with
    fAcc := f.2
    local_ := (t.local_ + 1 + f.1 + w).toNat
    slew := t.slew + 5 * w
    slewPhase := if w ≠ 0 then 19999 else t.slewPhase - 1 }

namespace Chip

/-! ## Steps and ranks -/

/-- New minus old in ns as the data of a step record: the unit in which a signed 24-bit field holds it (02 Table 02-4). -/
def stepField (d : Int) : Nat × Nat :=
  let fits (x : Int) : Bool := -8388608 ≤ x && x ≤ 8388607
  if fits d then (0, encInt 24 d)
  else if fits (d.tdiv 1000) then (1, encInt 24 (d.tdiv 1000))
  else if fits (d.tdiv 1000000) then (2, encInt 24 (d.tdiv 1000000))
  else (3, encInt 24 (clampInt (-8388607) 8388607 (d.tdiv 1000000000)))

/-- A step by `d` ns to a count of stamp ticks (02 R52). -/
def stepTo (total d : Int) (c : Chip) : Chip :=
  let f := stepField d
  (c.modTime fun t => { t.setTotal total with steps := t.steps + 1, slew := 0 }).timeEvent 1 f.1 f.2

/-- Moves to a sync state with its record (02 R54). LOCKED ends the expired-holdover mark of Table 02-12, and leaving
HOLDOVER ends its elapsed time; notice 4 of the host port marks the change (08 Table 08-8). -/
def setSync (n : Sync) (c : Chip) : Chip :=
  let o := c.time.sync
  if o = n then c
  else
    ((c.modTime fun t => { t with
        sync := n
        slew := if n = .free then 0 else t.slew
        fint := if n = .holdover then t.fcorr else t.fint
        holdx := t.holdx && n != .locked
        holdSince := if n = .holdover then some c.clk.raw else none }).modHost
      fun h => { h with notices := h.notices ||| 16 }).timeEvent 0 (syncNat n + 8 * syncNat o) c.time.rank

/-- An offset change whose on-time edge never came: rank 3 or 4 takes over, where the change is the UTC conversion's alone,
with its code 0x4 record and no step (02 R91; DESIGN CHOICE, log 59). -/
def offsetDropped (c : Chip) : Chip :=
  if c.time.offsetStep = 0 then c
  else (c.modTime fun t => { t with offsetStep := 0 }).timeEvent 4 0 (encInt 16 c.offsetO)

/-- Takes a rank into use with its record (02 R51). -/
def setRank (n : Nat) (c : Chip) : Chip :=
  let c := c.modTime fun t => { t with rankDrop := false }
  let c := if 2 < n then c.offsetDropped else c
  if c.time.rank = n then c
  else (c.modTime fun t => { t with rank := n }).timeEvent 2 (n + 16 * c.time.rank) 0

/-- What a stamp tick changes: the raw count, modulo 2^64, and the TAI clock, while the main domain runs. A second of the
local count is the second edge at which rank 4 takes over from a lost source (02 R51). The field domain has its own time
while a field or VIO powers it (10 R443). -/
def tick (c : Chip) : Chip :=
  let c := if c.tag.on ∨ c.clk.vio then c.modTag fun t => { t with clock := t.clock + 1 } else c
  if c.clk.running then
    let d : Chip := { c with clk := { c.clk with raw := (c.clk.raw + 1) % 18446744073709551616, rc := c.clk.rc + c.rcStep }, time := c.time.cycle }
    if d.time.rankDrop ∧ d.time.sec ≠ c.time.sec then d.setRank 4 else d
  else c

/-! ## The servo (02 R53, Table 02-2) -/

/-- Slews out `e` ns (02 R55); the slew counts in units of 0.5 ns. -/
def slewOut (e : Int) (c : Chip) : Chip := c.modTime fun t => { t with slew := 2 * e }

/-- The proportional-integral law of 02 R55 with its time constant of 16 s, on edges 1 s apart: the integral part takes
e / 16² and the correction adds e / 16, each by its gain in thousandths, which the spec leaves open (log 8); both stay
within ±200 ppm. An e of n ns in a second is n ppb; a clock that is ahead is slowed. -/
def correctFreq (e : Int) (c : Chip) : Chip :=
  c.modTime fun t =>
    let i := clampInt (-200000) 200000 (t.fint - (Config.servoGainI : Int) * e / 256000)
    { t with fint := i, fcorr := clampInt (-200000) 200000 (i - (Config.servoGainP : Int) * e / 16000) }

/-- The servo at a valid second edge of the rank in use: `e` ns of phase error, `comp` ns of compensation, and the
second the source names. -/
def servo (e comp : Int) (named : Nat) (c : Chip) : Chip :=
  let small : Bool := e.natAbs ≤ 200
  let big : Bool := 1000000 ≤ e.natAbs
  let doStep (c : Chip) : Chip := c.stepTo ((named : Int) * secTicks + ticksNs comp) (-e)
  let count (n : Nat) (c : Chip) : Chip := c.modTime fun t => { t with count := n }
  let c := c.modTime fun t => { t with pherr := e, lastEdge := some c.clk.raw }
  match c.time.sync with
  | .free =>
    if 1000 ≤ e.natAbs then ((doStep c).setSync .acquiring) |> count 0
    else (c.setSync .acquiring) |> count (if small then 1 else 0)
  | .acquiring =>
    if big then doStep c |> count 0
    else
      let n := if small then c.time.count + 1 else 0
      let c := ((c.slewOut e).correctFreq e) |> count n
      if 8 ≤ n then c.setSync .locked else c
  | .locked => if big then ((doStep c).setSync .acquiring) |> count 0 else (c.slewOut e).correctFreq e
  | .holdover =>
    if big then ((doStep c).setSync .acquiring) |> count 0
    else
      let c := (c.slewOut e) |> count (c.time.count + 1)
      if 2 ≤ c.time.count then c.setSync .locked else c

/-- An edge that is not valid: counted, and it restarts the counts of 02 R56. -/
def badEdge (c : Chip) : Chip :=
  c.modTime fun t => { t with refusals := t.refusals + 1, count := 0 }

/-- The step of 02 R91 by a whole number of seconds, at the next IRIG on-time edge after the offset changed; a PPS edge
makes none. -/
def offsetStepNow (c : Chip) : Chip :=
  if c.time.offsetStep = 0 then c
  else
    let d := c.time.offsetStep
    ((c.modTime fun t => { t with offsetStep := 0 }).timeEvent 4 0 (encInt 16 c.offsetO)).stepTo
      (c.time.total + d * secTicks) (d * 1000000000)

/-- The phase error of an edge now with `comp` ns of compensation against second `s` (02 R741). -/
def phaseError (comp : Int) (s : Nat) (c : Chip) : Int := (c.nowNs : Int) - comp - (s : Int) * 1000000000

/-- IRIG may name seconds: enabled, and its last frame valid. -/
def irigOk (c : Chip) : Bool := c.cfgB 0x2010 3 && c.time.irigValid

/-- The second that IRIG names for a PPS edge at compensated tick `p`, from the on-time edge within 1 ms before it, or
from the one a second earlier when that puts the coming edge within 1 ms (02 R64). `none`: no edge to pair with.
`some (none, d)`: the pair lies `d` ticks apart, outside the window. -/
def irigPair (p : Int) (c : Chip) : Option (Option Nat × Int) :=
  match c.time.irigEdge with
  | none => none
  | some (t, s) =>
    let k := (p - t + (secTicks : Int) / 2) / (secTicks : Int)
    let d := p - t - k * secTicks
    if k < 0 ∨ 2 < k then none
    else some (if d.natAbs ≤ 400000 then some (s + k.toNat) else none, d)

/-- The difference of a code 0x5 record, from ns: in µs, a signed 24-bit field that saturates (02 Table 02-4). Its sign (PPS
minus IRIG, ToD minus running count) and its rounding toward zero are the model's (DESIGN CHOICE, log 59). -/
def disagreement (ns : Int) : Nat := encInt 24 (clampInt (-8388608) 8388607 (ns.tdiv 1000))

/-- A PPS_IN rising edge whose high level lasts `highNs` (02 R49 to R51, R64, R741, R742). An inconsistent pair writes its
code 0x5 record at each PPS edge at which it is found so (DEDUCED, log 59). -/
def ppsEdge (highNs : Nat) (c : Chip) : Chip :=
  let t := c.time
  let valid : Bool := 50 ≤ highNs &&
    (match t.lastPps, t.ppsRaw with
    | some l, some r =>
      1000000000 < c.clk.raw - r || ((t.local_ : Int) - l - secTicks).natAbs ≤ 40000
    | _, _ => true)
  if !(c.cfgB 0x2010 1) then c
  else if !valid then
    let c := c.badEdge
    if t.tod.isSome then c.modTime fun t => { t with tod := none, refusals := t.refusals + 1 } else c
  else
    let comp := c.cfgI 0x2010 2
    let p : Int := c.clk.raw - ticksNs comp
    -- R49: the count carried on by PPS, and the ToD that names this edge
    let carried := match c.time.rank3, t.lastPps with
      | some n, some l => some ((n + (t.local_ - l + secTicks / 2) / secTicks) % 17179869184)
      | _, _ => none
    let c := match carried, t.tod with
      | some k, some n => if k = n then c else
          c.timeEvent 5 1 (disagreement (((n : Int) - k) * 1000000000))
      | _, _ => c
    let three := if t.tod.isSome then t.tod else carried
    let c := c.modTime fun t => { t with
      lastPps := some t.local_, ppsRaw := some c.clk.raw, ppsTick := some p, rank3 := three
      todSeen := t.todSeen || t.tod.isSome, tod := none }
    let pair := if c.irigOk then c.irigPair p else none
    match pair with
    | some (some s, _) => (c.setRank 1).servo (c.phaseError comp s) comp s
    | some (none, d) => c.timeEvent 5 0 (disagreement ((d * 5).tdiv 2))
    | none =>
      match three with
      | some s => (c.setRank 3).servo (c.phaseError comp s) comp s
      | none =>
        -- measured and reported, against the nearest second (R49)
        let ns : Int := (c.nowNs : Int) - comp
        c.modTime fun t => { t with pherr := (ns + 500000000) % 1000000000 - 500000000 }

/-- A PPS edge that pairs with this on-time edge has come or is due within 1 ms (02 R64). -/
def ppsPairs (p : Int) (c : Chip) : Bool :=
  c.cfgB 0x2010 1 &&
  (match c.time.ppsTick with
  | none => false
  | some t =>
    let k := (p - t + (secTicks : Int) / 2) / (secTicks : Int)
    0 ≤ k && k ≤ 2 && (p - t - k * secTicks).natAbs ≤ 400000)

/-- An IRIG on-time edge (02 R60): the last frame names its second, and it is the second edge of rank 2 when no PPS
edge pairs with it; either way it is a valid edge of rank 2 for Table 02-2. An edge without a valid frame restarts the
counts of R56. -/
def irigOnTimeEdge (c : Chip) : Chip :=
  let comp := c.cfgI 0x2010 6
  let p : Int := c.clk.raw - ticksNs comp
  match (if c.irigOk then c.time.irigNext else none) with
  | none => (c.modTime fun t => { t with irigEdge := none, irigNext := none }).when (c.cfgB 0x2010 3) badEdge
  | some s =>
    let c := c.modTime fun t => { t with irigEdge := some (p, s), irigNext := none, lastEdge := some c.clk.raw }
    let c := if c.time.rank ≤ 2 then c.offsetStepNow else c
    if c.ppsPairs p then c else (c.setRank 2).servo (c.phaseError comp s) comp s

/-! ## IRIG frames (02 R57 to R63; bit positions of IRIG 200-04 and IEEE 1344, log 14) -/

/-- The number that the elements at the listed positions spell, least significant first. -/
def irigNum (e : List Nat) (ps : List Nat) : Nat := ps.reverse.foldl (fun n p => 2 * n + e.getD p 0) 0

/-- Days from 2000-01-01 to the start of a year since 2000, in the Gregorian calendar. -/
def yearDays (y : Int) : Int := 365 * y + (y + 3) / 4 - (y + 99) / 100 + (y + 399) / 400

/-- The year since 2000 and the day of year (from 1) of a day number, from 1999 to the end of the count of seconds. -/
def yearOfDay (d : Int) : Int × Int :=
  let y := d / 366
  let y := if yearDays (y + 1) ≤ d then y + 1 else y
  let y := if yearDays (y + 1) ≤ d then y + 1 else y
  (y, d - yearDays y + 1)

/-- Formats B004 to B007 carry BCD_YEAR. -/
def irigHasYear (f : Fin 8) : Bool := 4 ≤ f.val

/-- Control functions decoded under IEEE 1344: year, leap, DST, offset in half hours, quality, parity. -/
structure IrigCf where
  lsp : Bool
  ls : Bool
  dsp : Bool
  dst : Bool
  halfHours : Int
  tq : Nat
  parityOk : Bool
  deriving DecidableEq, Repr

def irigCf (e : List Nat) : IrigCf :=
  let h : Int := 2 * irigNum e [65, 66, 67, 68] + e.getD 70 0
  let ones := ((e.take 75).filter (· = 1)).length
  { lsp := e.getD 60 0 = 1, ls := e.getD 61 0 = 1, dsp := e.getD 62 0 = 1, dst := e.getD 63 0 = 1
    halfHours := if e.getD 64 0 = 1 then -h else h
    tq := irigNum e [71, 72, 73, 74]
    parityOk := decide ((ones + e.getD 75 0) % 2 = 1) == Config.irigParityOdd }

/-- An element of `ns` nanoseconds (02 R58): a 2 ms pulse is a zero, 5 ms a one and 8 ms a marker (2), each within 0.5 ms;
3 is any other width. -/
def irigElement (ns : Nat) : Nat :=
  let near (w : Nat) : Bool := w ≤ ns + 500000 && ns ≤ w + 500000
  if near 2000000 then 0 else if near 5000000 then 1 else if near 8000000 then 2 else 3

/-- Markers stand where they must and nowhere else, and every element is a zero, a one or a marker (02 R58, R59). -/
def irigShape (e : List Nat) : Bool :=
  e.length = 100 && e.zipIdx.all fun (v, i) => if i = 0 ∨ i % 10 = 9 then v = 2 else v ≤ 1

/-- The second of the minute that a frame carries. -/
def irigSec (e : List Nat) : Nat := 10 * irigNum e [6, 7, 8] + irigNum e [1, 2, 3, 4]

/-- The UTC second since 2000 that a frame's time of day names, with the year given or taken from today's (02 R61);
`none` for a BCD digit out of range. A year of two digits is taken as 2000 to 2099 (DESIGN CHOICE, log 14). -/
def irigUtc (e : List Nat) (year : Option Nat) (today : Int) : Option Int :=
  let s1 := irigNum e [1, 2, 3, 4]; let s10 := irigNum e [6, 7, 8]
  let m1 := irigNum e [10, 11, 12, 13]; let m10 := irigNum e [15, 16, 17]
  let h1 := irigNum e [20, 21, 22, 23]; let h10 := irigNum e [25, 26]
  let d1 := irigNum e [30, 31, 32, 33]; let d10 := irigNum e [35, 36, 37, 38]; let d100 := irigNum e [40, 41]
  let s := 10 * s10 + s1; let m := 10 * m10 + m1; let h := 10 * h10 + h1; let d := 100 * d100 + 10 * d10 + d1
  if 9 < s1 ∨ 9 < m1 ∨ 9 < h1 ∨ 9 < d1 ∨ 9 < d10 ∨ 60 < s ∨ 59 < m ∨ 23 < h ∨ d < 1 ∨ 366 < d then none
  else
    let now := yearOfDay today
    let y := match year with
      | some y => (y : Int)
      | none => if (d : Int) + 300 < now.2 then now.1 + 1 else now.1
    some ((yearDays y + d - 1) * 86400 + h * 3600 + m * 60 + s)

/-- Loads the leap that a frame announces (02 R67, R92): LSP decides L and E, the second after a minute of 60 + L
seconds. A value that was written and is now overwritten is recorded. `sec`: the frame's second of the minute, 60 for an
inserted one. -/
def irigLeap (f : IrigCf) (sec : Nat) (tai : Int) (c : Chip) : Chip :=
  let l : Int := if f.lsp then (if f.ls then -1 else 1) else 0
  let e : Nat := (tai - (sec : Int) + 60 + l).toNat
  let same : Bool := c.leapL == l && (l == 0 || c.cfg 0x2030 3 == e)
  if same then c
  else
    let lost := c.time.leapWritten
    let c := (c.modTime fun t => { t with leapWritten := false }).setNum 0x2030 2 (encInt 16 l)
    let c := if l = 0 then c else c.setNum 0x2030 3 (e % 17179869184)
    if lost then c.timeEvent 4 1 (encInt 16 c.offsetO) else c

/-- A frame that is not valid: the chain of frames is lost (02 R59) and the next on-time edge has no name. -/
def irigBad (c : Chip) : Chip :=
  c.modTime fun t => { t with irigPrev := none, irigValid := false, irigNext := none, irigFlags := t.irigFlags % 4 }

/-- A whole IRIG-B frame, the width of each of its elements in ns (02 R58 to R63). -/
def irigFrame (fmt : Fin 8) (widths : List Nat) (c : Chip) : Chip :=
  let e := widths.map irigElement
  if !(c.cfgB 0x2010 3) then c
  else if !irigShape e then c.irigBad
  else
    let use1344 : Bool := c.cfgB 0x2010 4
    let cf := irigCf e
    let c := if use1344 then c.modTime fun t => { t with
        irigQuality := cf.tq, irigFlags := (if cf.dsp then 1 else 0) + (if cf.dst then 2 else 0) + t.irigFlags / 4 * 4 }
      else c
    let utcNow : Int := (c.time.sec : Int) - c.offsetO
    let today := utcNow / 86400
    let yr1 := 10 * irigNum e [55, 56, 57, 58] + irigNum e [50, 51, 52, 53]
    let yrOk : Bool := irigNum e [55, 56, 57, 58] ≤ 9 && irigNum e [50, 51, 52, 53] ≤ 9
    let hasYear : Bool := irigHasYear fmt || use1344
    let year := if hasYear then some yr1 else none
    match irigUtc e year today with
    | none => c.irigBad
    | some u =>
      let bad : Bool := (hasYear && !yrOk) ||
        (use1344 && (!cf.parityOk || cf.tq = 15 || c.cfg 0x2010 5 < cf.tq))
      if bad then c.irigBad
      else
        let utc : Int := if use1344 then u + cf.halfHours * 1800 else u
        let tai : Int := utc + c.offsetO
        let n := (tai % 17179869184).toNat
        let ok : Bool := c.time.irigPrev == some ((n + 17179869184 - 1) % 17179869184)
        let c := c.modTime fun t => { t with
          irigPrev := some n, irigValid := ok, irigNext := if ok then some ((n + 1) % 17179869184) else none
          irigFlags := t.irigFlags % 4 + (if ok then 4 else 0) }
        if ok ∧ use1344 ∧ c.time.rank ≤ 2 then c.irigLeap cf (irigSec e) tai else c

/-! ## Losses, limits, leaps, ToD -/

/-- More than 2.5 s without a valid edge of any rank 1 to 3 (02 Table 02-2): rank 4 follows at its next second edge
(02 R51). -/
def sourceTimeout (c : Chip) : Chip :=
  let due : Bool := match c.time.lastEdge with
    | some r => 1000000000 < c.clk.raw - r
    | none => true
  let c := if due then c.modTime fun t => { t with rankDrop := t.rank != 4 } else c
  if !due then c
  else match c.time.sync with
  | .locked => (c.modTime fun t => { t with count := 0 }).setSync .holdover
  | .acquiring => (c.modTime fun t => { t with count := 0 }).setSync .free
  | _ => c

/-- Holdover beyond object 0x2010.08 (02 Table 02-2). -/
def holdoverExpiry (c : Chip) : Chip :=
  match c.time.sync, c.time.holdSince with
  | .holdover, some r =>
    if c.cfg 0x2010 8 ≠ 0 ∧ ticksS (c.cfg 0x2010 8) < c.clk.raw - r then
      (c.setSync .free).modTime fun t => { t with holdx := true }
    else c
  | _, _ => c

/-- The leap takes effect (02 R66). -/
def leapApply (c : Chip) : Chip :=
  let l := c.leapL
  if l ≠ 0 ∧ c.cfg 0x2030 3 ≤ c.time.sec then
    let o := encInt 16 (c.offsetO + l)
    (((c.setNum 0x2030 1 o).setNum 0x2030 2 0).modTime fun t => { t with leapWritten := false }).timeEvent 3
      (if l = 1 then 1 else 2) o
  else c

/-- A ToD message (02 R48): whether it is taken, and the chip after it. `port` 0 host, 1 CAN-A, 2 CAN-B. A second one before
the edge that both name replaces the first (DESIGN CHOICE, log 59). -/
def todMessage (port : Nat) (st : Dword) (c : Chip) : Bool × Chip :=
  let s := st.toNat / 1073741824
  let inWindow : Bool := match c.time.ppsRaw with
    | some r => ticksMs 100 ≤ c.clk.raw - r && c.clk.raw - r ≤ ticksMs 900
    | none => false
  if inWindow && !(c.time.rank ≤ 2) then
    (true, (c.modTime fun t => { t with tod := some s }).timeEvent 7 port (s % 16777216))
  else (false, c.modTime fun t => { t with refusals := t.refusals + 1 })

/-- The Registrar reports a PLL fault to the time base (02 Table 02-2). -/
def pllFault (c : Chip) : Chip :=
  ((c.modTime fun t => { t with fcorr := 0, fint := 0, fAcc := 0, count := 0 }).setSync .free).timeEvent 6 0 0

/-- The offset was written through the Catalogue (02 R91): at ranks 1 and 2 the frames that follow name seconds by the new
offset, and the next on-time edge steps the clock to it; the PPS edges before that one still pair with the last edge. -/
def offsetWritten (old : Int) (c : Chip) : Chip :=
  let d := c.offsetO - old
  if d = 0 then c
  else if c.time.rank ≤ 2 then
    let sh (n : Nat) : Nat := (((n : Int) + d) % 17179869184).toNat
    c.modTime fun t => { t with
      offsetStep := t.offsetStep + d, irigPrev := t.irigPrev.map sh, irigNext := t.irigNext.map sh }
  else c.timeEvent 4 0 (encInt 16 c.offsetO)

/-! ## PPS_OUT (02 R83, R84) -/

/-- Ticks after the second at which the pulse rises. -/
def ppsOutTick (c : Chip) : Nat := (ticksNs (c.cfg 0x2010 0xC)).toNat

/-- The pulse begins at its tick or at most 5 ns after it, once in a second; at any other tick none does. -/
def ppsOutStart (c : Chip) : Chip :=
  if c.cfgB 0x2010 9 && (c.cfgB 0x2010 0xB || c.time.sync != .free) && c.ppsOutTick ≤ c.time.tick
      && c.time.tick ≤ c.ppsOutTick + 2 && c.time.ppsOutSec != some c.time.sec && !c.time.ppsOut then
    c.modTime fun t => { t with
      ppsOut := true, ppsOutEnd := c.clk.raw + ticksUs (c.cfg 0x2010 0xA), ppsOutSec := some t.sec }
  else c

def ppsOutEnd (c : Chip) : Chip :=
  if c.time.ppsOut && c.time.ppsOutEnd ≤ c.clk.raw then c.modTime fun t => { t with ppsOut := false } else c

/-- Seconds of holdover so far (object 0x2000.06). -/
def holdElapsed (c : Chip) : Nat :=
  match c.time.holdSince with
  | some r => (c.clk.raw - r) / secTicks
  | none => 0

end Chip

end Sys2Proof.Machine
end

