-- ==== Sys2Proof/Machine/AccOps.lean ====
section
/-! DEFINITION. The accession pipeline (03): Qualify, Seal, Shelve, checkpoints, the epoch start, and the journal as it is
read back. -/

namespace Sys2Proof.Machine

open Sys2Proof

namespace Chip

/-! ## Qualification (03 R94 to R105) -/

def modBi (n : Fin 24) (f : Bi → Bi) (c : Chip) : Chip := c.modAcc fun a => { a with bis := a.bis.set n (f a.bis[n]) }

/-- Debounce time in ticks (03 R97). -/
def debounceTicks (c : Chip) (n : Nat) : Nat := max 400 (4000 * c.cfg (0x3100 + n) 3)

/-- A raw transition (03 R94, R95): the pin has its new level in every state of the supplies. The Registrar counts it for
bursts whether or not the input is enabled (11 Table 11-1). -/
def biTransition (n : Fin 24) (c : Chip) : Chip :=
  let c := c.modAcc fun a => { a with rawBi := a.rawBi ^^^ BitVec.ofNat 24 (2 ^ n.val) }
  let c := if c.clk.running then c.modBi n fun b => { b with lastTrans := c.clk.raw, burst := b.burst + 1 } else c
  if !c.clk.running ∨ !c.acc.en ∨ !c.biOn n.val then c
  else
    let b := c.acc.bis[n]
    match b.cand with
    | some k => c.modBi n fun b => { b with cand := some { k with last := c.clk.raw } }
    | none =>
      if c.biRaw n.val = b.qual then c
      else c.modBi n fun b => { b with cand := some {
        t0 := c.clk.raw, stamp := c.stamp, angle := c.angle, cycle := c.phase.cycle, quality := c.quality
        last := c.clk.raw, debounce := c.debounceTicks n.val } }

/-- Source bits of a kind 0x0 edge record over a change mask (03 Table 03-4). -/
def edgeSource (mask levels : Nat) : Nat :=
  let low := (bitList 24 mask).headD 0
  low + (if levels.testBit low then 32 else 0) + (if (bitList 24 mask).length ≤ 1 then 0 else 64)

/-- Merges a bit into an edge record of the same tick and the same t0 (03 R104). -/
def mergeEdge (n : Nat) (tick t0 : Nat) (levels : BitVec 24) : List Arisen → Option (List Arisen)
  | [] => none
  | a :: r =>
    if a.tick = tick ∧ a.cls = clsBi ∧ a.t0 = t0 ∧ a.rcd.source.toNat / 128 = 0 then
      let m := a.rcd.data.toNat ||| 2 ^ n
      some ({ a with rcd := { a.rcd with data := BitVec.ofNat 24 m, snap := levels
                                         source := BitVec.ofNat 16 (edgeSource m levels.toNat) } } ::
        laneSnap { a with rcd := { a.rcd with snap := levels } } r)
    else match mergeEdge n tick t0 levels r with
      | some r' => some (a :: r')
      | none => none

/-- The record of a qualified edge, merged where R104 allows. -/
def edgeRecord (n : Fin 24) (k : Cand) (c : Chip) : Chip :=
  match mergeEdge n.val c.clk.raw k.t0 c.levels c.acc.queue with
  | some q => c.modAcc fun a => { a with queue := q }
  | none =>
    c.ariseRec clsBi { c.mkRecord 0 (edgeSource (2 ^ n.val) c.levels.toNat) (2 ^ n.val) with
      stamp := k.stamp, angle := k.angle, cycle := k.cycle, quality := k.quality } k.t0

/-- A chatter-entered record. -/
def chatterRecord (n : Fin 24) (k : Cand) (c : Chip) : Chip :=
  let lvl : Bool := (c.acc.bis[n]).qual
  let w := c.cfg (0x3100 + n.val) 6
  c.ariseRec clsBi { c.mkRecord 0 (128 + n.val + (if lvl then 32 else 0)) (c.cfg (0x3100 + n.val) 5 + 256 * w) with
    stamp := k.stamp, angle := k.angle, cycle := k.cycle, quality := k.quality } k.t0

/-- The count window after one more qualified edge: opening tick and count (03 R99). It counts the edges of a suppression
too, and stays open through it. -/
def windowAfter (c : Chip) (n : Fin 24) : Nat × Nat :=
  match (c.acc.bis[n]).win with
  | some (o, k) => if c.clk.raw < o + ticksMs (c.cfg (0x3100 + n.val) 6) then (o, k + 1) else (c.clk.raw, 1)
  | none => (c.clk.raw, 1)

/-- The candidate has differed for its debounce time (03 R95, R98 to R103); the Nth edge of a window starts suppression. -/
def debounceExpiry (n : Fin 24) (c : Chip) : Chip :=
  let b := c.acc.bis[n]
  match b.cand with
  | none => c
  | some k =>
    if c.biRaw n.val = b.qual ∨ c.clk.raw < k.last + k.debounce then c
    else
      let lvl := !b.qual
      let c := c.modBi n fun b => { b with qual := lvl, cand := none }
      let nn := c.cfg (0x3100 + n.val) 5
      let w := c.windowAfter n
      let c := if nn = 0 then c else c.modBi n fun b => { b with win := some w }
      if b.supp then c.modBi n fun b => { b with suppRun := b.suppRun + 1, suppTotal := b.suppTotal + 1 }
      else if nn ≠ 0 ∧ w.2 = nn then
        (c.modBi n fun b => { b with supp := true, suppRun := 0 }).chatterRecord n k
      else
        let dir := c.cfg (0x3100 + n.val) 4
        if dir.testBit (if lvl then 0 else 1) then c.edgeRecord n k else c

/-- The raw level has equalled the qualified level for the debounce time (03 R96). -/
def candidateAbandon (n : Fin 24) (c : Chip) : Chip :=
  let b := c.acc.bis[n]
  match b.cand with
  | none => c
  | some k =>
    if c.biRaw n.val ≠ b.qual ∨ c.clk.raw < k.last + k.debounce then c
    else c.modBi n fun b => { b with cand := none, filtered := b.filtered + 1 }

/-- The count window closes W after it opened (03 R99). -/
def chatterClose (n : Fin 24) (c : Chip) : Chip :=
  match (c.acc.bis[n]).win with
  | some (o, _) => if o + ticksMs (c.cfg (0x3100 + n.val) 6) ≤ c.clk.raw then c.modBi n fun b => { b with win := none } else c
  | none => c

/-- Suppression ends after the quiet time (03 R102). -/
def quietExpiry (n : Fin 24) (c : Chip) : Chip :=
  let b := c.acc.bis[n]
  if b.supp && b.cand.isNone && b.lastTrans + ticksMs (c.cfg (0x3100 + n.val) 7) ≤ c.clk.raw then
    (c.modBi n fun b => { b with supp := false }).ariseRec clsBi
      (c.mkRecord 0 (256 + n.val + (if b.qual then 32 else 0)) (sat24 b.suppRun)) c.clk.raw
  else c

/-- Object 0x3100+n.02 changed (03 R154). -/
def invertWritten (n : Fin 24) (c : Chip) : Chip := c.modBi n fun b => { b with qual := !b.qual, cand := none }

/-- Object 0x3100+n.01 changed (03 R155, R745). -/
def enableWritten (n : Fin 24) (c : Chip) : Chip :=
  if c.biOn n.val then c.modBi n fun b => { b with qual := c.biRaw n.val, cand := none }
  else c.modBi n fun b => { b with cand := none, supp := false, win := none }

/-! ## Seal and Shelve (03 R112 to R137) -/

/-- ACC_OLDEST (03 R132). -/
def accOldest (c : Chip) : Nat :=
  if sub32 c.acc.nextSeq c.acc.baseSeq ≤ 4096 then c.acc.baseSeq else sub32 c.acc.nextSeq 4096

/-- Ring slots that hold no record waiting for the journal, as the seal lane finds them for its next record. -/
def laneFree (c : Chip) : Nat := 4096 - c.unprogrammed

/-- The losing state ends when 128 slots are free (03 R136). -/
def endLosing (c : Chip) : Chip :=
  if c.acc.losing && 128 ≤ c.freeSlots then c.modAcc fun a => { a with losing := false } else c

/-- An event frame waits on one bus (09 R403, R404). -/
def canEvent (k : CanCtl) (r : Record) : CanCtl :=
  if !k.en then k
  else if k.evq.length < 32 ∧ k.st ≠ 3 then { k with evq := k.evq ++ [r] }
  else { k with drops := k.drops + 1, irq := k.irq ||| 4 }

/-- What follows a shelve write: notify (03 R142 to R145) and the ledger (11 R485). -/
def notify (r : Record) (kind : Nat) (c : Chip) : Chip :=
  let c := c.modAcc fun a => { a with irq := a.irq ||| (if kind = 15 then 5 else 1) }
  let c := if (c.cfg 0x3000 2).testBit kind then c.modCan fun n => { n with a := canEvent n.a r, b := canEvent n.b r } else c
  if kind = 9 ∨ kind = 10 ∨ kind = 11 then c.ledgerCopy r else c

/-- The next journal slot, and the next block after slot 255 (03 R125, 05 R224). -/
def advanceJournal (c : Chip) : Chip :=
  if c.acc.jSlot < 255 then c.modAcc fun a => { a with jSlot := a.jSlot + 1 }
  else
    let b := c.nextJournal c.acc.jBlock
    let lap : Bool := b ≤ c.acc.jBlock
    let c := c.modAcc fun a => { a with jBlock := b, jSlot := 0 }
    let c := if lap then (c.setNum 0x3300 6 (c.cfg 0x3300 6 + 1)).modCat fun t => { t with dirtyFast := true, dirtySlow := true } else c
    ((c.modCns fun k => { k with ahead := k.ahead - 1 }).guardPreErase).queuePreErase

/-- Seals a record with K_epoch and shelves it (03 R112, R129, R130). `slot` marks a checkpoint continuation, whose
sequence field holds signature bytes (R122). -/
def sealRec (key : Bytes) (r : Record) (slot : Bool) (c : Chip) : Chip :=
  let s := c.acc.nextSeq
  let r := if slot then r else
    { r with seq := BitVec.ofNat 32 s, quality := if c.acc.untested then r.quality ||| 0x80 else r.quality }
  let m := r.bytes.take 24 ++ beBytes 8 c.acc.prevTag.toNat
  let tag := BitVec.ofNat 64 (beNat ((Crypto.cmac key m).take 8))
  let r := { r with tag := tag }
  let kind := r.kind
  let sh : Shelved := { rcd := r, seq := s, pos := c.acc.jBlock * 256 + c.acc.jSlot, tick := c.clk.raw }
  let c := c.modAcc fun a => { a with
    prevTag := tag, nextSeq := (s + 1) % 4294967296, ring := assocPut (c.ringSlot s) (some sh) a.ring
    newest := if kind = 7 ∨ kind = 14 then a.newest else some { seq := s, tag := tag, stamp := r.stamp }
    anchorTick := if kind = 6 then c.clk.raw else a.anchorTick }
  c.advanceJournal.notify r kind

/-- A checkpoint begins when 1024 records have been sealed since the anchor (03 R119). -/
def countTrigger (c : Chip) : Chip :=
  if c.acc.newest.isSome && 1024 ≤ sub32 c.acc.nextSeq (c.acc.lastAnchor + 1) then c.modAcc fun a => { a with ckDue := true } else c

/-- Four slots fit before the next slot 0 and are free (03 R127, R134). -/
def ckFits (c : Chip) : Bool := c.acc.jSlot != 0 && c.acc.jSlot + 4 ≤ 256 && 4 ≤ c.laneFree

/-- A due checkpoint is admitted and its signing begins (03 R119, R124, R127). -/
def tryCheckpoint (c : Chip) : Chip :=
  match c.acc.newest with
  | some n =>
    if c.acc.ckDue && c.acc.ckSign.isNone && c.acc.ckReady.isNone && c.ckFits && n.seq != c.acc.lastAnchor then
      c.modAcc fun a => { a with
        ckDue := false, ckSign := some n, lastAnchor := n.seq
        anchorTick := match c.shelved n.seq with | some s => s.tick | none => c.clk.raw }
    else c
  | none => c

/-- A continuation slot: 22 signature bytes in record bytes 0–15 and 18–23 (03 R121). -/
def contRecord (sig : Bytes) (k : Nat) : Record :=
  let b := padTo 0 22 (slice sig (22 * (k - 1)) 22)
  Record.ofBytes (b.take 16 ++ leBytes 2 (0xE000 + k) ++ b.drop 16 ++ List.replicate 8 0)

/-- What the signature covers (03 R120). -/
def ckMessage (c : Chip) (a : Anchor) : Bytes :=
  leBytes 4 c.acc.epoch ++ leBytes 4 a.seq ++ beBytes 8 a.tag.toNat ++ leBytes 8 a.stamp.toNat

/-- The signature completes, once it has the ECC engine (06 R271), or is abandoned after three runs that disagree (R272). -/
def checkpointSigned (faults : Nat) (c : Chip) : Chip :=
  match c.acc.ckSign with
  | none => c
  | some a =>
    if !c.ckHasEcc then c
    else
    let c := c.modAcc fun x => { x with ckSign := none }
    if 3 ≤ faults then c.secEvent 3 0 (a.seq % 16777216)
    else
      let u := c.useDerived 2
      match u.1 with
      | none => u.2
      | some k =>
        let sig := Crypto.ecdsaSign (beNat k.key) (Crypto.sha256 (u.2.ckMessage a))
        u.2.modAcc fun x => { x with ckReady := some (a, sig), ckPos := 0 }

/-- The 1 s trigger (03 R119). -/
def checkpointTrigger (c : Chip) : Chip :=
  match c.acc.newest with
  | some n =>
    if c.acc.en && n.seq != c.acc.lastAnchor && c.acc.anchorTick + ticksS 1 ≤ c.clk.raw then
      (c.modAcc fun a => { a with ckDue := true }).tryCheckpoint
    else c
  | none => c

/-- One record through the lane: sealed with slot 0 and shelved, `took` saying what the lane gave it up; while slot 0 cannot
be used the record waits (03 R112, 06 R290). -/
def sealTake (r : Record) (slot : Bool) (took : Acc → Acc) (c : Chip) : Chip :=
  let u := c.useSlot 0
  match u.1 with
  | none => u.2
  | some k => (((u.2.modAcc took).sealRec k.key r slot).countTrigger).tryCheckpoint

/-- The slot of a signed checkpoint that comes next is sealed: header, then continuations 1 to 3 (03 R121). -/
def sealCheckpoint (a : Anchor) (sig : Bytes) (c : Chip) : Chip :=
  if c.acc.ckPos = 0 then
    c.sealTake (c.mkRecord 7 0 (sub32 c.acc.nextSeq a.seq % 16777216)) false fun x => { x with ckPos := 1 }
  else c.sealTake (contRecord sig c.acc.ckPos) true fun x =>
    if x.ckPos = 3 then { x with ckPos := 0, ckReady := none, checkpoints := x.checkpoints + 1 }
    else { x with ckPos := x.ckPos + 1 }

/-- A record of a kind is admitted (03 R134, R135). -/
def admits (kind : Nat) (c : Chip) : Bool :=
  if kind = 0 ∨ kind = 15 then 64 < c.laneFree && !c.acc.losing else 1 ≤ c.laneFree

/-- The record at the queue's head is admitted, or lost. -/
def sealHead (c : Chip) : Chip :=
  match c.acc.queue with
  | [] => c.countTrigger.tryCheckpoint
  | a :: rest =>
    if c.admits a.rcd.kind then c.sealTake a.rcd false fun p => { p with queue := rest }
    else (c.modAcc fun p => Acc.lose a.rcd { p with queue := rest }).endLosing

/-- The epoch start record waits at the queue's head: it takes slot 0 of its block (03 R116). -/
def epochWaits (c : Chip) : Bool := match c.acc.queue with | a :: _ => a.rcd.kind = 6 | [] => false

/-- The seal lane's next record: a block header (03 R126), the next slot of a checkpoint under way (R121), an overflow record
(R136), a signed checkpoint that fits (R127), or the record at the queue's head (R134, R135). -/
def sealNext (c : Chip) : Chip :=
  if !c.acc.en then c
  else
    let c := c.endLosing
    if c.epochWaits then c.sealHead
    else if c.acc.jSlot = 0 then
      if 1 ≤ c.laneFree then c.sealTake (c.mkRecord 0xD c.acc.jBlock (c.acc.epoch % 16777216)) false id else c.sealHead
    else match c.acc.ckReady, c.acc.losing, c.acc.lost with
    | some (a, sig), losing, lost =>
      if c.acc.ckPos ≠ 0 ∨ (c.ckFits ∧ (losing ∨ lost.isNone)) then c.sealCheckpoint a sig
      else match losing, lost with
        | false, some l => c.sealTake (overflowRecord l) false fun p => { p with lost := none, overflows := p.overflows + 1 }
        | _, _ => c.sealHead
    | none, false, some l => c.sealTake (overflowRecord l) false fun p => { p with lost := none, overflows := p.overflows + 1 }
    | none, _, _ => c.sealHead

/-! ## Firmware posts (03 R138, R139, R150) -/

/-- Byte 3 of ACC_POSTDAT was written: the committed value, and the post or its refusal. -/
def firmwarePost (value : Nat) (c : Chip) : Chip :=
  let c := c.modAcc fun a => { a with postDat := BitVec.ofNat 32 (value % 16777216) }
  if c.clk.raw < c.acc.postUntil then c.modAcc fun a => { a with postRef := true }
  else
    (c.modAcc fun a => { a with postUntil := c.clk.raw + 400 }).arise clsPost 15 (c.acc.postSrc.toNat % 4096) (value % 16777216)

/-! ## The journal as it is read -/

/-- Byte offset of journal position `pos` in the main array. -/
def jOff (pos : Nat) : Nat := blockBytes * journalBlock (pos / 256) + 32 * (pos % 256)

/-- The record of a journal slot that is not empty and decodes. -/
def journalSlot (c : Chip) (pos : Nat) : Option Bytes :=
  let e := c.flashBytes (jOff pos) 32
  if allOnes e || c.flashBad (jOff pos) 32 then none else some e

/-- Journal blocks that hold a header: block and its number. Blocks whose pre-erase has begun hold nothing (05 R224). -/
def journalHeads (c : Chip) : List (Nat × Nat) :=
  (List.range 512).filterMap fun b =>
    if c.retired (journalBlock b) || c.blockBlank (journalBlock b) || c.preEraseBegun = some b then none
    else match c.journalSlot (256 * b) with
      | some e => some (b, leAt e 12 4)
      | none => none

/-- The write block and s_last at start (05 R227): block, number. -/
def journalScan (c : Chip) : Option (Nat × Nat) :=
  match c.journalHeads.foldl (fun x y => match x with | none => some y | some z => if seqLt z.2 y.2 then some y else some z) none with
  | none => none
  | some (b, h) =>
    match (List.range 256).reverse.find? (fun k => (c.journalSlot (256 * b + k)).isSome) with
    | some k => some (b, (h + k) % 4294967296)
    | none => some (b, h)

/-- What the scan reads: the first slot of each block, and the block it finds. -/
def touchJournal (scan : Option (Nat × Nat)) (c : Chip) : Chip :=
  let d := (List.range 512).foldl (fun (d : Chip) b =>
    if c.retired (journalBlock b) || c.blockBlank (journalBlock b) then d else d.touchFlash (jOff (256 * b)) 32) c
  match scan with
  | some (b, _) => d.touchFlash (jOff (256 * b)) blockBytes
  | none => d

/-- The highest stamp of the stamped records of a block, in ns (02 R47). -/
def blockStamp (c : Chip) (b : Nat) : Nat :=
  (List.range 256).foldl (fun m k => match c.journalSlot (256 * b + k) with
    | some e => if leAt e 16 2 / 4096 = 14 then m else max m (stampNs (BitVec.ofNat 64 (leAt e 0 8)))
    | none => m) 0

/-- Pre-erased blocks after a write block, up to the target (05 R228). -/
def countAhead (c : Chip) (b : Nat) : Nat → Nat
  | 0 => 0
  | n + 1 =>
    let k := c.nextJournal b
    if c.blockBlank (journalBlock k) then 1 + c.countAhead k n else 0

/-- A journal record by its number. -/
def journalFind (c : Chip) (s : Nat) : Option Bytes :=
  c.journalHeads.findSome? fun (b, h) =>
    let k := sub32 s h
    if k < 256 then c.journalSlot (256 * b + k) else none

/-- Ring records from the newest journal record on, or anywhere the ring holds them. -/
def heldRecord (c : Chip) (s : Nat) : Option Bytes :=
  match c.shelved s with
  | some r => some r.rcd.bytes
  | none => c.journalFind s

/-- Lowest held number above `s` by serial comparison (08 R372); the next number when none is. -/
def heldAbove (c : Chip) (s : Nat) : Nat :=
  let js := c.journalHeads.filterMap fun (b, h) =>
    if seqLt s h then some h
    else
      let k := sub32 s h + 1
      if k < 256 then ((List.range (256 - k)).map (· + k)).findSome? fun i =>
        if (c.journalSlot (256 * b + i)).isSome then some ((h + i) % 4294967296) else none
      else none
  let lo := c.accOldest
  let ring := if seqLt s lo then [lo] else if seqLt ((s + 1) % 4294967296) c.acc.nextSeq then [(s + 1) % 4294967296] else []
  (js ++ ring).foldl (fun x y => if sub32 y s < sub32 x s then y else x) c.acc.nextSeq

/-- Oldest number in the journal: that of the first block after the write block that holds records. -/
def journalOldest (c : Chip) : Nat :=
  let hs := c.journalHeads
  match (List.range 512).findSome? (fun i => assoc ((c.acc.jBlock + 1 + i) % 512) hs) with
  | some n => n
  | none => 0

/-- Newest number programmed. -/
def journalNewest (c : Chip) : Nat := c.cns.jNewest.getD 0

/-! ## Epoch start (03 R116 to R118, R744; 02 R47) -/

/-- The clock is seeded, the ring filled and the pipeline enabled; the epoch start record enters the seal lane first, then
the records held during the start in the order in which they arose, stamped now. -/
def epochStart (scan : Option (Nat × Nat)) (c : Chip) : Chip :=
  let seed : Nat := match scan with | some (b, _) => c.blockStamp b + 1000000000 | none => 0
  let c := c.modTime fun t => t.setTotal (((seed / 1000000000 : Nat) : Int) * secTicks + (((seed % 1000000000 * 2 + 4) / 5 : Nat) : Int))
  let b := match scan with | some (b, _) => c.nextJournal b | none => c.nextJournal 511
  let s := match scan with | some (_, n) => (n + 4097) % 4294967296 | none => 0
  let blank := c.blockBlank (journalBlock b)
  let n := match scan with | some (b0, _) => c.countAhead b0 (c.cfg 0x5000 2) - 1 | none => c.countAhead b (c.cfg 0x5000 2)
  let lap : Bool := match scan with | some (b0, _) => b ≤ b0 | none => false
  let bis : Vector Bi 24 := Vector.ofFn fun n => { qual := c.biOn n.val && c.biRaw n.val }
  let c := c.modAcc fun a => { a with bis := bis }
  let enter (r : Record) : Arisen := { rcd := r, tick := c.clk.raw, cls := 0, t0 := 0 }
  let start := enter (c.mkRecord 6 (c.acc.epoch / 16777216) (c.acc.epoch % 16777216))
  let held := c.acc.held.map fun a => enter { a.rcd with
    stamp := c.stamp, angle := c.angle, cycle := c.phase.cycle, quality := c.quality, snap := c.levels }
  let c := c.modAcc fun a => { a with
    en := true, queue := start :: held, held := [], nextSeq := s, baseSeq := s, baseSlot := 256 * b % 4096, drainSeq := s, prevTag := 0
    jBlock := b, jSlot := 0, ring := [], losing := false, lost := none, lostCount := 0
    overflows := 0, checkpoints := 0, anchorTick := c.clk.raw, ckDue := false, ckSign := none, ckReady := none, ckPos := 0
    lastAnchor := s, newest := none, hostMark := s }
  let c := c.modCns fun k => { k with
    ahead := n, jNewest := scan.map (·.2), pageDue := false
    queue := if blank then k.queue else k.queue ++ [.preErase b] }
  let c := if lap then (c.setNum 0x3300 6 (c.cfg 0x3300 6 + 1)).modCat fun t => { t with dirtyFast := true, dirtySlow := true } else c
  c.queuePreErase

end Chip

end Sys2Proof.Machine
end

