-- ==== Sys2Proof/Machine/ConsOps.lean ====
section
/-! DEFINITION. The Conservator at work (05): window commands, the start and end of operations, suspension, the
power-fail flush and the conservation pass. -/

namespace Sys2Proof.Machine

open Sys2Proof

/-! ## Window commands (05 R244 to R246, R754) -/

/-- Offset in the main array of an address in it. -/
def mainOff (a : Nat) : Option Nat := if 0x20000000 ≤ a ∧ a < 0x20800000 then some (a - 0x20000000) else none

/-- Aligned as 05 Table 05-12 asks and inside the array. -/
def winAligned (code a : Nat) : Bool :=
  match mainOff a, Chip.infoPage a with
  | some o, _ => if code = 1 then o % 512 = 0 else o % blockBytes = 0
  | none, some _ => a % 512 = 0
  | none, none => false

/-- The partition or page is granted to the window (05 R195, R246). -/
def winGranted (w : CoreId) (a : Nat) : Bool :=
  match Chip.infoPage a with
  | some p => w = .registrar && 16 ≤ p
  | none =>
    let b := (a - 0x20000000) / blockBytes
    936 ≤ b || (w = .registrar && (b < 320 || (832 ≤ b && b < 896)))

/-- A window program that meets a word not empty is refused there (05 R207); elsewhere R749 applies. -/
def blankOnly (a : Nat) : Bool :=
  match mainOff a with
  | some o => o / blockBytes < 320 || 936 ≤ o / blockBytes
  | none => true

namespace Chip

/-- The window command that waits in the queue. -/
def winQueued (w : CoreId) (c : Chip) : Option FlashOp := c.cns.queue.find? fun o => opWindow o = some w && opBase o == o

/-- A command of a window that waits is taken from it, with a result; one of the Registrar's own is repeated. -/
def winRefuse (w : CoreId) (res : Nat) (c : Chip) : Chip :=
  match c.winQueued w with
  | some o => (c.modCns fun k => { k with
      queue := k.queue.erase o, rjobs := if ownJob o then o :: k.rjobs else k.rjobs }).winDone w res
  | none => c

/-- A code written to a window's command register by an initiator. -/
def windowCommand (i : Init) (w : CoreId) (code : Nat) (c : Chip) : Chip :=
  let x := c.win w
  if !owns i w then c
  else if code = 0x0F then
    c.winRefuse w 6
  else if 1 ≤ x.res.toNat ∧ x.res.toNat ≤ 3 then c
  else if c.clk.pfw then c.winDone w 0x12
  else if code ≠ 1 ∧ code ≠ 2 then c.winDone w 0x15
  else if !winAligned code x.addr.toNat then c.winDone w 0x13
  else if !winGranted w x.addr.toNat then c.winDone w 0x10
  else
    let op : FlashOp := if code = 1 then .winProgram w x.addr.toNat (x.buf.read 0 0 512) else .winErase w x.addr.toNat
    (c.modWin w fun x => { x with res := 1 }).modCns fun k => { k with queue := k.queue ++ [op] }

/-- The Registrar gives its next own command to its window once that is free. -/
def issueJob (c : Chip) : Chip :=
  match c.cns.rjobs with
  | j :: rest =>
    if c.clk.pfw ∨ (1 ≤ c.cns.rwin.res.toNat ∧ c.cns.rwin.res.toNat ≤ 3) then c
    else c.modCns fun k => { k with rjobs := rest, queue := k.queue ++ [j], rwin := { k.rwin with res := 1 } }
  | [] => c

/-! ## Words of the information area (05 R196 to R198, 12 R516 to R519) -/

/-- Area 0: start-attempt words, pages 16–23; area 1: epoch words, pages 24–31. -/
def areaOff (area i : Nat) : Nat := 0x2000 + 0x1000 * area + 8 * i

def areaWord (c : Chip) (area i : Nat) : Bytes := c.mem.info.read 0xFF (areaOff area i) 8

/-- The valid word with the largest value: index and value. -/
def areaBest (c : Chip) (area : Nat) : Option (Nat × Nat) :=
  (List.range 512).foldl (fun m i =>
    let b := c.areaWord area i
    if !wordValid b then m
    else match m with
    | none => some (i, leAt b 0 4)
    | some x => if x.2 < leAt b 0 4 then some (i, leAt b 0 4) else m) none

/-- Where the next word of an area goes, from word `i` on: a page to erase first, or the first empty word (05 R197). A word that reads
empty and is not, at the erase-verify margin, is passed over unless `weak`. -/
def wordSeek (c : Chip) (area : Nat) (weak : Bool) : Nat → Nat → Option (Nat ⊕ Nat)
  | 0, _ => none
  | n + 1, i =>
    let i := i % 512
    let page := 16 + 8 * area + i / 64
    if c.cns.noEmpty.contains page then wordSeek c area weak n (i + 1)
    else if i % 64 = 0 ∧ !c.infoBlank page then some (.inl page)
    else if allOnes (c.areaWord area i) && (weak || !c.mem.infoWeak.contains (areaOff area i / 8)) then some (.inr i)
    else wordSeek c area weak n (i + 1)

/-- The word after the one in force. -/
def wordAfter (c : Chip) (area : Nat) : Nat := match c.areaBest area with | some (i, _) => i + 1 | none => 0

/-- A word: value and complement (05 R196). -/
def wordBytes (v : Nat) : Bytes := leBytes 4 v ++ (leBytes 4 v).map (~~~ ·)

/-- A value put into the next word of an area, its page erased as it is reached; the first `faults` programs do not verify, and the next
word is taken (05 R197, R198). -/
def putWordFrom (area v : Nat) : Nat → Nat → Nat → Chip → Chip
  | 0, _, _, c => c
  | n + 1, faults, i, c =>
    match c.wordSeek area false 513 i with
    | none => c
    | some (.inl page) => putWordFrom area v n faults i (c.eraseInfo page)
    | some (.inr k) =>
      if faults = 0 then c.putInfo (areaOff area k) (wordBytes v)
      else putWordFrom area v n (faults - 1) (k + 1) ((c.infoProgram (areaOff area k) (wordBytes v) [0]).modCns fun q =>
        { q with progFails := q.progFails + 1 })

def putWord (area v faults : Nat) (c : Chip) : Chip := putWordFrom area v (faults + 16) faults (c.wordAfter area) c

/-- A start-attempt word has verified: it is in force, and what waited for it goes on (12 R518, R519). -/
def wordInForce (v : Nat) (after : Option Ask) (c : Chip) : Chip :=
  let c := c.modStart fun s => { s with word := v, exh := v / 8192 % 524288 = 0x7FFFF, wordsHeld := s.wordsHeld.erase v }
  match after with
  | some a => c.ask a
  | none => c

/-! ## The placard in force -/

/-- The placard in force (10 R461): page, generation, bytes. -/
def bestPlacard (c : Chip) : Option (Nat × Nat × Bytes) :=
  ((List.range 32).filterMap fun p =>
    let off := blockBytes * 894 + 512 * p
    let b := c.flashBytes off 256
    if c.flashBad off 256 ∨ b.take 4 ≠ ([0x56, 0x51, 0x50, 0x4C] : Bytes) ∨ crc32 (b.take 252) ≠ leAt b 252 4 then none
    else some (p, leAt b 4 4, b)).foldl
    (fun m x => match m with
      | none => some x
      | some y => if y.2.1 < x.2.1 then some x else some y) none

/-- The placard in force after a change of its blocks (10 R461). -/
def placardSeen (c : Chip) : Chip := c.modTag fun t => { t with placard := c.bestPlacard }

/-! ## What the end of an operation brings -/

/-- Added to the count of an image erase whose transfer was aborted while it ran. -/
def orphanErase : Nat := 1000

/-- The image slot's next block, or the slot is ready for data (11 Table 11-5). -/
def imageErased (b left : Nat) (ok : Bool) (c : Chip) : Chip :=
  if orphanErase ≤ left then c
  else if !ok then c.modRgr fun r => { r with imgStatus := 0x19 }
  else if left = 0 then c.modRgr fun r => { r with imgStatus := 2, imgTick := c.clk.raw }
  else c.addJob (.imageErase (b + 1) (left - 1))

/-- The records of a journal program are in the journal, or lost: the drain goes on after them. -/
def drained (first count : Nat) (kept : Bool) (c : Chip) : Chip :=
  let next := (first + count) % 4294967296
  let last := (first + count - 1) % 4294967296
  ((c.modAcc fun a => { a with drainSeq := if seqLt a.drainSeq next then next else a.drainSeq }).modCns fun k =>
    { k with jNewest := if kept && (match k.jNewest with | some j => seqLt j last | none => true) then some last else k.jNewest }).endLosing

/-- An operation ends with a result: 4 done, 5 done after a remap, 0x11 target not blank, 0x14 block retired. Its window shows it. -/
def opEnd (o : FlashOp) (res : Nat) (c : Chip) : Chip :=
  let ok : Bool := res = 4 || res = 5
  let c := match opWindow o with | some w => c.winDone w res | none => c
  match o with
  | .winProgram .. | .winErase .. | .placardErase _ | .placardPage .. =>
    match c.opBlock o with | some b => if b = 894 ∨ b = 895 then c.placardSeen else c | none => c
  | .journalPage _ _ f n _ => c.drained f n ok
  | .preErase b => (c.when (ok && b != c.acc.jBlock) (modCns fun k => { k with ahead := k.ahead + 1 })).queuePreErase
  | .catErase _ => c.modCat fun t => { t with nextErased := true }
  | .catImage => c.modCns fun k => { k with queue := .catRead :: k.queue }
  | .vaultWrite =>
    match c.vlt.writes with
    | w :: rest =>
      let e := c.wkEntry w
      let c := (c.modVlt fun v => { v with writes := rest }).wkEnd w ok
      if ok then c.modCns fun k => { k with queue := .vaultEntry 1 e :: k.queue } else c
    | [] => c
  | .vaultEntry _ e => c.wkCompact e
  | .ledgerPage _ recs => c.ledgerProgrammed recs ok
  | .imageErase b left => c.imageErased b left ok
  | .imagePage .. => if ok then c else c.modRgr fun r => { r with imgStatus := 0x19 }
  | _ => c

/-! ## Starting an operation (05 R207, R216, R222, R754) -/

/-- The program that an operation makes of a page of the main array: block, page and buffer. -/
def programTarget (c : Chip) : FlashOp → Option (Nat × Nat × Bytes)
  | .winProgram _ a d => (mainOff a).map fun o => (o / blockBytes, o % blockBytes / 512, d)
  | .journalPage b p f n _ => some (journalBlock b, p, c.journalData f n)
  | .vaultWrite => match c.vlt.writes with
    | w :: _ => c.wkTarget 0 (c.wkEntry w)
    | [] => none
  | .vaultEntry copy e => c.wkTarget copy e
  | .imagePage off d => some (pageBuffer off d)
  | .ledgerPage pos recs => some (pageBuffer (ledOff pos) recs.flatten)
  | .placardPage p d => some (894 + p / 16, p % 16, padTo 0xFF 512 d)
  | _ => none

/-- The program that an operation makes of the information area: offset and bytes. -/
def infoTarget (c : Chip) : FlashOp → Option (Nat × Bytes)
  | .winProgram _ a d => (infoPage a).map fun _ => (a - 0x21000000, d)
  | .startWord v s _ => match c.wordSeek 0 true 513 (s.getD (c.wordAfter 0)) with
    | some (.inr i) => some (areaOff 0 i, wordBytes v)
    | _ => none
  | .grown copy e _ _ => (c.grownFree copy).map fun i => (4096 * copy + 8 * i, e)
  | _ => none

/-- Target words of a program that are not empty. -/
def notBlank (c : Chip) (b page : Nat) (d : Bytes) : List Nat :=
  ((pageWords d).map (·.1)).filter fun i => !c.wordEmpty (c.physOf b * 1024 + 64 * page + i)

/-- A program of the information area meets a word that is not empty. -/
def infoNotBlank (c : Chip) (off : Nat) (d : Bytes) : Bool :=
  (blockWords 0 d).any fun w => !allOnes (c.mem.info.read 0xFF (off + 8 * w.1) 8) || c.mem.infoWeak.contains (off / 8 + w.1)

/-- The array takes an operation. -/
def beginOp (o : FlashOp) (guarded : Bool) (c : Chip) : Chip :=
  let nested := c.cns.susp.isSome
  let c := c.modCns fun k => { k with
    run := some { op := o, guarded, nested }
    susps := if opPrograms o then k.susps else 0
    yield := if opPrograms o then k.yield else c.cfg 0x5000 1 = 1
    guardedCount := if guarded then k.guardedCount + 1 else k.guardedCount }
  match opWindow o with
  | some w => c.modWin w fun x => { x with res := 2 }
  | none => c

/-- An operation goes back to the front of the order. -/
def queueFirst (o : FlashOp) (c : Chip) : Chip := c.modCns fun k => { k with queue := o :: k.queue }

/-- A remap comes to its turn (05 R211 to R213): the pool's lowest block, erased first where it is not; for a program, the copy; the
entries. -/
def remapStart (o : FlashOp) (reason b : Nat) (c : Chip) : Chip :=
  match c.freePool.head? with
  | none => c.addGrown [(b, reason, retiredMark)] o 0x14
  | some p =>
    if !c.poolReady p then
      (c.modCns fun k => { k with
        queue := k.queue.filter (· != .poolErase p), susp := if k.susp = some (.poolErase p) then none else k.susp }).beginOp
          (.remapErase o p) true
    else if reason = 1 then c.beginOp (.remapCopy o p) false
    else c.addGrown [(b, 2, p), (b, 7, c.physOf b)] o 5

/-- A refresh comes to its turn: with fewer than two pool blocks there is none (05 R236). -/
def refreshStart (b : Nat) (c : Chip) : Chip :=
  if c.pool.length < 2 ∨ c.retired b then c
  else match c.freePool.find? c.poolReady with
  | some p => c.beginOp (.refreshCopy b p) false
  | none => c

/-- The entry of a table write stands in its copy; the last one ends what it serves. -/
def grownEnd (e : Bytes) (copy : Nat) (of : FlashOp) (res : Nat) (c : Chip) : Chip :=
  let c := if c.cns.genUsed < grownGen e then (c.applyGrown e).modCns fun k => { k with genUsed := grownGen e } else c
  let c := if copy = 1 then c.compactGrown e else c
  if of = .nothing then c else c.opEnd (opBase of) res

/-- A copy has no empty entry: the write is passed over; an entry that neither copy takes maps nothing. -/
def grownSkip (e : Bytes) (of : FlashOp) (res : Nat) (c : Chip) : Chip :=
  if of = .nothing then c else c.opEnd (opBase of) (if c.cns.genUsed < grownGen e then 0x14 else res)

/-- A start-attempt word comes to its turn (12 R518, 05 R197, R749). -/
def wordStart (v : Nat) (start : Option Nat) (after : Option Ask) (c : Chip) : Chip :=
  let o : FlashOp := .startWord v start after
  match c.wordSeek 0 true 513 (start.getD (c.wordAfter 0)) with
  | some (.inl page) => c.beginOp (.startErase page o) false
  | some (.inr i) =>
    if c.mem.infoWeak.contains (areaOff 0 i / 8) then
      (c.winDone .registrar 0x11).modCns fun k => { k with rjobs := .startWord v (some (i + 1)) after :: k.rjobs }
    else c.beginOp o false
  | none =>
    let c := (c.winDone .registrar 0x11).modStart fun s => { s with wordsHeld := s.wordsHeld.erase v }
    match after with
    | some a => c.ask a
    | none => c

/-- The first byte of ring SRAM that the Conservator DMA may not read of the records of a drain (01 R740; 16 Table 16-6). -/
def drainRefused (c : Chip) (first count : Nat) : Option Nat :=
  ((c.firstRefused 4 .read false ((List.range count).flatMap fun i =>
    let a := 0x11000000 + 32 * c.ringSlot ((first + i) % 4294967296)
    (List.range 32).map (a + ·))).map (·.1))

/-- The next operation of 05 Table 05-5 starts, or is judged and refused. -/
def flashStart (c : Chip) : Chip :=
  if c.cns.run.isSome then c
  else
    let c := c.issueJob
    match c.nextOp with
    | none => c
    | some o =>
      let c := c.modCns fun k => { k with queue := k.queue.erase o }
      let gone : Bool := match c.opBlock o with | some b => c.retired b && o != .catRead | none => false
      let clash : Bool := match c.programTarget o with | some (b, p, d) => c.notBlank b p d != [] | none => false
      if gone then c.opEnd o 0x14
      else match o with
      | .winProgram w a d =>
        let info : Bool := match infoPage a with | some _ => c.infoNotBlank (a - 0x21000000) d | none => false
        if (blankOnly a && clash) || info then c.winDone w 0x11 else c.beginOp o false
      | .imagePage .. => if clash then c.opEnd o 0x11 else c.beginOp o false
      | .journalPage _ _ f n _ =>
        match c.drainRefused f n with
        | some a => c.refuseTransfer 4 a
        | none => (c.modCns fun k => { k with pageDue := false }).beginOp o false
      | .preErase _ => c.beginOp o (c.cns.ahead = 0)
      | .vaultWrite =>
        let c := c.keyLane
        if (c.programTarget o).isSome then c.beginOp o false else c.opEnd o 0x14
      | .vaultEntry .. => if (c.programTarget o).isSome then c.beginOp o false else c
      | .poolErase p => if c.pool.contains p then c.beginOp o false else c
      | .remap _ reason b _ _ => c.remapStart o reason b
      | .refresh b => c.refreshStart b
      | .grown copy e of res => if (c.grownFree copy).isSome then c.beginOp o false else c.grownSkip e of res
      | .startWord v s after => c.wordStart v s after
      | .nothing => c
      | o => c.beginOp o false

/-! ## A program ends (05 R208, R211, R231, R749) -/

/-- Words that a program cut by the loss of supply was writing: each as before, programmed, or damaged. -/
def tearWords (off : Nat) (d : Bytes) (c : Chip) : Chip :=
  let b := off / blockBytes
  if c.retired b then c
  else
    let base := blockBytes * c.physOf b + off % blockBytes
    ((List.range (d.length / 8)).foldl (fun c i =>
      let v := slice d (8 * i) 8
      if allOnes v then c
      else match Config.cutKind c.clk.free (base / 8 + i) with
      | 0 | 2 => c
      | 1 => c.modMem fun m => { m with flash := m.flash.write 0xFF (base + 8 * i) v }
      | 3 => c.modMem fun m => { m with ecc := assocPut (base / 8 + i) (some .uncorrectable) m.ecc }) c).spend

/-- A program that failed leaves its verified words programmed, and the others as the cells happen to stand. -/
def halfProgram (b page : Nat) (d : Bytes) (unverified : List Nat) (c : Chip) : Chip :=
  let kept := (List.range 64).flatMap fun i => if unverified.contains i then slice d (8 * i) 8 else List.replicate 8 0xFF
  (c.putWords (c.physOf b) page ((pageWords d).filter fun w => !unverified.contains w.1)).tearWords (blockBytes * b + 512 * page) kept

/-- A program fails: the block is remapped in its turn; a flush makes no remap (05 R211, R231, R749). -/
def programFails (o : FlashOp) (b page : Nat) (d : Bytes) (unverified : List Nat) (c : Chip) : Chip :=
  let c := c.modCns fun k => { k with progFails := k.progFails + 1 }
  let c := if c.notBlank b page d = [] then c.halfProgram b page d unverified else c
  let flush : Bool := match o with | .journalPage .. => c.clk.pfw | _ => false
  if flush then c.opEnd o 0x14 else c.modCns fun k => { k with queue := k.queue ++ [.remap o 1 b (512 * page) d] }

/-- A page program of the main array ends. -/
def pageEnds (o : FlashOp) (b page : Nat) (d : Bytes) (unverified : List Nat) (c : Chip) : Chip :=
  let c := c.endRun
  if c.retired b then c.opEnd o 0x14
  else if (pageWords d).any (fun x => unverified.contains x.1) || c.notBlank b page d != [] then c.programFails o b page d unverified
  else (c.putPage b page d).opEnd o 4

/-- A program of the information area ends. Its failure is counted; a window shows 4, the Plinth and the grown table take the next empty
word. -/
def infoEnds (o : FlashOp) (off : Nat) (d : Bytes) (unverified : List Nat) (c : Chip) : Chip :=
  let bad : Bool := (blockWords 0 d).any fun x => unverified.contains x.1
  let c := (c.endRun.infoProgram off d unverified).when bad (modCns fun k => { k with progFails := k.progFails + 1 })
  match o with
  | .startWord v _ after =>
    let c := c.winDone .registrar 4
    if bad then c.modCns fun k => { k with rjobs := .startWord v none after :: k.rjobs } else c.wordInForce v after
  | .grown copy e of res => if bad then c.queueFirst o else c.grownEnd e copy of res
  | o => c.opEnd o 4

/-- A remap's copy ends (05 R211): every programmed word, then the words of the failed program; the entries follow. A copy that fails
marks its block bad, and the next pool block is taken. -/
def remapCopied (o : FlashOp) (p : Nat) (failed : Bool) (c : Chip) : Chip :=
  match o with
  | .remap _ _ b off d =>
    if failed then ((c.modCns fun k => { k with progFails := k.progFails + 1 }).markBad p).queueFirst o
    else
      let old := c.physOf b
      (((c.touchFlash (blockBytes * b) blockBytes).copyBlock old p).putWords p 0 (blockWords off d)).addGrown [(b, 1, p), (b, 7, old)] o 5
  | _ => c

/-- A refresh's copy ends (05 R236). -/
def refreshCopied (b p : Nat) (failed : Bool) (c : Chip) : Chip :=
  if failed then
    ((c.modCns fun k => { k with progFails := k.progFails + 1 }).markBad p).modCns fun k => { k with queue := k.queue ++ [.refresh b] }
  else (c.copyBlock (c.physOf b) p).addGrown [(b, 3, p)] (.refreshCopy b p) 4

/-- The running page program ends; `unverified` are the words of the page that eight steps left unverified. The program of a store image
takes several pages, and that of a wrapped-key entry ends by its own event. -/
def programDone (unverified : List Nat) (c : Chip) : Chip :=
  match c.cns.run with
  | none => c
  | some r =>
    match r.op with
    | .vaultWrite | .catRead => c
    | .catImage =>
      match c.cat.job with
      | none => c.endRun
      | some j =>
        if unverified = [] then c
        else
          let c := (c.endRun).tearWords (blockBytes * (896 + c.nextSlot)) j.image
          c.modCns fun k => { k with progFails := k.progFails + 1, queue := k.queue ++ [.remap .catImage 1 (896 + c.nextSlot) 0 j.image] }
    | .remapCopy o p => c.endRun.remapCopied o p (unverified != [])
    | .refreshCopy b p => c.endRun.refreshCopied b p (unverified != [])
    | o =>
      match c.infoTarget o, c.programTarget o with
      | some (off, d), _ => c.infoEnds o off d unverified
      | none, some (b, page, d) => c.pageEnds o b page d unverified
      | none, none => if opPrograms o then c.endRun else c

/-- The running program of a wrapped-key entry into copy A ends (06 R264). -/
def wkDone (ok : Bool) (c : Chip) : Chip :=
  match (match c.cns.run with | some r => r.op == .vaultWrite | none => false), c.programTarget .vaultWrite with
  | true, some (b, page, d) => c.pageEnds .vaultWrite b page d (if ok then [] else List.range 64)
  | true, none => c.endRun
  | false, _ => c

/-! ## An erase ends (05 R209, R212, R224, R750) -/

/-- The physical block an erase acts on. -/
def erasesPhys (c : Chip) (o : FlashOp) : Nat :=
  match o with
  | .poolErase p | .remapErase _ p => p
  | o => match c.opBlock o with | some b => c.physOf b | none => retiredMark

/-- The running block erase ends: verified, or still unverified after 12 steps. -/
def eraseDone (ok : Bool) (c : Chip) : Chip :=
  match c.cns.run with
  | none => c
  | some r =>
    if opPrograms r.op ∨ opInfoErase r.op then c
    else
      let p := c.erasesPhys r.op
      let c := c.endRun
      let c := if ok then c.erasePhys p else c.modCns fun k => { k with eraseFails := k.eraseFails + 1 }
      match r.op with
      | .remapErase o _ => (if ok then c else c.markBad p).queueFirst o
      | .poolErase _ => if ok then c else c.markBad p
      | o =>
        if ok then c.opEnd o 4
        else match c.opBlock o with
        | some b => c.modCns fun k => { k with queue := k.queue ++ [.remap o 2 b 0 []] }
        | none => c

/-- The running erase of an information page ends; a page still unverified holds no empty word (05 R750). -/
def infoEraseDone (ok : Bool) (c : Chip) : Chip :=
  match c.cns.run with
  | none => c
  | some r =>
    match infoErases r.op with
    | none => c
    | some p =>
      let c := c.endRun
      let c := if ok then (c.eraseInfo p).modCns fun k => { k with noEmpty := k.noEmpty.filter (· != p) }
        else (c.modCns fun k => { k with eraseFails := k.eraseFails + 1, noEmpty := p :: k.noEmpty }).healthEvent 7 2 0
      match r.op with
      | .startErase _ o => (c.winDone .registrar 4).modCns fun k => { k with rjobs := o :: k.rjobs }
      | o => c.opEnd o 4

/-- The suspended erase resumes 2 µs after the last read, with no nested program running (05 R219). -/
def eraseResume (c : Chip) : Chip :=
  match c.cns.susp, c.cns.run with
  | some o, none =>
    if c.cns.lastRead + 800 ≤ c.clk.raw && !c.clk.pfw then
      let guarded : Bool := match o with | .preErase _ => c.cns.ahead = 0 | _ => false
      let c := c.modCns fun k => { k with susp := none, run := some { op := o, guarded, nested := false } }
      match opWindow o with
      | some w => c.modWin w fun x => { x with res := 2 }
      | none => c
    else c
  | _, _ => c

/-- The oldest sealed record that no program, done or running, has taken. -/
def oldestWaiting (c : Chip) : Nat :=
  match c.cns.run with
  | some r => match r.op with
    | .journalPage _ _ f n _ => (f + n) % 4294967296
    | _ => c.journalNext
  | none => c.journalNext

/-- The oldest sealed record not yet programmed has waited 100 ms (05 R225). -/
def journalTimeout (c : Chip) : Chip :=
  match c.shelved c.oldestWaiting with
  | some s =>
    if c.oldestWaiting ≠ c.acc.nextSeq ∧ s.tick + ticksMs 100 ≤ c.clk.raw then c.modCns fun k => { k with pageDue := true } else c
  | none => c

/-! ## Power fail and resets (05 R229, R248, R751 to R753) -/

/-- An information page whose erase was cut: each word its old value, empty or another value (05 R753); one that reads empty is not so at
the erase-verify margin. -/
def cutInfo (p : Nat) (c : Chip) : Chip :=
  ((List.range 64).foldl (fun c i =>
    let off := 512 * p + 8 * i
    let w := 0x200000 + off / 8
    c.modMem fun m => match Config.cutKind c.clk.free w with
      | 0 => m
      | 1 => { m with info := m.info.write 0xFF off (leBytes 8 (Config.cutValue c.clk.free w).toNat) }
      | 2 => { m with
          info := m.info.clear off 8, infoWeak := if m.infoWeak.contains (off / 8) then m.infoWeak else off / 8 :: m.infoWeak }
      | 3 => { m with info := m.info.write 0xFF off (leBytes 8 (Config.badWord c.clk.free w).toNat) }) c).spend

/-- The contents after an erase that was cut off. -/
def cutErase (o : FlashOp) (c : Chip) : Chip :=
  match infoErases o with
  | some p => c.cutInfo p
  | none => (c.cutPhys (c.erasesPhys o)).spend

/-- An abandoned erase ends (05 R752): a window's with 0x12, an internal one is queued anew, one of the Registrar's own is repeated. -/
def abandonErase (o : FlashOp) (c : Chip) : Chip :=
  let c := c.cutErase o
  match opWindow o with
  | some w =>
    let c := c.winDone w 0x12
    if ownJob o then c.modCns fun k => { k with rjobs := (match o with | .startErase _ x => x | x => x) :: k.rjobs } else c
  | none => c.queueFirst o

/-- A suspended erase that is guarded: it is left to end (05 R222, R232). -/
def suspGuarded (c : Chip) : Bool := match c.cns.susp with | some (.preErase _) => c.cns.ahead = 0 | _ => false

/-- PFW_N asserts, for the Conservator. -/
def cnsPfw (c : Chip) : Chip :=
  let c := (c.winRefuse .curator 0x12).winRefuse .registrar 0x12
  let c := match c.cns.susp with
    | some o => if c.suspGuarded then c else (c.modCns fun k => { k with susp := none }).abandonErase o
    | none => c
  let c := match c.cns.run with
    | some r => if opPrograms r.op ∨ r.guarded then c else c.endRun.abandonErase r.op
    | none => c
  c.wkPfw

/-- A reset or the loss of supply ends what the array does; with `supply` a running program is torn. -/
def cnsCut (supply : Bool) (c : Chip) : Chip :=
  let c := match c.cns.susp with | some o => c.cutErase o | none => c
  match c.cns.run with
  | none => c
  | some r =>
    if !opPrograms r.op then c.cutErase r.op
    else if !supply then c
    else match r.op with
    | .remapCopy _ p | .refreshCopy _ p => (c.cutPhys p).spend
    | .catImage => match c.cat.job with
      | some j => c.tearWords (blockBytes * (896 + c.nextSlot)) j.image
      | none => c
    | o => match c.infoTarget o, c.programTarget o with
      | some (off, d), _ => c.infoProgram off d (List.range 64)
      | none, some (b, p, d) => c.tearWords (blockBytes * b + 512 * p) d
      | none, none => c

/-- A Curator reset, for the Curator's window (05 R248): a command that has started goes on to its end, its remap included. -/
def cnsCurReset (c : Chip) : Chip :=
  let c := match c.winQueued .curator with
    | some o => c.modCns fun k => { k with queue := k.queue.erase o }
    | none => c
  let live : Bool := ((c.cns.run.map (·.op)).toList ++ c.cns.susp.toList ++ c.cns.queue).any fun o => opWindow o = some .curator
  c.modCns fun k => { k with
    cwinOrphan := live, irq := 0, irqen := 0
    cwin := { k.cwin with addr := 0, res := if live then k.cwin.res else 0 } }

/-! ## The conservation pass (05 R234 to R239) -/

/-- A pass is due (05 R234). -/
def passIsDue (c : Chip) : Bool :=
  let last := c.cfg 0x5000 6
  let lastNs := stampNs (BitVec.ofNat 64 last)
  last = 0 || c.nowNs < lastNs || lastNs + c.cfg 0x5000 4 * 86400 * 1000000000 ≤ c.nowNs

def passDue (c : Chip) : Chip :=
  if !c.cns.pass && c.acc.en && c.passIsDue then c.modCns fun k => { k with pass := true, passPos := 0, passTick := c.clk.raw, passLater := [] }
  else c

/-- The journal write block, or a block with a command pending (05 R239). -/
def passBusy (c : Chip) (b : Nat) : Bool :=
  b = journalBlock c.acc.jBlock ||
  ((c.cns.run.map (·.op)).toList ++ c.cns.susp.toList ++ c.cns.queue ++ c.cns.rjobs).any
    (fun o => c.opBlock o = some b || opHolds o = some b) ||
  (match c.journalDue with | some (j, _) => journalBlock j = b | none => false)

/-- One visit: both reads of each programmed word; `weak` words fail the margin read (05 R235 to R237). A block that needs it is to be
refreshed. -/
def passVisit (b : Nat) (weak : List Nat) (c : Chip) : Chip :=
  if c.retired b then c
  else
    let need : Bool := weak != [] || (c.markedWords (blockBytes * b) blockBytes).any fun w => (c.flashWord w).ecc.isSome
    let c := (c.readRequest (some b)).touchFlash (blockBytes * b) blockBytes
    c.modCns fun k => { k with
      sched := k.sched.filter (· != b)
      queue := if need && !k.queue.contains (.refresh b) then k.queue ++ [.refresh b] else k.queue }

/-- The pass visits the next block of its interval, or ends. Its reads wait for the array like any other. -/
def passInterval (weak : List Nat) (c : Chip) : Chip :=
  if !c.cns.pass ∨ c.clk.raw < c.cns.passTick + ticksMs (c.cfg 0x5000 5) then c
  else
    let d := c.modCns fun k => { k with passTick := c.clk.raw }
    match c.cns.sched.find? (fun b => !c.passBusy b && !c.retired b) with
    | some b => if c.readWaits (some b) then c else d.passVisit b weak
    | none =>
      if c.cns.passPos < 1024 then
        let b := c.cns.passPos
        let e := d.modCns fun k => { k with passPos := b + 1 }
        if c.passBusy b then e.modCns fun k => { k with passLater := k.passLater ++ [b] }
        else if c.readWaits (some b) then c
        else e.passVisit b weak
      else match c.cns.passLater with
      | b :: r =>
        if (c.passBusy b && b != journalBlock c.acc.jBlock) || c.readWaits (some b) then c
        else (d.modCns fun k => { k with passLater := r }).passVisit b weak
      | [] =>
        let c := d.modCns fun k => { k with pass := false, passPos := 0xFFFF, irq := k.irq ||| 16 }
        (c.setVal 0x5000 6 (leBytes 8 c.stamp.toNat)).modCat fun t => { t with dirtyFast := true }

/-- Object 0x5000.11 (05 R240). -/
def recordsLeft (c : Chip) : Nat := (100000 - c.cfg 0x3300 6) * 512 * 255

end Chip

end Sys2Proof.Machine
end

