-- ==== Sys2Proof/Machine/PhaseOps.lean ====
section
/-! DEFINITION. The phase tracker (02 R69 to R82): crossings, lock, reference, frequency and ROCOF. -/

namespace Sys2Proof.Machine

open Sys2Proof

/-- Ticks of `n` half nominal periods (object 0x2020.01 in mHz), rounded up. -/
def Chip.nominalHalves (c : Chip) (n : Nat) : Nat := (200000000000 * n + c.cfg 0x2020 1 - 1) / c.cfg 0x2020 1

/-- 40 to 70 Hz (02 R71). -/
def periodInRange (p : Int) : Bool := 400000000 ≤ p * 70 && p * 40 ≤ 400000000

/-- At most 5 % from the previous period (02 R71). -/
def periodNear (p q : Int) : Bool := (p - q).natAbs * 20 ≤ q.natAbs

/-- Frequency in mHz of the mean of periods (02 R79), rounded to nearest. -/
def freqOf (hist : List Nat) : Nat :=
  let s := hist.foldl (· + ·) 0
  if s = 0 then 0 else (2 * 400000000000 * hist.length + s) / (2 * s)

/-- ROCOF between two frequencies `dt` ticks apart (02 R80): halves away from zero, saturating in I32. -/
def rocofOf (f1 f0 dt : Int) : Int :=
  if dt ≤ 0 then 0
  else
    let n := (f1 - f0) * 400000000
    let q : Int := ((2 * n.natAbs + dt.toNat) / (2 * dt.toNat) : Nat)
    clampInt (-2147483648) 2147483647 (if n < 0 then -q else q)

namespace Chip

def modIn (i : Fin 3) (f : PhaseIn → PhaseIn) (c : Chip) : Chip :=
  c.modPhase fun p => { p with ins := p.ins.set i (f p.ins[i]) }

/-- Object 0x2020.03. -/
def zcOn (c : Chip) (i : Fin 3) : Bool := (c.cfg 0x2020 3).testBit i.val

/-- Phase event record (02 Table 02-4). -/
def phaseEvent (code detail data : Nat) (c : Chip) : Chip := c.arise clsTime 5 (code * 256 + detail) data

/-- The reference that 02 R74 chooses. -/
def chooseRef (c : Chip) : Option (Fin 3) :=
  let ok (i : Fin 3) : Bool := (c.phase.ins[i]).locked
  let pref := c.cfg 0x2020 2
  match (if h : pref - 1 < 3 then (if 1 ≤ pref ∧ ok ⟨pref - 1, h⟩ then some (⟨pref - 1, h⟩ : Fin 3) else none) else none) with
  | some i => some i
  | none => (List.finRange 3).find? ok

/-- Chooses again, with the record of a change; `since` is the crossing or the instant that changed it (02 R743). -/
def updateRef (since : Int) (c : Chip) : Chip :=
  let n := c.chooseRef
  let code (r : Option (Fin 3)) : Nat := match r with | some i => i.val | none => 3
  if n = c.phase.ref then c
  else (c.modPhase fun p => { p with ref := n, refSince := since }).phaseEvent 2 (code n + 4 * code c.phase.ref) 0

/-- The lock record that is due for an input (02 R81), held to one per 100 ms (R82). -/
def lockRecord (i : Fin 3) (c : Chip) : Chip :=
  let p := c.phase.ins[i]
  let c := c.modIn i fun p => { p with lastRec := p.locked, suppUntil := some (c.clk.raw + ticksMs 100) }
  if p.locked then c.phaseEvent 0 i.val (min p.lastFreq 0xFFFFFF)
  else c.phaseEvent 1 (i.val + 4 * p.reason) (min p.lastFreq 0xFFFFFF)

def lockEvent (i : Fin 3) (c : Chip) : Chip :=
  match (c.phase.ins[i]).suppUntil with
  | some u => if c.clk.raw < u then c.modPhase fun p => { p with suppressed := p.suppressed + 1 } else c.lockRecord i
  | none => c.lockRecord i

/-- An input loses lock (02 R73): the next period is a first period (R71). -/
def unlock (i : Fin 3) (reason : Nat) (c : Chip) : Chip :=
  (c.modIn i fun p => { p with locked := false, valid := 0, period := none, hist := [], freqs := [], reason := reason }).lockEvent i

/-- The same, and the reference is chosen again (02 R74). -/
def loseLock (i : Fin 3) (reason : Nat) (since : Int) (c : Chip) : Chip := (c.unlock i reason).updateRef since

/-- A valid cycle ends at crossing `x` with period `p` (02 R72, R743). -/
def validCycle (i : Fin 3) (x : Int) (p : Nat) (c : Chip) : Chip :=
  let q := c.phase.ins[i]
  let n := q.valid + 1
  let lock : Bool := q.locked || 8 ≤ n
  let hist := if lock then (p :: q.hist).take 50 else []
  let f := freqOf (hist.take (c.cfg 0x2020 9))
  let c := c.modIn i fun q => { q with
    valid := n, period := some p, locked := lock, hist := hist, lastFreq := if lock then f else q.lastFreq
    freqs := if lock then ((x.toNat, (f : Int)) :: q.freqs).take 51 else [] }
  if lock ∧ !q.locked then (c.lockEvent i).updateRef x else c

/-- The angle of A at a crossing of B or C, negated (objects 0x2020.11 and .12). While A is not locked the spec gives no value
and the object keeps the last one (DESIGN CHOICE, log 60). -/
def relativeToA (i : Fin 3) (x : Int) (c : Chip) : Chip :=
  if (c.phase.ins[(0 : Fin 3)]).locked then
    let a := -(c.angleOn 0 x)
    if i = 1 then c.modPhase fun p => { p with bRelA := a }
    else if i = 2 then c.modPhase fun p => { p with cRelA := a }
    else c
  else c

/-- A comparator rise outside the blanking time (02 R69 to R77). The reference is judged after the crossing has changed the
lock states, so the crossing that makes an input the reference counts a cycle and the one that loses its lock counts none
(DESIGN CHOICE, log 60). -/
def crossing (i : Fin 3) (c : Chip) : Chip :=
  let x : Int := c.clk.raw - ticksNs (c.cfgI 0x2020 (6 + i.val))
  let q := c.phase.ins[i]
  let c := c.modIn i fun q => { q with lastX := some x, gap := false, lastRise := some c.clk.raw }
  let c : Chip := match (if q.gap then none else q.lastX) with
    | none => c
    | some x0 =>
      let p := x - x0
      match q.period with
      | none => c.modIn i fun q => { q with period := some p.toNat }
      | some p0 =>
        if periodInRange p && periodNear p p0 then c.validCycle i x p.toNat
        else if q.locked then c.loseLock i (if periodInRange p then 0 else 2) x
        else c.modIn i fun q => { q with period := some p.toNat, valid := 0 }
  let c := c.relativeToA i x
  if c.phase.ref = some i then c.modPhase fun p => { p with cycle := p.cycle + 1 } else c

/-- The blanking time has passed on an enabled input (02 R69). -/
def zcTaken (i : Fin 3) (c : Chip) : Bool :=
  c.zcOn i && (match (c.phase.ins[i]).lastRise with
    | some r => 40000 * c.cfg 0x2020 5 ≤ c.clk.raw - r
    | none => true)

/-- No crossing for 1.5 nominal periods on a locked input (02 R73). -/
def missingCrossing (i : Fin 3) (c : Chip) : Chip :=
  let late : Bool := match (c.phase.ins[i]).lastRise with
    | some r => c.nominalHalves 3 ≤ c.clk.raw - r
    | none => true
  if (c.phase.ins[i]).locked && late then c.loseLock i 1 c.clk.raw else c

/-- The end of an input's 100 ms (02 R82). -/
def suppressionEnd (i : Fin 3) (c : Chip) : Chip :=
  match (c.phase.ins[i]).suppUntil with
  | some u =>
    if u ≤ c.clk.raw then
      if (c.phase.ins[i]).locked = (c.phase.ins[i]).lastRec then c.modIn i fun p => { p with suppUntil := none }
      else c.lockRecord i
    else c
  | none => c

/-- Inputs were disabled or enabled by a write of object 0x2020.03 (02 R71, R86): every input that it disables loses lock, and
then the reference is chosen once among those that stay. -/
def inputsWritten (c : Chip) : Chip :=
  ((List.finRange 3).foldl (fun (c : Chip) i =>
    if c.zcOn i then c
    else (c.when (c.phase.ins[i]).locked (unlock i 3)).modIn i fun p => { p with gap := true, period := none, valid := 0 }) c).updateRef
      c.clk.raw

/-- Reported frequency and ROCOF of the active reference (02 R743). -/
def frequency (c : Chip) : Nat :=
  match c.phase.ref with
  | some r => freqOf ((c.phase.ins[r]).hist.take (c.cfg 0x2020 9))
  | none => 0

def rocof (c : Chip) : Int :=
  match c.phase.ref with
  | none => 0
  | some r =>
    let l := (c.phase.ins[r]).freqs
    match l.head?, l[c.cfg 0x2020 0xA]? with
    | some (t1, f1), some (t0, f0) => if c.phase.refSince ≤ (t0 : Int) then rocofOf f1 f0 (t1 - t0) else 0
    | _, _ => 0

/-- Lock bits, as TIM_LOCK. -/
def lockBits (c : Chip) : Nat :=
  maskOf ((List.finRange 3).filter (fun i => (c.phase.ins[i]).locked) |>.map (·.val))

end Chip

end Sys2Proof.Machine
end

