-- ==== Sys2Proof/Machine/OrderOps.lean ====
section
/-! DEFINITION. The order pipeline (04): the message, Verify, Hold, Release and Confirm. -/

namespace Sys2Proof.Machine

open Sys2Proof

/-! ## The message (04 Table 04-1) -/

def msgId (m : Bytes) : Nat := leAt m 0 4
def msgKey (m : Bytes) : Fin 4 := Fin.ofNat 4 (msgId m / 1073741824)
def msgAction (m : Bytes) : Nat := (m.getD 4 0).toNat
def msgMask (m : Bytes) : Nat := (m.getD 5 0).toNat
def msgRef (m : Bytes) : Nat := (m.getD 6 0).toNat
def msgFlags (m : Bytes) : Nat := (m.getD 7 0).toNat
def msgAngle (m : Bytes) : Nat := leAt m 8 2
def msgWidth (m : Bytes) : Nat := leAt m 10 2
def msgNotBefore (m : Bytes) : Nat := leAt m 12 8
def msgNotAfter (m : Bytes) : Nat := leAt m 20 8
def msgSeq (m : Bytes) : Nat := leAt m 28 4

/-- Action, reference, flags, mask and width within the table; a CANCEL's bytes 6 to 11 do not count (04 R156). -/
def msgFormed (m : Bytes) : Bool :=
  1 ≤ msgAction m && msgAction m ≤ 3 && msgMask m != 0 &&
  (msgAction m = 2 || (msgRef m ≤ 3 && msgFlags m ≤ 1 && (msgWidth m = 0 || 100 ≤ msgWidth m)))

/-- Port code of order records (04 R184). -/
def orderPort : Port → Nat
  | .host => 0
  | .canA => 1
  | .canB => 2
  | _ => 3

/-- Rounding to nearest with halves up, of `a / b`. -/
def roundUp (a b : Int) : Int := (2 * a + b) / (2 * b)

/-- The release tick of 04 R170. -/
def releaseTick (tc p theta j d : Int) : Int := tc + roundUp ((theta + 65536 * j) * p) 65536 - d

/-- The smallest j from `j` on, within `fuel`, whose release satisfies every delay (04 R171). -/
def chooseJ (tc p theta bound : Int) (ds : List Int) : Nat → Int → Int
  | 0, j => j
  | n + 1, j => if ds.all fun d => bound ≤ releaseTick tc p theta j d then j else chooseJ tc p theta bound ds n (j + 1)

/-- A j no larger than the smallest that satisfies R171. -/
def startJ (tc p bound : Int) (ds : List Int) : Int :=
  if p ≤ 0 then 0
  else
    let d := ds.foldl max 0
    max 0 ((bound + d - tc) / p - 2)

/-- Ticks of a stamp on the TAI clock, a part of a tick counting whole. -/
def stampTicks (s : Nat) : Int := ((s / 1073741824 : Nat) : Int) * secTicks + (((s % 1073741824) * 2 + 4) / 5 : Nat)

/-- The kind 0x3 source bits: reason, port, entry. -/
def src3 (reason port entry : Nat) : Nat := reason * 64 + port * 16 + entry

/-- Byte 21 the mask, bytes 22–23 the order id's low half. -/
def orderData (mask id : Nat) : Nat := mask % 256 + 256 * (id % 65536)

namespace Chip

/-! ## Outputs -/

def coOn (c : Chip) (n : Nat) : Bool := c.cfgB (0x4100 + n) 1
def latched (c : Chip) (n : Nat) : Bool := c.cfgB (0x4100 + n) 5

def setDrive (n : Fin 8) (d : Drive) (c : Chip) : Chip := c.modOrd fun o => { o with drive := o.drive.set n d }

/-- The drive of an output that carries no pulse: its inactive level, or high impedance while latched off or disabled. -/
def restDrive (c : Chip) (n : Fin 8) : Drive := if c.coOn n.val && !c.latched n.val then .inactive else .highZ

def ordIrq (b : Nat) (c : Chip) : Chip := c.modOrd fun o => { o with irq := o.irq ||| byteOf b }

def setEntry (e : Fin 16) (h : Option Held) (c : Chip) : Chip := c.modOrd fun o => { o with hold := o.hold.set e h }

/-- The outputs of an order in a stage, as a mask. -/
def stageMask (h : Held) (p : OutOrder → Bool) : Nat := maskOf ((h.outs.filter p).map fun o => o.out.val)

def isPending (o : OutOrder) : Bool := o.stage = .pending

/-- Every order that still has an output to release or a pulse that runs: the held ones with their entries, then those whose
entry was freed before (04 R181, R183). -/
def liveOrders (c : Chip) : List (Fin 16 × Held) :=
  ((List.finRange 16).filterMap fun e => (c.ord.hold[e]).map fun h => (e, h)) ++ c.ord.loose

/-- Outputs with a pending order. -/
def pendingMask (c : Chip) : Nat := c.liveOrders.foldl (fun m x => m ||| stageMask x.2 isPending) 0

/-- Outputs driven active. -/
def activeMask (c : Chip) : Nat := maskOf ((List.finRange 8).filter (fun n => c.ord.drive[n] = .active) |>.map (·.val))

def latchedMask (c : Chip) : Nat := maskOf ((List.range 8).filter c.latched)

/-- Where an order stands: in its hold entry, or among those whose entry was freed. -/
inductive Place where
  | entry (e : Fin 16)
  | freed (k : Nat)
  deriving DecidableEq, Repr

/-- The order at a place with its entry's number. -/
def orderAt (c : Chip) : Place → Option (Fin 16 × Held)
  | .entry e => (c.ord.hold[e]).map fun h => (e, h)
  | .freed k => c.ord.loose[k]?

/-- The order at a place is `h` now; an entry stays while any of its outputs has something to come (04 R167). -/
def setOrder (p : Place) (h : Held) (c : Chip) : Chip :=
  match p with
  | .entry e => c.setEntry e (if h.outs.all fun o => o.stage = .done then none else some h)
  | .freed k => c.modOrd fun o => { o with loose := o.loose.modify k fun x => (x.1, h) }

/-- Freed orders with nothing to come are gone. -/
def tidy (c : Chip) : Chip :=
  c.modOrd fun o => { o with loose := o.loose.filter fun x => !x.2.outs.all fun y => y.stage = .done }

/-- A step over every order: the held ones, then the freed ones. -/
def eachOrder (f : Place → Chip → Chip) (c : Chip) : Chip :=
  let c := (List.finRange 16).foldl (fun c e => f (.entry e) c) c
  ((List.range c.ord.loose.length).foldl (fun c k => f (.freed k) c) c).tidy

/-- An entry is freed while outputs of its order still wait for release or carry a pulse: these go on, and no readback of the
order follows (04 R181, R183). -/
def freeOrder (e : Fin 16) (h : Held) (c : Chip) : Chip :=
  let left := h.outs.filter fun o => o.stage = .pending || o.stage = .pulsing
  (c.setEntry e none).modOrd fun o => { o with loose := if left.isEmpty then o.loose else o.loose ++ [(e, { h with outs := left })] }

/-- Kind 0x2 record of an order: type, mask. -/
def src2 (h : Held) (e : Fin 16) (ty : Nat) : Nat :=
  ty * 1024 + (if h.action = 3 then 512 else 0) + (if h.fallback then 256 else 0) + h.ref % 4 * 64
  + orderPort h.port * 16 + e.val

def rec2 (h : Held) (e : Fin 16) (ty mask : Nat) (c : Chip) : Chip := c.arise clsOrder 2 (src2 h e ty) (orderData mask h.id)

/-- An order's pending outputs end with a reason of 04 Table 04-4; host notice 3 tells it (08 Table 08-8). -/
def endPending (p : Place) (reason : Nat) (c : Chip) : Chip :=
  match c.orderAt p with
  | none => c
  | some (e, h) =>
    let m := stageMask h isPending
    if m = 0 then c
    else
      let h' := { h with outs := h.outs.map fun o => if isPending o then { o with stage := .done } else o }
      ((((c.setOrder p h').arise clsOrder 3 (src3 reason (orderPort h.port) e.val) (orderData m h.id)).ordIrq 2).modHost
        fun q => { q with notices := q.notices ||| 8 })

/-- Every order with a pending output in a mask ends, whole. -/
def endMask (mask reason : Nat) (c : Chip) : Chip :=
  c.eachOrder fun p c => match c.orderAt p with
    | some (_, h) => if stageMask h isPending &&& mask ≠ 0 then c.endPending p reason else c
    | none => c

/-- Every pending order ends. -/
def endAll (reason : Nat) (c : Chip) : Chip := c.endMask 255 reason

/-! ## Verify (04 R163 to R168, Table 04-2) -/

/-- The raw tick at which the clock as it stands reads a stamp. -/
def tickOfStamp (s : Nat) (c : Chip) : Int := (c.clk.raw : Int) + stampTicks s - c.time.total

def outsOf (mask : Nat) : List (Fin 8) := (List.finRange 8).filter fun n => mask.testBit n.val

/-- tc and P of a named input that can time a release. -/
def namedInput (c : Chip) (ref : Nat) : Option (Int × Nat) :=
  if h : ref - 1 < 3 then
    let i : Fin 3 := ⟨ref - 1, h⟩
    if 1 ≤ ref ∧ (c.phase.ins[i]).locked ∧ c.zcOn i then
      match (c.phase.ins[i]).lastX, (c.phase.ins[i]).period with
      | some x, some p => some (x, p)
      | _, _ => none
    else none
  else none

def freeEntry (c : Chip) : Option (Fin 16) := (List.finRange 16).find? fun e => (c.ord.hold[e]).isNone

/-- Checks 1 to 5 of 04 Table 04-2, in order: the first reason, or none; a slot found faulty is faulted. Life-cycle
RETURN fails check 4 (13 R568). -/
def verifyAuth (m : OrderMsg) (c : Chip) : Option Nat × Chip :=
  let k := msgKey m.bytes
  let pol := c.cfg 0x4000 (8 + k.val)
  if c.start.mode = 2 then (some 0x0F, c)
  else if c.clk.pfw then (some 0x10, c)
  else if !c.ord.ven then (some 0x13, c)
  else if c.start.life = .retd ∨ !pol.testBit 15 ∨ !pol.testBit (8 + orderPort m.port) ∨ keyUnavailable c.ord.keys[k] then (some 0x11, c)
  else
    let u := c.useSlot (3 + k.val)
    match u.1 with
    | none => (some 0x11, u.2)
    | some s =>
      if (Crypto.cmac s.key (m.bytes.take 32)).take 8 = slice m.bytes 32 8 then (none, u.2) else (some 0x01, u.2)

/-- A sequence number passes: the floor rises, and a new ceiling is written in the background where it is due, judged at each
passing number (04 R159, R160). -/
def passSeq (k : Fin 4) (s : Nat) (c : Chip) : Chip :=
  let c := c.modKey k fun x => { x with floor := s }
  let st := c.ord.keys[k]
  if st.ceil < s + 16384 then c.queueWk (.ceiling k (ceilingAbove s)) else c

/-- Checks 6 to 12, over the floor as it was. -/
def verifyTime (m : Bytes) (c : Chip) : Option Nat :=
  let now := c.stamp.toNat
  let nb := msgNotBefore m
  let na := msgNotAfter m
  if nb ≠ 0 ∧ na < nb then some 0x06
  else if na < now then some 0x04
  else if c.cfg 0x4000 3 * 1000000 < stampNs (BitVec.ofNat 64 na) - c.nowNs then some 0x05
  else if c.cfgB 0x4000 1 && c.time.sync != .locked && c.time.sync != .holdover then some 0x0D
  else none

/-- Checks 14 to 20 for a RELEASE or TEST. -/
def verifyOuts (m : OrderMsg) (c : Chip) : Option Nat :=
  let b := m.bytes
  let mask := msgMask b
  let pol := c.cfg 0x4000 (8 + (msgKey b).val)
  let outs := outsOf mask
  if outs.any fun n => !pol.testBit n.val then some 0x08
  else if outs.any fun n => !c.coOn n.val then some 0x0C
  else if outs.any fun n => c.latched n.val then some 0x0B
  else if c.pendingMask &&& mask ≠ 0 then some 0x09
  else if c.freeEntry.isNone then some 0x0A
  else if msgRef b ≠ 0 ∧ (c.namedInput (msgRef b)).isNone ∧ msgFlags b % 2 = 0 then some 0x0E
  else if c.ord.cancels.any fun x => x.1 = m.tick && x.2 &&& mask != 0 then some 0x24
  else none

/-- The order that an accepted message becomes (04 R167, R169 to R171, R174). -/
def heldOf (m : OrderMsg) (c : Chip) : Held :=
  let b := m.bytes
  let outs := outsOf (msgMask b)
  let nb := if msgNotBefore b = 0 then (c.clk.raw : Int) else c.tickOfStamp (msgNotBefore b)
  let delay (n : Fin 8) : Int := ticksNs (c.cfg (0x4100 + n.val) 3)
  let inp := if msgRef b = 0 then none else c.namedInput (msgRef b)
  let bound := max ((c.clk.raw : Int) + ((2 * c.cfg 0x4000 2 + 4) / 5 : Nat)) nb
  let ds := outs.map delay
  let j := match inp with
    | some (tc, p) => chooseJ tc p (msgAngle b) bound ds 8 (startJ tc p bound ds)
    | none => 0
  let rel (n : Fin 8) : Int := match inp with
    | some (tc, p) => releaseTick tc p (msgAngle b) j (delay n)
    | none => max ((c.clk.raw : Int) + 400) nb
  { id := msgId b, action := msgAction b, mask := msgMask b, ref := msgRef b, flags := msgFlags b, angle := msgAngle b
    width := msgWidth b, notBefore := msgNotBefore b, notAfter := msgNotAfter b, key := (msgKey b).val, port := m.port
    immediate := inp.isNone, fallback := inp.isNone && msgRef b != 0, j
    outs := outs.map fun n => { out := n, release := rel n, delay := (delay n).toNat
                                width := 400 * (if msgWidth b = 0 then c.cfg (0x4100 + n.val) 4 else msgWidth b)
                                high := c.cfgB (0x4100 + n.val) 2, stage := .pending, read1 := false, endTick := 0
                                cut := false } }

/-- The result bytes of object 0x4200.02: id, status, reason, entry. -/
def resultBytes (id status reason entry : Nat) : Bytes :=
  leBytes 4 id ++ ([byteOf status, byteOf reason, byteOf entry, 0] : Bytes)

def setResult (p : Port) (r : Bytes) (c : Chip) : Chip :=
  c.modOrd fun o => { o with results := assocPut (orderPort p) (some r) o.results }

/-- A rejection: record, counts, result. -/
def rejectOrder (m : OrderMsg) (reason : Nat) (c : Chip) : Chip × Bytes :=
  let r := resultBytes (msgId m.bytes) 1 reason 0
  ((((c.arise clsOrder 3 (src3 reason (orderPort m.port) 0) (orderData (msgMask m.bytes) (msgId m.bytes))).ordIrq 2).modOrd
      fun o => { o with rejected := o.rejected + 1 }).setResult m.port r, r)

/-- An acceptance with its entry. -/
def acceptOrder (m : OrderMsg) (ref entry : Nat) (c : Chip) : Chip × Bytes :=
  let b := m.bytes
  let r := resultBytes (msgId b) 0 0 entry
  let src := msgAction b % 4 * 1024 + (msgKey b).val * 256 + ref % 4 * 64 + orderPort m.port * 16 + entry
  ((((c.arise clsOrder 1 src (orderData (msgMask b) (msgId b))).ordIrq 1).modOrd
      fun o => { o with accepted := o.accepted + 1 }).setResult m.port r, r)

/-- Verify of one message (04 Table 04-2). -/
def verifyMsg (m : OrderMsg) (c : Chip) : Chip × Bytes :=
  let b := m.bytes
  let k := msgKey b
  let a := c.verifyAuth m
  let c := a.2
  match a.1 with
  | some r => c.rejectOrder m r
  | none =>
    let st := c.ord.keys[k]
    if !msgFormed b then c.rejectOrder m 0x07
    else if msgSeq b ≤ st.floor then c.rejectOrder m 0x02
    else if st.ceil ≤ msgSeq b then c.rejectOrder m 0x03
    else
      let c := c.passSeq k (msgSeq b)
      match c.verifyTime b with
      | some r => c.rejectOrder m r
      | none =>
        if msgAction b = 2 then
          let c := (c.endMask (msgMask b) 0x20).modOrd fun o => { o with cancels := (m.tick, msgMask b) :: o.cancels }
          c.acceptOrder m 0 0
        else match c.verifyOuts m, c.freeEntry with
        | some r, _ => c.rejectOrder m r
        | none, none => c.rejectOrder m 0x0A
        | none, some e => (c.setEntry e (some (c.heldOf m))).acceptOrder m (msgRef b) e.val

/-- Rank of ports whose messages share a tick (04 R163). -/
def earlier (a b : OrderMsg) : Bool := a.tick < b.tick || (a.tick = b.tick && orderPort a.port < orderPort b.port)

/-- The message Verify takes next. -/
def nextMsg (l : List OrderMsg) : Option OrderMsg :=
  l.foldl (fun x m => match x with | none => some m | some y => if earlier m y then some m else some y) none

/-- A message reaches Verify's waiting place; with fewer than 32 free ring slots it waits there for its rejection only (04 R165). -/
def submitOrder (m : OrderMsg) (c : Chip) : Chip :=
  c.modOrd fun o => { o with waiting := o.waiting ++ [{ m with full := c.freeSlots < 32 }] }

/-- Verify takes its next message: what it was and its result. With fewer than 32 free ring slots it takes none but those it rejects
for that reason (03 R137, 04 R165). -/
def verifyNext (c : Chip) : Option (OrderMsg × Bytes) × Chip :=
  match nextMsg (if c.freeSlots < 32 then c.ord.waiting.filter (·.full) else c.ord.waiting) with
  | none => (none, c)
  | some m =>
    let c := c.modOrd fun o => { o with
      waiting := o.waiting.erase m
      cancels := o.cancels.filter fun x => x.1 = c.clk.raw || o.waiting.any fun w => w.tick = x.1 }
    let r := if m.full then c.rejectOrder m 0x12 else c.verifyMsg m
    (some (m, r.2), r.1)

/-! ## Hold (04 R172, R173, R190) -/

/-- An order placed again at a crossing of its input: a new instant nearer than 1 µs is discarded (04 R172, R173). -/
def replaced (now tc p : Int) (h : Held) : Held :=
  { h with
    j := h.j - 1
    outs := h.outs.map fun x =>
      let t := releaseTick tc p h.angle (h.j - 1) x.delay
      if isPending x && now + 400 ≤ t then { x with release := t } else x }

/-- A crossing of input `i` is handed over: its orders are placed again. -/
def orderCrossing (i : Fin 3) (c : Chip) : Chip :=
  match (c.phase.ins[i]).locked, (c.phase.ins[i]).lastX, (c.phase.ins[i]).period with
  | true, some tc, some p =>
    let again (h : Held) : Held := if h.ref = i.val + 1 ∧ !h.immediate then replaced c.clk.raw tc p h else h
    c.modOrd fun o => { o with hold := o.hold.map fun h => h.map again, loose := o.loose.map fun x => (x.1, again x.2) }
  | _, _, _ => c

/-- The named input lost lock or was disabled (04 R190). -/
def orderPhaseLost (i : Fin 3) (c : Chip) : Chip :=
  c.eachOrder fun p c => match c.orderAt p with
    | some (_, h) =>
      if h.ref = i.val + 1 ∧ !h.immediate ∧ stageMask h isPending ≠ 0 then
        if h.flags % 2 = 0 then c.endPending p 0x21
        else
          let nb := if h.notBefore = 0 then (c.clk.raw : Int) else c.tickOfStamp h.notBefore
          let t := max ((c.clk.raw : Int) + 400) nb
          c.setOrder p { h with
            immediate := true, fallback := true
            outs := h.outs.map fun x => if isPending x then { x with release := t } else x }
      else c
    | none => c

/-! ## Release (04 R175 to R179, R183) -/

/-- The outputs of a mask rest. -/
def restMask (m : Nat) (c : Chip) : Chip := (outsOf m).foldl (fun c n => c.setDrive n (c.restDrive n)) c

/-- The record's view of this instant, kept for an end record. -/
def markEnd (cut : Bool) (c : Chip) (o : OutOrder) : OutOrder :=
  { o with stage := .ended, endTick := c.clk.raw, endStamp := c.stamp, endAngle := c.angle, endCycle := c.phase.cycle
           endQual := c.quality, cut := cut }

/-- A pulse of a mask runs on this output. -/
def runsOn (m : Nat) (o : OutOrder) : Bool := m.testBit o.out.val && o.stage = .pulsing

/-- Earlier orders' pulses on the outputs of a mask end at this instant, each order with one record; its entry is freed and it
reads nothing back any more (04 R183). A TEST's pulse, which drives nothing, ends in the same way (R178). -/
def cutEarlier (m : Nat) (except : Place) (c : Chip) : Chip :=
  c.eachOrder fun p c => match c.orderAt p with
    | some (e, h) =>
      let hit := runsOn m
      let k := stageMask h hit
      if p = except ∨ k = 0 then c
      else
        let h' := { h with outs := h.outs.map fun o => if hit o then { o with stage := .done } else o }
        let c := (match p with
          | .entry e => c.freeOrder e h'
          | p => c.setOrder p h').rec2 h e 3 k
        if h.action = 3 then c else c.restMask k
    | none => c

/-- The outputs of one order that are due now. A TEST goes through every step and drives nothing (04 R178). -/
def releaseOrder (p : Place) (c : Chip) : Chip :=
  match c.orderAt p with
  | none => c
  | some (e, h) =>
    let due (o : OutOrder) : Bool := isPending o && o.release ≤ c.clk.raw
    let m := stageMask h due
    if m = 0 then c
    else if !c.ord.armed then c.endPending p 0x23
    else if c.stamp.toNat < h.notBefore ∨ h.notAfter < c.stamp.toNat then c.endPending p 0x22
    else
      let c := c.cutEarlier m p
      let h' := { h with outs := h.outs.map fun o => if due o then { o with stage := .pulsing } else o }
      let c := (c.setOrder p h').rec2 h e 0 m
      if h.action = 3 then c
      else (outsOf m).foldl (fun c n =>
        (c.setDrive n .active).setNum (0x4100 + n.val) 8 (c.cfg (0x4100 + n.val) 8 + 1)) ((c.ordIrq 4).modCat fun t => { t with dirtySlow := true })

/-- The release placer at this tick (04 R175). -/
def releaseInstant (c : Chip) : Chip := c.eachOrder releaseOrder

/-- Pulses whose width has passed end (04 R179); one of a freed order has no readback to come. -/
def pulseEnd (c : Chip) : Chip :=
  c.eachOrder fun p c => match c.orderAt p with
    | some (_, h) =>
      let due (o : OutOrder) : Bool := o.stage = .pulsing && o.release + o.width ≤ c.clk.raw
      let m := stageMask h due
      if m = 0 then c
      else
        let ended (o : OutOrder) : OutOrder := match p with | .entry _ => markEnd false c o | .freed _ => { o with stage := .done }
        let c' := c.setOrder p { h with outs := h.outs.map fun o => if due o then ended o else o }
        if h.action = 3 then c' else c'.restMask m
    | none => c

/-! ## Confirm (04 R180, R181) -/

/-- An output latches off (04 R181); a change of the stored mark asks for an internal image (07 R304). -/
def latchOff (n : Fin 8) (c : Chip) : Chip :=
  let k := 0x4100 + n.val
  (((((c.setNum k 5 1).setNum k 9 (c.cfg k 9 + 1)).modCat fun t => { t with dirtyFast := true, dirtySlow := true }).setDrive n
    .highZ).ordIrq 8).endMask (2 ^ n.val) 0x27

/-- One order's readbacks that are due now, against the pad levels. A failed first readback is the order's last: its entry is
freed. -/
def confirmEntry (e : Fin 16) (c : Chip) : Chip :=
  match c.ord.hold[e] with
  | none => c
  | some h =>
    let test : Bool := h.action = 3
    let due1 (o : OutOrder) : Bool := (o.stage = .pulsing || o.stage = .ended) && !o.read1 && o.release + 800 ≤ c.clk.raw
    let due2 (o : OutOrder) : Bool := o.stage = .ended && !due1 o && o.endTick + 800 ≤ c.clk.raw
    let level (o : OutOrder) : Bool := c.ord.pads.getLsbD o.out.val
    let want1 (o : OutOrder) : Bool := if test then !o.high else o.high
    let bad (o : OutOrder) : Bool := (due1 o && level o != want1 o) || (due2 o && level o == o.high)
    let good2 (o : OutOrder) : Bool := due2 o && !bad o
    let mBad := stageMask h bad
    let next (o : OutOrder) : OutOrder :=
      if bad o ∨ good2 o then { o with stage := .done } else if due1 o then { o with read1 := true } else o
    let h' := { h with outs := h.outs.map next }
    let c := if h.outs.any fun o => due1 o && bad o then c.freeOrder e h' else c.setOrder (.entry e) h'
    -- end records, one for each pulse end; a cut pulse has its type 3 record already
    let ends := ((h.outs.filter fun o => good2 o && !o.cut).map fun o => o.endTick).eraseDups
    let c := ends.foldl (fun c t => match h.outs.find? (fun o => good2 o && !o.cut && o.endTick = t) with
      | some x =>
        let m := stageMask h fun o => good2 o && !o.cut && o.endTick = t
        c.ariseAt clsOrder 2 (src2 h e 1) (orderData m h.id) x.endStamp x.endAngle x.endCycle x.endQual
      | none => c) c
    if mBad = 0 then c
    else (outsOf mBad).foldl (fun c n => c.latchOff n) (c.rec2 h e 2 mBad)

/-- The pads are read (04 R180). -/
def confirmReadback (pads : Byte) (c : Chip) : Chip :=
  let c := c.modOrd fun o => { o with pads := pads }
  (List.finRange 16).foldl (fun c e => c.confirmEntry e) c

/-! ## Gating (04 R176, R191) -/

def armLow (c : Chip) : Chip :=
  c.modOrd fun o => { o with armLowSince := match o.armLowSince with | some t => some t | none => some c.clk.raw }

def armArmed (c : Chip) : Chip :=
  match c.ord.armLowSince with
  | some t => if t + 400 ≤ c.clk.raw then c.modOrd fun o => { o with armed := true } else c
  | none => c

/-- Every pulse on the outputs of a mask is cut, with one record for each order; the second readback of a held order follows
2 µs later (04 R191, R748). -/
def cutOutputs (m : Nat) (c : Chip) : Chip :=
  c.eachOrder fun p c => match c.orderAt p with
    | some (e, h) =>
      let hit := runsOn m
      let k := stageMask h hit
      if k = 0 then c
      else
        let ended (o : OutOrder) : OutOrder :=
          match p with | .entry _ => { markEnd true c o with read1 := true } | .freed _ => { o with stage := .done }
        let c := (c.setOrder p { h with outs := h.outs.map fun o => if hit o then ended o else o }).rec2 h e 3 k
        if h.action = 3 then c else c.restMask k
    | none => c

/-- A pulse runs, on whatever output. -/
def anyPulse (c : Chip) : Bool := c.liveOrders.any fun x => x.2.outs.any fun o => o.stage = .pulsing

/-- ARM_N was high for `ns`: 20 ns or more disarms and cuts; less disarms nothing, and the 1 µs of continuous low begins
again. -/
def armDisarm (ns : Nat) (c : Chip) : Chip :=
  if ns < 20 then c.modOrd fun o => { o with armLowSince := o.armLowSince.map fun _ => c.clk.raw }
  else ((c.modOrd fun o => { o with armed := false, armLowSince := none }).cutOutputs 255).when c.anyPulse (ordIrq 16)

/-! ## Writes of the output objects -/

/-- Outputs that object 0x4100+n.01 enables. -/
def enabledMask (c : Chip) : Nat := maskOf ((List.range 8).filter c.coOn)

/-- Outputs were enabled or disabled together: `was` the ones enabled before (04 R185, R748, Table 04-4 reason 0x28). -/
def outputsWritten (was : Nat) (c : Chip) : Chip :=
  let off := maskOf ((List.range 8).filter fun n => was.testBit n && !c.coOn n)
  let on := maskOf ((List.range 8).filter fun n => !was.testBit n && c.coOn n)
  let c := c.when (off != 0) fun c => (outsOf off).foldl (fun c n => c.setDrive n .highZ) ((c.endMask off 0x28).cutOutputs off)
  c.restMask on

/-- Object 0x4100+n.06 (04 R181): the output may be used again. -/
def clearLatch (n : Fin 8) (c : Chip) : Chip :=
  if !c.latched n.val then c
  else
    let c := (c.setNum (0x4100 + n.val) 5 0).modCat fun t => { t with dirtyFast := true, dirtySlow := true }
    c.setDrive n (c.restDrive n)

/-- Object 0x4100+n.07. -/
def outputState (c : Chip) (n : Fin 8) : Nat :=
  if c.latched n.val then 3
  else if !c.coOn n.val then 4
  else if c.ord.drive[n] = .active then 2
  else if c.pendingMask.testBit n.val then 1
  else 0

/-- Object 0x4300, an entry's 24 bytes. -/
def entryBytes (c : Chip) (e : Fin 16) : Bytes :=
  match c.ord.hold[e] with
  | none => List.replicate 24 0
  | some h =>
    let low := (outsOf h.mask).headD 0
    let w := if h.width ≠ 0 then h.width else min 0xFFFF (((h.outs.find? fun o => o.out = low).map (·.width)).getD 0 / 400)
    let first := h.outs.foldl (fun (t : Int) o => if o.release < t then o.release else t) ((h.outs.headD { out := 0, release := 0, delay := 0, width := 0, high := true, stage := .done, read1 := true, endTick := 0, cut := false }).release)
    let t := c.time.total + first - c.clk.raw
    let st := stampOf (t / (secTicks : Int)).toNat (t % (secTicks : Int)).toNat
    let state : Nat := if h.outs.any fun o => o.stage = .pulsing then 2
      else if h.outs.any isPending then 1 else 3
    leBytes 4 h.id ++ ([byteOf h.action, byteOf h.mask, byteOf h.ref, byteOf h.flags] : Bytes) ++ leBytes 2 h.angle ++ leBytes 2 w
    ++ leBytes 8 st.toNat ++ ([byteOf h.key, byteOf state, 0, 0] : Bytes)

/-- Entries taken. -/
def entriesTaken (c : Chip) : Nat := ((List.finRange 16).filter fun e => (c.ord.hold[e]).isSome).length

end Chip

end Sys2Proof.Machine
end

