-- ==== Sys2Proof/Machine/PortOps.lean ====
section
/-! DEFINITION. How an answer of the Catalogue engine reaches the port that asked: host slots (08), CAP responses (09),
the two-wire proxy (09), contactless responses (10) and the three channels (07, 13). -/

namespace Sys2Proof.Machine

open Sys2Proof

/-- The Catalogue engine's answer: the value read (or the Verify result of an order), or an abort code. -/
inductive CatAns where
  | ok (v : Bytes)
  | abort (code : Nat)
  deriving DecidableEq, Repr

/-! ## CAN FD (09) -/

/-- Smallest FD data length that holds `n` bytes, at least 8 (09 Table 09-1, R391). -/
def fdLen (n : Nat) : Nat :=
  if n ≤ 8 then 8 else if n ≤ 12 then 12 else if n ≤ 16 then 16 else if n ≤ 20 then 20
  else if n ≤ 24 then 24 else if n ≤ 32 then 32 else if n ≤ 48 then 48 else 64

/-- A CAP response (09 Table 09-3). -/
def capResponse (head : Nat) (cmd tid : Byte) (idx sub field seg : Nat) (value : Bytes) : Bytes :=
  let b : Bytes := ([byteOf (head + cmd.toNat), tid] : Bytes) ++ leBytes 2 idx ++ [byteOf sub] ++ leBytes 2 field
    ++ [byteOf seg] ++ value
  padTo 0 (fdLen b.length) b

namespace Chip

/-- The controller of a bus: false CAN-A, true CAN-B. -/
def ctl (b : Bool) (c : Chip) : CanCtl := if b then c.can.b else c.can.a

def modCtl (b : Bool) (f : CanCtl → CanCtl) (c : Chip) : Chip :=
  c.modCan fun n => if b then { n with b := f n.b } else { n with a := f n.a }

/-- A response waits for its bus (09 R398). -/
def canSend (b : Bool) (data : Bytes) (c : Chip) : Chip :=
  c.modCtl b fun k => if k.en then { k with txq := k.txq ++ [data] } else k

/-- The response of a request goes to its bus and to the buses of its duplicates (09 R400). -/
def capSend (b : Bool) (cmd tid : Byte) (idx sub seg : Nat) (resp : Bytes) (c : Chip) : Chip :=
  let mine (e : DupEntry) : Bool := e.bus = b && e.resp.isNone &&
    e.data.take 5 == ([cmd, tid] : Bytes) ++ leBytes 2 idx ++ [byteOf sub] && e.data.getD 7 0 = byteOf seg
  match c.can.owed.find? mine with
  | some e => e.waiting.foldl (fun c x => c.canSend x resp) ((c.modCan fun n => { n with owed := n.owed.erase e }).canSend b resp)
  | none =>
  match c.can.dup.findIdx? mine with
  | none => c.canSend b resp
  | some i =>
    let w := match c.can.dup[i]? with | some e => e.waiting | none => []
    let c := c.modCan fun n => { n with dup := n.dup.modify i fun e => { e with resp := some resp, waiting := [] } }
    w.foldl (fun c x => c.canSend x resp) (c.canSend b resp)

/-- The answer to a CAP request, or its abort (09 Table 09-4, R392, R394). -/
def capAnswer (b : Bool) (cmd tid : Byte) (idx sub seg : Nat) (a : CatAns) (c : Chip) : Chip :=
  match a with
  | .abort code => c.capSend b cmd tid idx sub seg (capResponse 0xC0 cmd tid idx sub code seg [])
  | .ok v =>
    if cmd = 0x01 ∧ 56 < v.length then
      if c.can.seg.isSome then c.capSend b cmd tid idx sub seg (capResponse 0xC0 cmd tid idx sub 0xC104 seg [])
      else
        let s : Segment := { write := false, tid, idx, sub, total := v.length, value := v, next := 1, tick := c.clk.raw, bus := b }
        (c.modCan fun n => { n with seg := some s, lapsed := none }).capSend b cmd tid idx sub seg
          (capResponse 0x80 cmd tid idx sub v.length seg (v.take 56))
    else c.capSend b cmd tid idx sub seg (capResponse 0x80 cmd tid idx sub v.length seg v)

/-! ## Contactless (10) -/

/-- The response MAC (10 R449). -/
def tagMac (c : Chip) (a : Apdu) (data : Bytes) (sw : Nat) : Bytes :=
  (Crypto.cmac c.tag.ks (([2] : Bytes) ++ beBytes 4 c.tag.n ++ [a.cla, a.ins, a.p1, a.p2] ++ data ++ beBytes 2 sw)).take 8

/-- A response: data, the MAC where one is owed, and the status word. -/
def tagBytes (c : Chip) (a : Apdu) (data : Bytes) (sw : Nat) (mac : Bool) : Bytes :=
  data ++ (if mac then c.tagMac a data sw else []) ++ beBytes 2 sw

/-- The frame size that the reader's FSDI accepts (10 Table 10-2). -/
def fsdBytes (fsdi : Nat) : Nat := [16, 24, 32, 40, 48, 64, 96, 128].getD fsdi 256

/-- A block's prologue: its PCB, and the CID where the activation has one (log 19). -/
def prologue (t : Tag) (pcb : Nat) : Bytes := if t.cid = 0 then [byteOf pcb] else [byteOf (pcb + 8), byteOf t.cid]

/-- An answer cut into information fields of at most `m` bytes. -/
def infFields (m : Nat) : Nat → Bytes → List Bytes
  | 0, b => [b]
  | f + 1, b => if b.length ≤ m then [b] else b.take m :: infFields m f (b.drop m)

/-- The I-blocks of an answer: all but the last chained, their numbers in alternation, each within FSD (10 R437). -/
def iBlocks (t : Tag) : Bool → List Bytes → List Bytes
  | _, [] => []
  | n, [b] => [prologue t (2 + bit n) ++ b]
  | n, b :: l => (prologue t (0x12 + bit n) ++ b) :: iBlocks t (!n) l

/-- The engine sends a response, in as many blocks as the reader's frame size asks for. -/
def tagSend (b : Bytes) (c : Chip) : Chip :=
  c.modTag fun t =>
    let inf := infFields (fsdBytes t.fsd - 2 - (prologue t 2).length) b.length b
    { t with
      out := b, sent := t.sent ++ iBlocks t t.blk inf, blk := if inf.length % 2 = 1 then t.blk else !t.blk
      wtxm := 1, wtxOut := false }

/-- A Catalogue answer reaches the contactless command that waits for it, if its activation still stands (10 R453,
Table 10-5). -/
def tagAnswer (session : Nat) (data : Bytes) (c : Chip) : Chip :=
  match c.tag.waitCat with
  | none => c
  | some a =>
    if session ≠ c.tag.session then c else
    let c := c.modTag fun t => { t with waitCat := none }
    if c.tag.overlay = .securedA then c.tagSend (c.tagBytes a data 0x9000 true) else c

/-! ## Delivery -/

/-- The immediate slot of the host port takes its answer and HRDY returns high (08 R356). -/
def hostAnswer (status : Nat) (payload : Bytes) (c : Chip) : Chip :=
  match c.host.busy with
  | none => c
  | some cmd => c.modHost fun h => { h with
      imm := some { status := byteOf status, cmd, payload }, busy := none, idleSince := c.clk.raw }

/-- A channel of the CAT_ or DBG_ page takes its answer (07 Table 07-13). -/
def chanAnswer (write : Bool) (a : CatAns) (k : CatChan) : CatChan :=
  match a with
  | .abort code => { k with res := 3, abort := BitVec.ofNat 16 code }
  | .ok v =>
    if write then { k with res := 2 }
    else { k with res := 2, len := BitVec.ofNat 16 v.length, data := Cells.write 0 [] 0 v }

/-- The answer of the engine goes back where the request came from. -/
def deliver (r : Reply) (write : Bool) (a : CatAns) (c : Chip) : Chip :=
  match r with
  | .host => match a with
    -- of the writes, only ORDER (0x20) answers with bytes (08 R368)
    | .ok v => c.hostAnswer 0 (if write && c.host.busy != some 0x20 then [] else v)
    | .abort code => c.hostAnswer 1 (leBytes 2 code)
  | .can b cmd tid idx sub seg => c.capAnswer b cmd tid idx sub seg a
  | .twoWire => match a with
    | .ok v => c.modTw fun t => { t with
        pStat := 2, pRun := false, irq := t.irq ||| 1
        pLen := if write then t.pLen else byteOf v.length, pData := if write then t.pData else Cells.write 0 t.pData 0 v }
    | .abort code => c.modTw fun t => { t with
        pStat := 3, pRun := false, irq := t.irq ||| 1, pAbort := BitVec.ofNat 16 code, aborts := t.aborts + 1 }
  | .memo n => match a with
    | .ok _ => (c.modTag fun t => { t with irq := t.irq ||| 16 }).tagAnswer n [0, 0, 0]
    | .abort code => c.tagAnswer n (([1] : Bytes) ++ leBytes 2 code)
  | .obj n off => match a with
    | .ok v => c.tagAnswer n (([0] : Bytes) ++ leBytes 2 v.length ++ slice v off 128)
    | .abort code => c.tagAnswer n (([1] : Bytes) ++ leBytes 2 code)
  | .curator => c.modCat fun t => { t with cch := chanAnswer write a t.cch, irq := t.irq ||| 1 }
  | .registrar => c.modCat fun t => { t with rch := chanAnswer write a t.rch, irq := t.irq ||| 2 }
  | .debug => c.modCat fun t => { t with kch := chanAnswer write a t.kch }
  | .none => c

end Chip

end Sys2Proof.Machine
end

