-- ==== Sys2Proof/Machine/StoreOps.lean ====
section
/-! DEFINITION. The Catalogue store (07 R332 to R340): its images, their writing and their loading at a start. -/

namespace Sys2Proof.Machine

open Sys2Proof

/-- Index and row of every stored object, in image order (07 R333). -/
def storedRows : List (Nat × Obj) := objIndices.flatMap fun i => ((objRows i).filter (·.stored)).map fun o => (i, o)

/-- Objects of R304 whose change asks for an internal image within 1 s. -/
def fastKey (k : Nat) : Bool := k = objKey 0x3300 6 || k = objKey 0x5000 6 || (k % 256 = 5 && k / 2048 = 0x4100 / 8)

def storeMagic : Bytes := [0x56, 0x51, 0x43, 0x53]

/-- Entries of an image: index, subindex, length, value. -/
def imageEntries (val : Nat → Nat → Bytes) : Bytes :=
  storedRows.flatMap fun (i, o) => let v := val i o.sub; leBytes 2 i ++ ([byteOf o.sub, byteOf v.length] : Bytes) ++ v

/-- A store image (07 Table 07-6). -/
def imageBytes (gen : Nat) (stamp : Dword) (token : Nat) (entries : Bytes) : Bytes :=
  let h := storeMagic ++ leBytes 4 gen ++ leBytes 2 1 ++ leBytes 2 entries.length ++ leBytes 2 storedRows.length
    ++ ([0, 0] : Bytes) ++ leBytes 8 stamp.toNat ++ leBytes 4 token
  h ++ leBytes 4 (crc32 (h ++ entries)) ++ entries

/-- Entries of an image body: key and value. -/
def parseEntries : Nat → Bytes → List (Nat × Bytes)
  | 0, _ => []
  | n + 1, b =>
    if b.length < 4 then []
    else
      let l := (b.getD 3 0).toNat
      (objKey (leAt b 0 2) (b.getD 2 0).toNat, slice b 4 l) :: parseEntries n (b.drop (4 + l))

namespace Chip

/-- Byte offset of a store slot in the main array. -/
def slotOff (s : Nat) : Nat := blockBytes * (896 + s)

/-- Values overlaid on those in force. -/
def overlaid (c : Chip) (vals : List (Nat × Bytes)) (i s : Nat) : Bytes := (assoc (objKey i s) vals).getD (c.objVal i s)

/-- The stored RO values in force. -/
def roValues (c : Chip) : List (Nat × Bytes) :=
  (storedRows.filter fun x => x.2.acc = .ro).map fun (i, o) => (objKey i o.sub, c.objVal i o.sub)

/-- A pool of values in which later entries win. -/
def joinVals (a b : List (Nat × Bytes)) : List (Nat × Bytes) := b.foldl (fun m e => assocPut e.1 (some e.2) m) a

/-- Values of commits that wait for their crossing: the image in force holds them (07 R324). -/
def waitingVals (c : Chip) : List (Nat × Bytes) := c.cat.crossing.foldl (fun m x => joinVals m x.vals) []

/-- The slot the next image needs is erased and no image is being written (07 R330). -/
def storeFree (c : Chip) : Bool := c.cat.job.isNone && c.cat.nextErased

/-- An image that may not be programmed: PFW_N (05 R229) or a retired slot (07 Table 07-10). -/
def storeRefused (c : Chip) : Bool := c.clk.pfw || c.retired (896 + c.nextSlot)

/-- An image is built and its program queued (07 R337). -/
def startImage (why : JobWhy) (vals : List (Nat × Bytes)) (token : Nat) (c : Chip) : Chip :=
  let all := joinVals c.waitingVals vals
  let img := imageBytes ((c.cat.gen + 1) % 4294967296) c.stamp token (imageEntries (c.overlaid all))
  (c.modCat fun t => { t with job := some { why, vals, ro := c.roValues, image := img } }).modCns fun k =>
    { k with queue := k.queue ++ [.catImage] }

/-- The image has verified: it is in force, and the slot of the next one is to be erased (07 R337, R338). -/
def imageInForce (j : CatJob) (c : Chip) : Chip :=
  let slot := c.nextSlot
  let now := c.roValues
  let diff (p : Nat → Bool) : Bool := now.any fun e => p e.1 && assoc e.1 j.ro != some e.2
  let c := (c.putFlash (slotOff slot) j.image).modCat fun t => { t with
    gen := (t.gen + 1) % 4294967296, slot := some slot, noImage := false, size := j.image.length, nextErased := false
    job := none, dirtyFast := diff fastKey, dirtySlow := diff fun k => !fastKey k, lastSlow := c.clk.raw }
  c.modCns fun k => { k with queue := k.queue ++ [.catErase c.nextSlot] }

/-- The image failed: its slot is to be erased again. -/
def imageFailed (c : Chip) : Chip :=
  let c := c.modCat fun t => { t with job := none, nextErased := false }
  c.modCns fun k => { k with queue := (k.queue.filter fun o => o != .catImage && o != .catRead) ++ [.catErase c.nextSlot] }

/-! ## Loading (07 R303, R335, R339, R340) -/

/-- Header and entries of a slot, if it is sound: generation, token, entry bytes. -/
def slotImage (c : Chip) (s : Nat) : Option (Nat × Bytes) :=
  let off := slotOff s
  let h := c.flashBytes off 32
  let n := leAt h 10 2
  if c.flashBad off 32 ∨ h.take 4 ≠ storeMagic ∨ blockBytes < 32 + n then none
  else
    let e := c.flashBytes (off + 32) n
    if c.flashBad (off + 32) n ∨ crc32 (h.take 28 ++ e) ≠ leAt h 28 4 then none else some (leAt h 4 4, e)

/-- Slots that are not empty and hold no sound image. -/
def badSlots (c : Chip) : Nat :=
  ((List.range 32).filter fun s => !c.retired (896 + s) && !c.blockBlank (896 + s) && (c.slotImage s).isNone).length

/-- The image in force: slot, generation, entries. -/
def bestImage (c : Chip) : Option (Nat × Nat × Bytes) :=
  ((List.range 32).filterMap fun s =>
    if c.blockBlank (896 + s) then none else (c.slotImage s).map fun x => (s, x.1, x.2)).foldl
    (fun b x => match b with
      | none => some x
      | some y => if y.2.1 < x.2.1 then some x else some y) none

/-- The values of an image that the engine defines, of the right length. -/
def imageVals (e : Bytes) : List (Nat × Bytes) :=
  (parseEntries e.length e).filter fun x =>
    storedRows.any fun (i, o) => objKey i o.sub = x.1 && o.ty.bytes = x.2.length

/-- What the load reads of the slots that are not empty. -/
def touchStore (c : Chip) : Chip :=
  (List.range 32).foldl (fun (d : Chip) s =>
    if c.retired (896 + s) || c.blockBlank (896 + s) then d
    else
      let h := c.flashBytes (slotOff s) 32
      d.touchFlash (slotOff s) (if h.take 4 = storeMagic then min blockBytes (32 + leAt h 10 2) else 32)) c

/-- The store is loaded (12 Table 12-5 step 9): every stored object from the image in force, or its Default. -/
def loadStore (c : Chip) : Chip :=
  let bad := c.badSlots
  let c : Chip := if bad = 0 then c else
    (c.modRgr fun r => { r with crcFails := r.crcFails + bad }).secEvent 4 1 (sat24 (c.rgr.crcFails + bad))
  let best := c.bestImage
  let c : Chip := c.touchStore
  let c : Chip := match best with
    | some (s, g, e) =>
      let c := c.modCat fun t => { t with gen := g, slot := some s, noImage := false, size := 32 + e.length }
      let leap : Bool := (imageVals e).any fun x => x.1 = objKey 0x2030 2 || x.1 = objKey 0x2030 3
      ((imageVals e).foldl (fun (c : Chip) x => c.setVal (x.1 / 256) (x.1 % 256) x.2) c).when leap (modTime fun t =>
        { t with leapWritten := true })
    | none => (c.modCat fun t => { t with gen := 0, slot := none, noImage := true, size := 0 }).noteFinding 0x13
  let blank : Bool := c.blockBlank (896 + c.nextSlot)
  let c := c.modCat fun t => { t with loaded := true, nextErased := blank, lastSlow := c.clk.raw }
  if blank then c else c.modCns fun k => { k with queue := k.queue ++ [.catErase c.nextSlot] }

end Chip

end Sys2Proof.Machine
end

