-- ==== Sys2Proof/Machine/StartOps.lean ====
section
/-! DEFINITION. Starts (12): the words of the information area, image checks, the Cold start, CURREL, confirmation, Reserve
mode, and what a Curator reset does to the chip. -/

namespace Sys2Proof.Machine

open Sys2Proof

/-! ## Start-attempt values (12 Table 12-2) -/

structure StartWord where
  cs : Nat
  rs : Nat
  cf : Nat
  cw : Bool
  rf : Nat
  rw : Bool
  isOpen : Bool
  ropen : Bool
  override : Bool
  rsv : Nat
  serial : Nat
  deriving DecidableEq, Repr

def startFields (v : Nat) : StartWord :=
  { cs := bitsOf v 0 0, rs := bitsOf v 1 1, cf := bitsOf v 3 2, cw := v.testBit 4, rf := bitsOf v 6 5, rw := v.testBit 7
    isOpen := v.testBit 8, ropen := v.testBit 9, override := v.testBit 10, rsv := bitsOf v 12 11, serial := bitsOf v 31 13 }

def startValue (w : StartWord) : Nat :=
  w.cs % 2 + 2 * (w.rs % 2) + 4 * (w.cf % 4) + 16 * bit w.cw + 32 * (w.rf % 4) + 128 * bit w.rw + 256 * bit w.isOpen
  + 512 * bit w.ropen + 1024 * bit w.override + 2048 * (w.rsv % 4) + 8192 * (w.serial % 524288)

/-- A start that a failed one may be counted by (12 R520). -/
def countedCause (cause : Nat) : Bool := cause = 1 || cause = 2 || cause = 3 || cause = 0x12

/-! ## Images (11 Table 11-4) -/

/-- Slot of a kind (1 Curator, 2 Registrar): offset in the main array and size. -/
def slotBase (kind slot : Nat) : Nat := if kind = 1 then 0x100000 * slot else 0x200000 + 0x40000 * slot
def slotSize (kind : Nat) : Nat := if kind = 1 then 0x100000 else 0x40000

/-- The header's fields are those of 11 Table 11-4 (status 0x10). -/
def headerOk (h : Bytes) : Bool :=
  let n := (h.getD 22 0).toNat
  slice h 0 4 == ([0x45, 0x46, 0x49, 0x4C] : Bytes) && h.getD 4 0 == 1 && (h.getD 5 0 == 1 || h.getD 5 0 == 2)
  && allZero (slice h 6 2) && h.getD 23 0 == 0 && allZero (slice h 60 4) && allZero (slice h 160 32)
  && n ≤ 8 && allZero (slice h (24 + 4 * n) (32 - 4 * n))
  && leAt h 56 4 % 2 = 0 && leAt h 56 4 < leAt h 12 4

def hdrVersion (h : Bytes) : Nat := leAt h 8 4
def hdrBody (h : Bytes) : Nat := leAt h 12 4
def hdrEntry (h : Bytes) : Nat := leAt h 56 4
def hdrTested (h : Bytes) : List Nat := (List.range (h.getD 22 0).toNat).map fun i => leAt h (24 + 4 * i) 4
def hdrSchema (h : Bytes) : Bool := leAt h 18 2 ≤ 1 && 1 ≤ leAt h 20 2

/-- A tested pairing (12 R531). -/
def testedPair (a b : Bytes) : Bool :=
  ((hdrTested a).contains (hdrVersion b) || (hdrTested b).contains (hdrVersion a)) && hdrSchema a && hdrSchema b

namespace Chip

/-- Serial, object 0x1000.04. -/
def serial (c : Chip) : Bytes := c.otpBytes 3 0 8

/-- A region 4 hash entry: 0–3 image keys, 4–7 loan issuers (13 R551). -/
def hashEntry (c : Chip) (i : Nat) : Bytes := c.otpBytes 4 (32 * i) 32
def hashUsed (c : Chip) (i : Nat) : Bool := !allZero (c.hashEntry i) && !allOnes (c.hashEntry i)

/-- The entry stands for a key: as it was sensed at the Cold start, and still (13 R562, R564). -/
def hashTrusts (c : Chip) (i : Nat) (key : Bytes) : Bool :=
  c.hashUsed i && c.hashEntry i == Crypto.sha256 key && c.otpUsed 4 (32 * i) 32 == c.hashEntry i

/-- The header of a slot. -/
def slotHeader (c : Chip) (kind slot : Nat) : Bytes := c.flashBytes (slotBase kind slot) 256

/-- What the checks of a slot read: the header and, with a sound header, the body. -/
def touchSlot (kind slot : Nat) (c : Chip) : Chip :=
  let h := c.slotHeader kind slot
  c.touchFlash (slotBase kind slot) (if headerOk h then min (slotSize kind) (256 + hdrBody h) else 256)

/-- The checks of 11 Table 11-5 over a slot, in the order of R499, up to 0x15: the first status that fails, or 0. `want`:
bytes received, when they bind the length. -/
def checkSlot (c : Chip) (kind slot : Nat) (want : Option Nat) : Nat :=
  let h := c.slotHeader kind slot
  let n := hdrBody h
  if !headerOk h then 0x10
  else if (h.getD 5 0).toNat ≠ kind ∨ slotSize kind < n + 256 ∨ (want.getD (n + 256) ≠ n + 256) then 0x14
  else if !((List.range 4).any fun i => c.hashTrusts i (slice h 64 64)) then 0x11
  else
    let key := slice h 64 64
    let sig := slice h 192 64
    if !Crypto.onCurve (beNat (key.take 32)) (beNat (key.drop 32)) ∨ !Crypto.sigInRange sig
        ∨ !Crypto.ecdsaVerify key (Crypto.sha256 (h.take 192)) sig then 0x13
    else if Crypto.sha256 (c.flashBytes (slotBase kind slot + 256) n) ≠ slice h 128 32 then 0x12
    else if Config.romRev.toNat < leAt h 16 2 then 0x15
    else 0

/-! ## Words of the information area (05 R196 to R198, 12 R516 to R519) -/

/-- The fields in force for the next word: those of the last word that waits to be written, or of the word in force. -/
def startWord (c : Chip) : StartWord := startFields (c.start.wordsHeld.getLast?.getD c.start.word)

/-- The store is exhausted (12 R519), the words that wait counted. -/
def wordsOut (c : Chip) : Bool := c.startWord.serial = 0x7FFFF

/-- The value of the next word (12 R517). -/
def nextWord (w : StartWord) (c : Chip) : Nat := startValue { w with serial := c.startWord.serial + 1 }

/-- A start-attempt word of a Cold start: the array is free, and the word is in force at the command's end. -/
def putStartWord (w : StartWord) (c : Chip) : Chip :=
  if c.wordsOut then c
  else
    let v := c.nextWord w
    ((c.modWin .registrar fun x => { x with res := 4 }).putWord 0 v 0).wordInForce v none

/-- The array and the Registrar's window are free of any other operation. -/
def wordNow (c : Chip) : Bool :=
  c.cns.run.isNone && c.cns.susp.isNone && c.cns.rjobs = [] && !c.cns.queue.any (fun o => opWindow o = some .registrar)

/-- A start-attempt word, a command of the Registrar's window (12 R518), and what waits for it. With the array and the window free it is
written at once; else it waits its turn. Under PFW_N it is refused with 0x12 and written later: the release of the Curator does not wait
for that, a reset does (log 74). -/
def writeStartWord (w : StartWord) (after : Option Ask) (c : Chip) : Chip :=
  let go (c : Chip) : Chip := match after with | some a => c.ask a | none => c
  if c.wordsOut then go c
  else if c.wordNow && !c.clk.pfw then go (c.putStartWord w)
  else
    let v := c.nextWord w
    let c := c.modStart fun s => { s with wordsHeld := s.wordsHeld ++ [v] }
    if c.clk.pfw ∧ after = some .release then go (c.addJob (.startWord v none none)) else c.addJob (.startWord v none after)

/-! ## Modes and findings -/

/-- Object 0x1010.01 (12 R537). -/
def startReason (c : Chip) : Nat := if c.start.found = 0 then c.start.cause else c.start.found

/-- A new mode, with host notice 2 (08 Table 08-8). -/
def setMode (m : Nat) (c : Chip) : Chip :=
  if c.start.mode = m then c
  else (c.modStart fun s => { s with mode := m }).modHost fun h => { h with notices := h.notices ||| 4 }

/-- Rights in force, DBG_RIGHTS (13 R569). -/
def openLife (c : Chip) : Bool := c.start.life = .blank || c.start.life = .factory || c.start.life = .provision
def rights (c : Chip) : Nat := if c.openLife then 0x7FFF else c.dbg.loaned.toNat
def right (c : Chip) (b : Nat) : Bool := c.rights.testBit b

/-! ## Vitrine sets (16 R699, R700) -/

def region (base lim perm : Nat) (lock : Bool) : Region :=
  { base := BitVec.ofNat 32 base, lim := BitVec.ofNat 32 lim, perm := BitVec.ofNat 32 perm, en := true, lock }

/-- The start set of 16 Table 16-5. Rights nibbles: A 1, R 2, W 4, X 8; initiator i at bit 4i. -/
def startSet : List Region := [
  region 0x10000000 0x100FFFFF 0x0700000F false, region 0x20000000 0x21003FFF 0x0300000B false,
  region 0x20280000 0x2067FFFF 0x03300003 false, region 0x206FC000 0x206FFFFF 0x03300003 false,
  region 0x11000000 0x1101FFFF 0x03300003 false, region 0x30000000 0x30000FFF 0x03300003 false,
  region 0x40000000 0x40011FFF 0x07000007 false]

/-- The base set of 16 Table 16-4, regions 24 to 31, locked. -/
def baseSet : List Region := [
  region 0x00000000 0x00017FFF 0xB0 true, region 0x10000000 0x100FFFFF 0x30 true,
  region 0x11000000 0x1101FFFF 0x30730 true, region 0x12000000 0x1201FFFF 0xF0 true,
  region 0x20000000 0x207FFFFF 0x300B0 true, region 0x21000000 0x21003FFF 0x30030 true,
  region 0x30000000 0x30000FFF 0x30 true, region 0x40000000 0x40011FFF 0x3070 true]

/-- Regions 0 to 15 take the start set. -/
def loadStartSet (c : Chip) : Chip :=
  c.modVit fun v => { v with regions := Vector.ofFn fun n =>
    if n.val < 16 then (startSet[n.val]?).getD {} else v.regions[n] }

/-- The Plinth enables the Vitrine: regions 24 to 31, EN, and the start set. -/
def loadBaseSet (c : Chip) : Chip :=
  (c.modVit fun v => { v with en := true, regions := Vector.ofFn fun n =>
    if 24 ≤ n.val then (baseSet[n.val - 24]?).getD {} else v.regions[n] }).loadStartSet

/-! ## Curator reset, for the chip (01 R32, R40) -/

/-- Every register field that is not kept takes its Warm value; the mailbox empties (11 R507). The Curator's exception
registers for which 16 Tables 16-9 and 16-10 give no Warm value are cleared with the others, and so is its latched power warning
(the model's choices, log 65). -/
def warmReset (c : Chip) : Chip :=
  let flushed := c.cat.mbox
  let cur (r : Reply) : Bool := r == .curator || r == .debug
  let c := c.cnsCurReset
  let c := c.modAcc fun a => { a with irq := 0, irqen := 0, postRef := false, postUntil := 0, postSrc := 0, postDat := 0 }
  let c := c.modOrd fun o => { o with irq := 0, irqen := 0 }
  let c := c.modVlt fun v => { v with
    irq := 0, irqen := 0, cch := {}
    slots := Vector.ofFn fun n => match v.slots[n] with
      | some k => if 9 ≤ n.val && !k.attr.getLsbD 15 then none else some k
      | none => none
    jobs := (v.jobs.filter fun j => j.ch != .curator || v.cch.res = 2 || j.orphan).map fun j =>
      if j.ch = .curator then { j with orphan := true } else j
    writes := v.writes.map fun w => match w with
      | .load j => .load { j with orphan := true }
      | .clear j => .clear { j with orphan := true }
      | w => w }
  let c := c.modTrn fun t => { t with irq := 0, irqen := 0, under := false }
  let c := c.modCat fun t => { t with
    irq := 0, irqen := 0, fwReady := false, cch := {}, kch := {}, mbox := []
    reqs := t.reqs.filter fun r => !cur r.reply }
  let c := c.modHost fun h => { h with irq := 0, irqen := 0 }
  let c := c.modCan fun n => { n with a := { n.a with irq := 0, irqen := 0 }, b := { n.b with irq := 0, irqen := 0 } }
  let c := c.modTw fun t => { t with irq := 0, irqen := 0 }
  let c := c.modTag fun t => { t with irq := 0, irqen := 0 }
  let c := c.modRgr fun r => { r with
    rmbIrq := 0, rmbIrqen := 0, anId := 0, anCode := 0, anLen := 0, anData := [], wdRun := false, wdHalf := false
    wdPaused := none, win := none, winPaused := none }
  let c := c.modDbg fun d => { d with
    loaned := 0, chal := none, result := 0, creg := 0, bps := Vector.replicate 4 0, bpen := 0, loanBuf := [], busyHid := true, entHid := true }
  let c := c.modVit fun v => { v with cur := { ncount := v.cur.ncount } }
  let c := c.modBus fun b => { b with
    latches := b.latches.filter fun e => 4294967296 ≤ e.1, staged := b.staged.filter fun e => 4294967296 ≤ e.1 }
  let c := c.modStart fun s => { s with confirmed := false }
  flushed.foldl (fun c r => c.deliver r.reply r.write (.abort 0xC00E)) c

/-- A Curator reset with its cause (12 Table 12-1, R514; 11 R477). -/
def curReset (cause : Nat) (c : Chip) : Chip :=
  ((c.warmReset).modStart fun s => { s with cause, found := 0, resetTick := c.clk.raw, timer := some c.rcNow }).modRgr fun r =>
    { r with wdo := r.wdo || cause = 2 || cause = 3 }

/-- A Curator reset is possible once the Registrar image runs and outside Reserve mode. -/
def askCurReset (cause : Nat) (c : Chip) : Chip := if c.start.regIn && c.start.mode != 2 then c.ask (.curReset cause) else c

/-! ## Reserve mode (12 R538, R539) -/

/-- Entry to Reserve mode with a reason; `w`: the word to latch; `atStart`: in a Cold start. -/
def enterReserve (reason : Nat) (w : Option StartWord) (atStart : Bool) (c : Chip) : Chip :=
  if c.start.mode = 2 then c
  else
    let c := ((c.noteFinding reason).setMode 2).modStart fun s => { s with timer := none, reserve14 := reason = 0x14, confirmed := false }
    let c := (c.endAll 0x25).modRgr fun r => { r with wdo := true, wdRun := false, win := none, winPaused := none }
    let c := (c.loadStartSet).modCat fun t => { t with fwReady := false }
    let c := c.modTag fun t => { t with placardDue := true }
    let c := match w with
      | some w =>
        let w := { w with rsv := if reason = 0x20 then 1 else 2, isOpen := false, ropen := false }
        if atStart then c.putStartWord w else c.writeStartWord w none
      | none => c
    c.ask .holdCurator

/-! ## OTP sensing and the life-cycle (13 R553 to R566; 12 R543) -/

/-- A sensing pass: the fuses with the pass's bit errors. -/
def senseWith (fuses : Cells) (err : SenseErr) : Cells :=
  err.foldl (fun m e => if e.1 < 4096 then m.put 0 e.1 (m.get 0 e.1 ^^^ e.2) else m) fuses

/-- Regions in which the shadows differ. -/
def shadowDiff (c : Chip) : Nat :=
  maskOf ((List.range 16).filter fun r => c.otp.shadowA.read 0 (256 * r) 256 != c.otp.shadowB.read 0 (256 * r) 256)

def sensePass (e : SenseErr × SenseErr) (c : Chip) : Chip :=
  c.modOtp fun o => { o with shadowA := senseWith o.fuses e.1, shadowB := senseWith o.fuses e.2 }

/-- Up to three re-senses while the shadows differ, each with its record. -/
def resense : Nat → Nat → Sensing → Chip → Chip
  | 0, _, _, c => c
  | n + 1, k, es, c =>
    let d := c.shadowDiff
    if d = 0 then c
    else resense n (k + 1) (es.drop 1) ((c.sensePass (es.headD ([], []))).secEvent 9 k d)

/-- One sensing and the re-senses it needs. -/
def senseAll (es : Sensing) (c : Chip) : Chip := resense 3 1 (es.drop 1) (c.sensePass (es.headD ([], [])))

/-- Byte of region 0. -/
def pairState (c : Chip) (k : Nat) : Nat :=
  let a := c.otpByte (4 * k)
  let b := c.otpByte (0x20 + 4 * k)
  if a = 0x5A ∧ b = 0xA5 then 1 else if a = 0 ∧ b = 0 then 0 else 2

/-- The life-cycle state that shadow A decodes to (13 R565, R566). -/
def decodeLife (c : Chip) : Life :=
  match (List.range 5).map c.pairState with
  | [0, 0, 0, 0, 0] => .blank
  | [1, 0, 0, 0, 0] => .factory
  | [1, 1, 0, 0, 0] => .provision
  | [1, 1, 1, 0, 0] => .field
  | [1, 1, 1, 1, 0] => .retd
  | [1, 1, 1, 1, 1] => .scrap
  | _ => .lost

/-- State code of 13 Table 13-3. -/
def lifeCode : Life → Nat
  | .blank => 0 | .factory => 1 | .provision => 2 | .field => 3 | .retd => 4 | .scrap => 5 | .lost => 0xFF

/-! ## The Cold start (12 Table 12-5) -/

/-- The device at the start of a Cold start: Cold values, with what a reset does not touch. -/
def coldChip (cause : Nat) (c : Chip) : Chip :=
  let fresh : Chip := {}
  { fresh with
    clk := { c.clk with raw := 0, running := true, startHeld := false, resetDeferred := false }
    mem := if cause = 0 then { c.mem with curSram := [], regSram := [] } else c.mem
    otp := { fuses := c.otp.fuses }
    acc := { fresh.acc with rawBi := c.acc.rawBi }
    ord := { fresh.ord with pads := c.ord.pads, armLowSince := c.ord.armLowSince.map fun _ => 0 }
    tag := { c.tag with sessions := 0, auths := 0, failed := 0, wtxs := 0, irq := 0, irqen := 0, waitCat := none, placard := none
                        placardTick := 0, placardDue := false }
    gpio := { fresh.gpio with pins := c.gpio.pins }
    rgr := { fresh.rgr with t1 := c.rgr.t1, t2 := c.rgr.t2, supply := c.rgr.supply, brownRail := c.rgr.brownRail }
    start := { fresh.start with cause } }

/-- Step 12: the word in force is judged, and the Registrar image entered or Reserve mode taken (12 R521 to R523). -/
def chooseRegistrar : Nat → StartWord → Chip → Chip
  | 0, _, c => c
  | n + 1, w, c =>
    if w.rf = 3 ∧ !c.wordsOut ∧ w.rw then c.enterReserve 0x21 (some w) true
    else
      let w := if w.rf = 3 ∧ !c.wordsOut then { w with rs := 1 - w.rs, rf := 0, rw := true } else w
      let c := c.touchSlot 2 w.rs
      if c.checkSlot 2 w.rs none ≠ 0 then
        let c := c.noteFinding 0x10
        if c.wordsOut then c.enterReserve 0x21 none true else chooseRegistrar n { w with rf := 3 } c
      else
        let c := (c.putStartWord { w with ropen := true }).loadBaseSet
        (c.modStart fun s => { s with
          regIn := true, slotReg := w.rs, regVer := hdrVersion (c.slotHeader 2 w.rs), timer := some c.rcNow }).ask .enterRegistrar

def startImage12 (c : Chip) : Chip :=
  let w := startFields c.start.word
  if w.rsv ≠ 0 ∧ !c.wordsOut then c.enterReserve (if w.rsv = 1 then 0x20 else 0x21) none true
  else if c.start.reserve14 then c.enterReserve 0x14 none true
  else
    let counted : Bool := w.ropen && countedCause c.start.cause && !c.wordsOut
    let w := if counted then { w with rf := min (w.rf + 1) 3 } else w
    let c := if counted ∧ w.rf = 3 then c.noteFinding 0x12 else c
    chooseRegistrar 4 w c

/-- Step 11: the ports open with the stored settings (08 R351, R358; 09 R385, R386, R408). -/
def openPorts (c : Chip) : Chip :=
  let can (idx : Nat) (k : CanCtl) : CanCtl :=
    if c.cfgB idx 0x10 then { k with
        en := true, restricted := c.cfg idx 0x11 = 1, st := 4, brs := c.cfgB idx 0x12, tdcOffset := c.cfg idx 0x1B
        timing := (List.range 8).map fun i => c.cfg idx (0x13 + i) }
    else k
  let c := c.modHost fun h => { h with open_ := true, quad := c.cfg 0x7000 1 = 1, idleSince := c.clk.raw }
  let c := c.modCan fun n => { n with
    open_ := true, node := c.cfg 0x7100 1, base := c.cfg 0x7100 2, ebase := c.cfg 0x7100 3
    a := can 0x7100 n.a, b := can 0x7110 n.b }
  c.modTw fun t => { t with
    open_ := true, addr := c.cfg 0x7200 1, filter := c.cfg 0x7200 3, holdT := c.cfg 0x7200 4, setup := c.cfg 0x7200 5 }

/-- Outputs take their rest level once the pipeline is enabled (17 R710). -/
def restOutputs (c : Chip) : Chip := (List.finRange 8).foldl (fun c n => c.setDrive n (c.restDrive n)) c

/-- Steps 5 to 12, held while PFW_N is asserted (12 R546). -/
def coldRest (c : Chip) : Chip :=
  if c.clk.pfw then c.modClk fun k => { k with startHeld := true }
  else
    let c := (c.modClk fun k => { k with startHeld := false }).loadGrown.syncGrown
    let c := c.when (c.pool.length < 10) (alert 32)
    -- every pool block that is not erased is to be erased (05 R206)
    let dirty := c.pool.filter fun p => !c.physBlank p
    let c := c.modCns fun k => { k with queue := k.queue ++ dirty.map .poolErase }
    let scan := c.journalScan
    let c := c.touchJournal scan
    let epoch := (match c.areaBest 1 with | some (_, v) => v | none => 0) + 1
    let word := match c.areaBest 0 with | some (_, v) => v | none => 0
    let c := c.modStart fun s => { s with word, exh := (startFields word).serial = 0x7FFFF }
    let c := (c.putWord 1 epoch c.cns.epochFaults).modAcc fun a => { a with epoch }
    let c := (c.vaultStart c.vlt.heldCeil).loadStore
    -- a policy that OTP region 5 locks, or the one of the image in force (07 R345, 12 R533)
    let lock := (c.otpByte 0x500).toNat % 4
    let c := c.modStart fun s => { s with policy := if lock = 0 then c.cfg 0x1F10 1 else if lock = 2 then 1 else 0 }
    let c := ((c.epochStart scan).restOutputs.ledgerStart.touchFlash (blockBytes * 894) (2 * blockBytes)).placardSeen
    c.openPorts.startImage12

/-- A Cold start (12 Table 12-5): steps 1 to 4, then the rest; LOST and SCRAP open only their two ports (12 R544, 13
R570). -/
def coldStart (cause : Nat) (env : StartEnv) (c : Chip) : Chip :=
  let brown := c.rgr.brownRail
  let c := (c.coldChip cause).modVlt fun v => { v with keyFaults := env.keyFaults, heldCeil := env.heldCeilings }
  let c := (c.modVit fun v => { v with parityFaults := env.busFaults }).modCns fun k => { k with epochFaults := env.epochFaults }
  let c := c.modRgr fun r => { r with backup := !env.pllLocked, brownRail := none }
  let c := if env.pllLocked then c else ((c.modRgr fun r => { r with pllFaultSeen := true }).healthEvent 2 1 0).pllFault
  let c := match brown with | some r => c.powerEvent 4 r 0 | none => c
  let c := c.senseAll env.sensing
  let life := c.decodeLife
  if c.clk.testmode ∧ (life = .blank ∨ life = .factory) then c.modClk fun k => { k with running := false }
  else
    let c := (c.modStart fun s => { s with life, reserve14 := c.shadowDiff != 0 }).when (c.shadowDiff != 0) (noteFinding 0x14)
    if life = .lost ∨ life = .scrap then
      ((c.when (life = .lost) (noteFinding 0x16)).modHost fun h => { h with open_ := true, idleSince := c.clk.raw }).modTw fun t =>
        { t with open_ := true }
    else c.coldRest

/-! ## CURREL (12 R524 to R536) -/

/-- The pairing of a Curator header with the running Registrar image: 0 tested, 1 under TOLERANT, 2 by override, none
refused. -/
def pairing (c : Chip) (h : Bytes) (override : Bool) : Option Nat :=
  if testedPair h (c.slotHeader 2 c.start.slotReg) then some 0
  else if override then some 2
  else if c.start.policy = 1 then some 1
  else none

/-- The loop of CURREL: the word as decided and the pairing, or Reserve mode (12 R524). -/
def chooseCurator : Nat → StartWord → Chip → (Option (StartWord × Nat)) × Chip
  | 0, _, c => (none, c)
  | n + 1, w, c =>
    if w.cf = 3 ∧ !c.wordsOut ∧ w.cw then (none, c.enterReserve 0x20 (some w) false)
    else
      let sw : Bool := w.cf = 3 && !c.wordsOut
      let w := if sw then { w with cs := 1 - w.cs, cf := 0, cw := true } else w
      let c := if sw then c.healthEvent 9 (1 + 16 * w.cs + 32) (hdrVersion (c.slotHeader 1 w.cs) % 16777216) else c
      let c := c.touchSlot 1 w.cs
      let h := c.slotHeader 1 w.cs
      let bad : Bool := c.checkSlot 1 w.cs none != 0
      match (if bad then none else c.pairing h w.override) with
      | some p => (some (w, p), c)
      | none =>
        let c := c.noteFinding (if bad then 0x10 else 0x11)
        if c.wordsOut then (none, c.enterReserve 0x20 none false) else chooseCurator n { w with cf := 3 } c

/-- The Registrar image calls CURREL. -/
def currel (c : Chip) : Chip :=
  if !c.start.regIn ∨ c.start.timer.isNone ∨ c.start.mode = 2 then c
  else
    let w := c.startWord
    let counted : Bool := w.isOpen && countedCause c.start.cause && !c.wordsOut
    let w := if counted then { w with cf := min (w.cf + 1) 3 } else w
    let c := (c.modStart fun s => { s with timer := none }).when (w.cf = 3 && !c.wordsOut) (noteFinding 0x12)
    let r := chooseCurator 4 { w with ropen := false, rf := 0, rw := false } c
    match r.1 with
    | none => r.2
    | some (w, p) =>
      let c := r.2
      let c := if p = 0 then c else
        ((c.modStart fun s => { s with untested := true }).modAcc fun a => { a with untested := true }).secEvent 0xA (if p = 2 then 2 else 1) (c.start.regVer % 16777216)
      (c.modStart fun s => { s with
        pairing := if p = 1 then 1 else p, slotCur := w.cs, curVer := hdrVersion (c.slotHeader 1 w.cs) }).writeStartWord
          { w with isOpen := true, override := false } (some .release)

/-- The chip's part of the Curator's release (12 R526; 11 R478; 16 R700). -/
def releaseChip (c : Chip) : Chip :=
  let c := (c.setMode 1).loadStartSet
  let c := c.modStart fun s => { s with confirmed := false, relTime := (c.clk.raw - s.resetTick) / 400 }
  let c := c.modRgr fun r => { r with
    win := some (c.rcNow, ticksMs (c.cfg 0x1010 6)), winPaused := none, wdPaused := none, wdHalf := false
    wdRun := true, wdLast := c.rcNow }
  c.modTag fun t => { t with placardDue := true }

/-- RC time left in the confirm window, in ticks. -/
def winLeft (c : Chip) : Nat :=
  match c.rgr.winPaused, c.rgr.win with
  | some n, _ => n
  | none, some (t, n) => n - (c.rcNow - t)
  | none, none => 0

/-- SYS_STATUS.WINOPEN. -/
def winOpen (c : Chip) : Bool := c.winLeft != 0

/-- A write of SYS_CONFIRM (12 R528, R529). -/
def confirm (i : Init) (v : Byte) (c : Chip) : Chip :=
  if i ≠ .curator ∨ v ≠ 0xC3 ∨ !c.winOpen then c
  else
    let c := c.modStart fun s => { s with confirmed := true }
    let c := c.modRgr fun r => { r with win := none, winPaused := none, wdo := false }
    let c := (c.modCat fun t => { t with fwReady := true }).modHost fun h => { h with notices := h.notices ||| 4 }
    let w := c.startWord
    c.writeStartWord { w with isOpen := false, cf := 0, cw := false } none

/-- The confirm window has run out without confirmation (12 R530). -/
def confirmClose (c : Chip) : Chip :=
  match c.rgr.win with
  | some (t, n) => if n ≤ c.rcNow - t then c.askCurReset 0x12 else c
  | none => c

/-- The start timer expires (12 R514). -/
def startExpiry (env : StartEnv) (c : Chip) : Chip :=
  match c.start.timer with
  | some t => if ticksMs 200 ≤ c.rcNow - t then c.ask (.cold 0x12 env) else c
  | none => c

/-- A retry (12 R541), from Reserve mode. -/
def retryStart (override : Bool) (env : StartEnv) (c : Chip) : Chip :=
  let w := c.startWord
  c.writeStartWord { w with rsv := 0, cf := 0, cw := false, rf := 0, rw := false, override := w.override || override }
    (some (.cold 4 env))

/-- Activation of a slot of a kind (11 R500, 12 R541): that kind's counts, and its latch, are cleared; and what waits for its word. -/
def activateSlot (kind slot : Nat) (after : Option Ask) (c : Chip) : Chip :=
  let w := c.startWord
  let w := if kind = 1 then { w with cs := slot, cf := 0, cw := false } else { w with rs := slot, rf := 0, rw := false }
  c.writeStartWord { w with rsv := if w.rsv = kind then 0 else w.rsv } after

end Chip

end Sys2Proof.Machine
end

