-- ==== Sys2Proof/Machine/RgrOps.lean ====
section
/-! DEFINITION. The Registrar's watch (11): sensors, alerts, the PLL, the watchdog and the mailbox to the Curator. -/

namespace Sys2Proof.Machine

open Sys2Proof

namespace Chip

/-! ## Sensors (11 Table 11-1) -/

/-- A temperature warning is raised or cleared; `k`: die 1, die 2, disagreement, external. Data in °C. -/
def tempEvent (k : Fin 4) (up : Bool) (deg : Int) (c : Chip) : Chip :=
  (c.modRgr fun r => { r with warn := r.warn.set k up }).healthEvent (if up then 0 else 1) k.val (encInt 16 deg)

/-- One die sensor: at 120 °C and above the warning is raised, below 115 °C it clears. -/
def dieSample (k : Fin 4) (t : Int) (c : Chip) : Chip :=
  if 120 ≤ t ∧ !c.rgr.warn[k] then c.tempEvent k true t
  else if t < 115 ∧ c.rgr.warn[k] then c.tempEvent k false t
  else c

/-- The 10 ms sample of both die sensors in °C (11 R471; objects 0x8000.04 to .06, Table 11-11 byte 1). -/
def temperatureSample (t1 t2 : Int) (c : Chip) : Chip :=
  let apart : Bool := 10 < (t1 - t2).natAbs
  let c := c.modRgr fun r => { r with
    t1, t2, tMaxCold := max r.tMaxCold (max t1 t2)
    disSince := if apart then some (r.disSince.getD c.clk.raw) else none
    warn := if apart then r.warn else r.warn.set 2 false }
  let hot := max t1 t2
  let c : Chip := if c.cfgI 0x8000 6 < hot then
      (c.setNum 0x8000 6 (encInt 16 hot)).modCat fun t => { t with dirtySlow := true }
    else c
  (c.dieSample 0 t1).dieSample 1 t2

/-- The die sensors have differed by more than 10 °C for 10 s. -/
def temperatureDisagreement (c : Chip) : Chip :=
  match c.rgr.disSince with
  | some t =>
    if t + ticksS 10 ≤ c.clk.raw ∧ !c.rgr.warn[2] then
      (c.tempEvent 2 true (Config.disagreeTemp c.clk.free c.rgr.t1 c.rgr.t2)).spend
    else c
  | none => c

/-- The 1 s poll of the external sensor (11 R509), in 1/256 °C; none in Reserve mode (R469). -/
def externalSensorPoll (rd : SensorRead) (c : Chip) : Chip :=
  let addr := c.cfg 0x8000 0xE
  if addr = 0 ∨ c.start.mode = 2 ∨ !c.start.regIn then c
  else match rd with
  | .failed code => c.healthEvent 0xA code.toNat addr
  | .value b0 b1 =>
    let v := decInt 16 (256 * b0.toNat + b1.toNat)
    let deg : Int := v / 256 + (if v % 256 ≠ 0 ∧ Config.tempRoundUp c.clk.free then 1 else 0)
    let c := (c.modRgr fun r => { r with tExt := v }).spend
    if 120 * 256 ≤ v ∧ !c.rgr.warn[3] then c.tempEvent 3 true deg
    else if v < 115 * 256 ∧ c.rgr.warn[3] then c.tempEvent 3 false deg
    else c

/-- Limits of a rail in mV: low and high of the range, low and high of the clearing range. -/
def railLimits (r : Fin 3) : Nat × Nat × Nat × Nat :=
  if r.val = 2 then (1050, 1170, 1060, 1160) else (3050, 3550, 3100, 3500)

/-- A comparator reads a rail in mV. -/
def supplyReading (r : Fin 3) (mV : Nat) (c : Chip) : Chip := c.modRgr fun g => { g with supply := g.supply.set r mV }

def supplyOut (r : Fin 3) (mV : Nat) (c : Chip) : Chip :=
  let l := railLimits r
  let c := c.supplyReading r mV
  if (mV < l.1 ∨ l.2.1 < mV) ∧ !c.rgr.supplyOut[r] then
    (c.modRgr fun g => { g with supplyOut := g.supplyOut.set r true }).powerEvent 2 (r.val + (if l.2.1 < mV then 4 else 0)) (sat24 mV)
  else c

def supplyBack (r : Fin 3) (mV : Nat) (c : Chip) : Chip :=
  let l := railLimits r
  let c := c.supplyReading r mV
  if l.2.2.1 ≤ mV ∧ mV ≤ l.2.2.2 ∧ c.rgr.supplyOut[r] then
    (c.modRgr fun g => { g with supplyOut := g.supplyOut.set r false }).powerEvent 3 r.val (sat24 mV)
  else c

/-- A VCORE dip below 0.95 V of 2 to 1000 ns; the third within 1 s resets the Curator (11 R474). -/
def vcoreGlitch (ns : Nat) (c : Chip) : Chip :=
  if ns < 2 ∨ 1000 < ns then c
  else
    let near := (c.clk.raw :: c.rgr.glitchTicks.filter fun t => c.clk.raw ≤ t + ticksS 1).take 3
    let c := (c.modRgr fun r => { r with glitches := r.glitches + 1, glitchTicks := near }).secEvent 8 0 (sat24 (c.rgr.glitches + 1))
    if near.length = 3 then c.askCurReset 4 else c

/-- The 10 ms window of raw transitions on one BI closes. -/
def biBurst (n : Fin 24) (c : Chip) : Chip :=
  let k := c.acc.bis[n]
  let c := c.modBi n fun b => { b with burst := 0 }
  if k.burst ≤ c.cfg 0x8000 0xC then c
  else
    let limited : Bool := match k.burstRec with | some t => c.clk.raw < t + ticksS 10 | none => false
    if limited then c.alert 16
    else (c.modBi n fun b => { b with burstRec := some c.clk.raw }).healthEvent 4 n.val (sat24 k.burst)

/-! ## The PLL (11 R472, R473) -/

/-- A 100 µs window of the clock monitor: deviation of the PLL from the RC oscillator in 0.01 %, and PLL lock. -/
def clockWindow (dev : Int) (locked : Bool) (c : Chip) : Chip :=
  let far : Bool := 600 < dev.natAbs
  let since : Option Nat := if locked && !far then some (c.rgr.goodSince.getD c.clk.raw) else none
  let c := c.modRgr fun r => { r with clkDev := dev, pllBad := if far then r.pllBad + 1 else 0, goodSince := since }
  if !c.rgr.backup && (!locked || 3 ≤ c.rgr.pllBad) then
    ((c.modRgr fun r => { r with backup := true, pllFaultSeen := true }).healthEvent 2 (if locked then 0 else 1) (encInt 24 dev)).pllFault
  else c

/-- The PLL has been good for 1 s: back from the backup clock. -/
def pllRestore (c : Chip) : Chip :=
  match c.rgr.goodSince with
  | some t =>
    if c.rgr.backup ∧ t + ticksS 1 ≤ c.clk.raw then
      (c.modRgr fun r => { r with backup := false, pllBad := 0 }).healthEvent 3 0 0
    else c
  | none => c

/-- The 100 ms comparison of the OTP shadows (13 R555). The first pair of the sensing is what has become of the shadows
since the last comparison; the others are re-senses. -/
def shadowCompare (es : Sensing) (c : Chip) : Chip :=
  let e := es.headD ([], [])
  let c := c.modOtp fun o => { o with shadowA := senseWith o.shadowA e.1, shadowB := senseWith o.shadowB e.2 }
  let c := resense 3 1 (es.drop 1) c
  if c.shadowDiff ≠ 0 ∧ c.start.regIn then c.enterReserve 0x14 none false else c

/-! ## Alerts (11 R475, R476) -/

/-- Alert bits whose condition holds. -/
def alertsHeld (c : Chip) : Nat :=
  bit (c.rgr.warn.toList.any id) + 2 * bit (c.rgr.supplyOut.toList.any id) + 4 * bit c.rgr.backup
  + 32 * bit (c.pool.length < 10)

/-- A write of object 0x8000.03. -/
def alertClear (bits : Byte) (c : Chip) : Chip :=
  c.modRgr fun r => { r with alerts := (r.alerts &&& ~~~bits) ||| byteOf c.alertsHeld }

/-- ALERT_N is asserted (low). -/
def alertOut (c : Chip) : Bool := (c.rgr.alerts &&& byteOf (c.cfg 0x8000 2)) != 0

/-- 11 Table 11-11. -/
def healthSummary (c : Chip) : Bytes :=
  [c.rgr.alerts, byteOf (encInt 8 (clampInt (-128) 127 c.rgr.tMaxCold)), byteOf (min 255 c.rgr.expiries)
  , byteOf (bit c.rgr.pllFaultSeen + 2 * bit (c.rgr.ledNotAdm ≠ 0) + 4 * bit (c.cns.ded ≠ 0) + 8 * bit (c.pool.length < 10))]

/-! ## The Curator window watchdog (11 R478 to R482) -/

/-- The watchdog runs: enabled, the Curator released and its core not halted. -/
def wdRunning (c : Chip) : Bool := c.rgr.wdRun && c.rgr.wdPaused.isNone && c.cfgB 0x8200 1

/-- RC time since the last kick or release. -/
def wdElapsed (c : Chip) : Nat :=
  match c.rgr.wdPaused with
  | some n => n
  | none => c.rcNow - c.rgr.wdLast

/-- RMB_STATUS.WDOPEN. -/
def wdOpen (c : Chip) : Bool := c.wdRunning && ticksMs (c.cfg 0x8200 2) ≤ c.wdElapsed

/-- The watchdog expires (11 R481); detail 0 late, 1 early, 2 bad kick. -/
def wdExpire (detail : Nat) (c : Chip) : Chip :=
  ((c.modRgr fun r => { r with
    expiries := r.expiries + 1, badKicks := if detail = 0 then r.badKicks else r.badKicks + 1
    wdRun := false, wdHalf := false, wdo := true }).healthEvent 5 detail 0).askCurReset 2

/-- A write of RMB_WDKICK by the Curator (11 R479, R480). -/
def wdWrite (v : Byte) (c : Chip) : Chip :=
  if !c.wdRunning then c
  else if v = 0x5A ∧ !c.rgr.wdHalf then c.modRgr fun r => { r with wdHalf := true }
  else if v = 0xA5 ∧ c.rgr.wdHalf then
    if c.wdElapsed < ticksMs (c.cfg 0x8200 2) then c.wdExpire 1
    else if ticksMs (c.cfg 0x8200 3) < c.wdElapsed then c.wdExpire 0
    else c.modRgr fun r => { r with wdHalf := false, wdLast := c.rcNow }
  else c.wdExpire 2

/-- The two writes of a kick; only the Curator writes the register (11 R510). -/
def wdKick (i : Init) (a b : Byte) (c : Chip) : Chip := if i = .curator then (c.wdWrite a).wdWrite b else c

/-- No kick has completed within the window close time. -/
def wdTimeout (c : Chip) : Chip :=
  if c.wdRunning && ticksMs (c.cfg 0x8200 3) ≤ c.wdElapsed then c.wdExpire 0 else c

/-! ## Mailbox to the Curator (11 R503 to R507) -/

/-- RMB_IRQ: REQ is set while a request waits. -/
def rmbIrqNow (c : Chip) : Byte := (c.rgr.rmbIrq &&& 2) ||| (if c.cat.mbox = [] then 0 else 1)

def mailDrop (c : Chip) : Chip := c.modRgr fun r => { r with rmbIrq := r.rmbIrq ||| 2 }

/-- 0x01 was written to RMB_ANSEND (11 R505, R506). -/
def answerSend (c : Chip) : Chip :=
  match c.cat.mbox with
  | [] => c.mailDrop
  | q :: rest =>
    let code := c.rgr.anCode.toNat
    let n := c.rgr.anLen.toNat
    if c.rgr.anId.toNat ≠ q.id ∨ q.tick + ticksMs 20 ≤ c.clk.raw then c.mailDrop
    else if code = 0 ∧ (if q.write then n ≠ 0 else n < 1 ∨ 256 < n) then c.mailDrop
    else
      let ans : CatAns := if code ≠ 0 then .abort code else .ok (if q.write then [] else c.rgr.anData.read 0 0 n)
      (c.modCat fun t => { t with mbox := rest }).deliver q.reply q.write ans

/-- Requests that have waited 20 ms for their answer (07 R306). -/
def mailTimeout (c : Chip) : Chip :=
  let late (q : MailReq) : Bool := q.tick + ticksMs 20 ≤ c.clk.raw
  let gone := c.cat.mbox.filter late
  gone.foldl (fun c q => c.deliver q.reply q.write (.abort 0xC00D)) (c.modCat fun t => { t with mbox := t.mbox.filter fun q => !late q })

end Chip

end Sys2Proof.Machine
end

