-- ==== Sys2Proof/Machine/ImageOps.lean ====
section
/-! DEFINITION. The image update path (11 R493 to R502, objects 0x1F50). -/

namespace Sys2Proof.Machine

open Sys2Proof

/-- CAN-A and CAN-B count as one port (07 R315, 11 R493). -/
def samePort (a b : Port) : Bool := a = b || ((a = .canA || a = .canB) && (b = .canA || b = .canB))

/-- Statuses in which no transfer is in progress. -/
def imgEnded (s : Nat) : Bool := s = 0 || s = 6 || 0x10 ≤ s

/-- Blocks of a slot: the first, and how many. -/
def slotBlocks (kind slot : Nat) : Nat × Nat := (slotBase kind slot / blockBytes, slotSize kind / blockBytes)

/-- The surroundings of a Cold reset whose command brings none (log 13). -/
def quietEnv : StartEnv := { sensing := [], pllLocked := true, keyFaults := [] }

namespace Chip

def imageOpen (c : Chip) : Bool := !imgEnded c.rgr.imgStatus

/-- A transfer that another port owns. -/
def imageForeign (p : Port) (c : Chip) : Bool :=
  c.imageOpen && (match c.rgr.imgOwner with | some q => !samePort p q | none => false)

/-- Reserve mode with reason 0x14 (12 Table 12-4). -/
def inReserve14 (c : Chip) : Bool := c.start.mode = 2 && c.start.reserve14

/-- The active slot of a kind: that of the start-attempt word in force. -/
def activeSlot (c : Chip) (kind : Nat) : Nat := if kind = 1 then c.startWord.cs else c.startWord.rs

/-- A transfer ends with a status. -/
def imageEnd (st : Nat) (c : Chip) : Chip := c.modRgr fun r => { r with imgStatus := st }

/-- Control 1 or 2: the transfer opens and its erases are queued (R494). -/
def openImage (kind : Nat) (p : Port) (c : Chip) : Chip :=
  let slot := 1 - c.activeSlot kind
  let b := slotBlocks kind slot
  (c.modRgr fun r => { r with
    imgStatus := 1, imgOwner := some p, imgKind := kind, imgSlot := slot + 1, imgNext := 0, imgBytes := 0, imgVer := 0
    imgLen := 0, imgLast := [], imgTick := c.clk.raw }).addJob (.imageErase b.1 (b.2 - 1))

/-- Block `n` of a transfer in state 2 or 3 (R495, R496, R497): its program becomes a command of the Registrar's window. `padded`: it may stand padded beyond the image end, and
takes the next number. -/
def takeBlock (n : Nat) (data : Bytes) (padded : Bool) (c : Chip) : Chip :=
  let r := c.rgr
  let c := c.modRgr fun r => { r with imgTick := c.clk.raw }
  if !padded && n + 1 = r.imgNext && data == r.imgLast then c
  else
    let len := if n = 0 then leAt data 12 4 else r.imgLen
    let total := min (256 + len) (slotSize r.imgKind)
    let want := min 256 (total - 256 * n)
    if r.imgStatus ≠ 2 ∨ n ≠ r.imgNext ∨ data.length < want ∨ (!padded && want < data.length) then c.imageEnd 0x17
    else
      (c.addJob (.imagePage (slotBase r.imgKind (r.imgSlot - 1) + 256 * n) (data.take want))).modRgr fun r => { r with
        imgNext := n + 1, imgBytes := r.imgBytes + want, imgLast := data, imgLen := len
        imgVer := if n = 0 then leAt data 8 4 else r.imgVer
        imgStatus := if 256 * n + want = total then 3 else 2 }

/-- Data of object 0x1F50.03: an abort code, or none. -/
def blockData (p : Port) (data : Bytes) (c : Chip) : Option Nat × Chip :=
  if c.inReserve14 then (some 0xC00E, c)
  else if c.imageForeign p then (some 0xC007, c)
  else if c.rgr.imgStatus ≠ 2 then (some 0xC00E, c)
  else (none, c.takeBlock c.rgr.imgNext data true)

/-- The checks of 11 Table 11-5 over a slot, with the downgrade check. -/
def verifySlot (c : Chip) (kind slot : Nat) (want : Option Nat) : Nat :=
  let st := c.checkSlot kind slot want
  let act := c.slotHeader kind (c.activeSlot kind)
  if st ≠ 0 then st
  else if headerOk act ∧ hdrVersion (c.slotHeader kind slot) < hdrVersion act ∧ !c.cfgB 0x1F50 8 then 0x16
  else 0

/-- Detail of health records 0x8 and 0x9. -/
def imageDetail (kind slot : Nat) (rollback : Bool) : Nat := kind + 16 * slot + (if rollback then 32 else 0)

/-- The checks of control 3 over the transfer's slot, and what they bring (R499). -/
def verifyEnds (c : Chip) : Chip :=
  let kind := c.rgr.imgKind
  let slot := c.rgr.imgSlot - 1
  let c := (c.readRequest (some (slotBlocks kind slot).1)).touchSlot kind slot
  let st := c.verifySlot kind slot (some c.rgr.imgBytes)
  if st = 0 then (c.imageEnd 5).healthEvent 8 (imageDetail kind slot false) (c.rgr.imgVer % 16777216)
  else (c.imageEnd st).secEvent 6 st (c.rgr.imgVer % 16777216)

/-- The reads of a slot wait for the array (05 R217 to R220). -/
def slotWaits (kind slot : Nat) (c : Chip) : Bool :=
  c.readWaits (some (slotBlocks kind slot).1) ||
  (List.range (slotBlocks kind slot).2).any fun i => c.underErase ((slotBlocks kind slot).1 + i)

/-- Programs of the transfer that have not ended. -/
def pagesLeft (c : Chip) : Bool :=
  ((c.cns.run.map (·.op)).toList ++ c.cns.queue ++ c.cns.rjobs).any fun o => match opBase o with | .imagePage .. => true | _ => false

/-- A verify goes on once the transfer's pages are programmed and the slot can be read. -/
def imageProgress (c : Chip) : Chip :=
  if c.rgr.imgStatus = 4 ∧ !c.pagesLeft ∧ !c.slotWaits c.rgr.imgKind (c.rgr.imgSlot - 1) then c.verifyEnds else c

/-- Control 3 (R499): status 4 until the checks have run. -/
def verifyImage (c : Chip) : Chip := (c.imageEnd 4).imageProgress

/-- A slot is recorded as active (R500, R501; 12 R541); `now`: as control 5 does. -/
def activate (kind slot ver : Nat) (rollback now : Bool) (c : Chip) : Chip :=
  let after : Option Ask :=
    if !now || kind != 1 then none
    else if c.start.mode = 2 then (if c.start.found = 0x20 then some (.cold 4 quietEnv) else none)
    else if c.start.regIn then some (.curReset 4) else none
  ((c.activateSlot kind slot after).imageEnd 6).healthEvent 9 (imageDetail kind slot rollback) (ver % 16777216)

/-- Control 6: the erases and programs still to come are dropped; one of them that the window holds is cancelled. -/
def abortImage (c : Chip) : Chip :=
  let orphan : FlashOp → FlashOp
    | .imageErase b l => .imageErase b (if l < orphanErase then l + orphanErase else l)
    | o => o
  let mine : FlashOp → Bool
    | .imageErase .. | .imagePage .. => true
    | _ => false
  let c := if c.cns.queue.any mine then c.winDone .registrar 6 else c
  (c.imageEnd 0x1A).modCns fun k => { k with
    queue := k.queue.filter fun o => !mine o
    rjobs := k.rjobs.filter fun o => !mine o
    run := k.run.map fun r => { r with op := orphan r.op }
    susp := k.susp.map orphan }

/-- Control 7 or 8 (R501). -/
def rollBack (kind : Nat) (c : Chip) : Option Nat × Chip :=
  let slot := 1 - c.activeSlot kind
  let c := (c.readRequest (some (slotBlocks kind slot).1)).touchSlot kind slot
  if c.verifySlot kind slot none ≠ 0 then (some 0xC006, c)
  else (none, c.activate kind slot (hdrVersion (c.slotHeader kind slot)) true true)

/-- What refuses a write of object 0x1F50 before its value is judged (07 Table 07-10 orders 10 and 11; R493, R502). -/
def imageJudge (p : Port) (sub v : Nat) (c : Chip) : Option Nat :=
  let st := c.rgr.imgStatus
  if c.imageForeign p then some 0xC007
  else if sub ≠ 1 ∧ sub ≠ 3 then none
  else if c.inReserve14 then some 0xC00E
  else if sub = 3 then (if st ≠ 2 then some 0xC00E else none)
  else if ((v = 1 ∨ v = 2 ∨ v = 7 ∨ v = 8) ∧ c.imageOpen) ∨ (v = 3 ∧ st ≠ 3) ∨ (v = 4 ∧ st ≠ 5) ∨
      (v = 5 ∧ (st ≠ 5 ∨ c.rgr.imgKind ≠ 1)) ∨ (v = 6 ∧ st = 0) then some 0xC00E
  else none

/-- A control write of object 0x1F50.01: an abort code, or none (R493, R502). -/
def imageControl (p : Port) (v : Nat) (c : Chip) : Option Nat × Chip :=
  match c.imageJudge p 1 v with
  | some code => (some code, c)
  | none =>
    let ver := c.rgr.imgVer
    let slot := c.rgr.imgSlot - 1
    let kind := c.rgr.imgKind
    let c := c.modRgr fun r => { r with imgTick := c.clk.raw }
    match v with
    | 1 | 2 => (none, c.openImage v p)
    | 3 => (none, c.verifyImage)
    | 4 => (none, c.activate kind slot ver false false)
    | 5 => (none, c.activate kind slot ver false true)
    | 6 => (none, c.abortImage)
    | 7 | 8 => c.rollBack (v - 6)
    | _ => (some 0xC006, c)

/-- The body of the host command IMAGE_BLOCK (R497): the answer's status and next number, or an abort code. -/
def hostBlock (n : Nat) (data : Bytes) (c : Chip) : Sum Nat Bytes × Chip :=
  if c.inReserve14 then (.inl 0xC00E, c)
  else if c.imageForeign .host then (.inl 0xC007, c)
  else
    let c := if c.rgr.imgStatus = 2 ∨ c.rgr.imgStatus = 3 then c.takeBlock n data false else c
    (.inr (byteOf c.rgr.imgStatus :: leBytes 4 c.rgr.imgNext), c)

/-- 60 s without a write of the owner in state 2 or 3 (R498). -/
def imageTimeout (c : Chip) : Chip :=
  if (c.rgr.imgStatus = 2 ∨ c.rgr.imgStatus = 3) ∧ c.rgr.imgTick + ticksS 60 ≤ c.clk.raw then c.imageEnd 0x18 else c

end Chip

end Sys2Proof.Machine
end

