-- ==== Sys2Proof/Machine/DbgOps.lean ====
section
/-! DEFINITION. The debug port's commands (13): challenges and loans, OTP programs, life-cycle transitions. -/

namespace Sys2Proof.Machine

open Sys2Proof

/-! Rights of 13 Table 13-5. -/
def rHalt : Nat := 0
def rCoreReg : Nat := 1
def rMemRead : Nat := 2
def rMemWrite : Nat := 3
def rBreak : Nat := 4
def rPeriphRead : Nat := 5
def rPeriphWrite : Nat := 6
def rCatRead : Nat := 7
def rCatWrite : Nat := 8
def rOtpCustomer : Nat := 9
def rOtpLock : Nat := 10
def rKeyRevoke : Nat := 11
def rPairOverride : Nat := 12
def rLcReturn : Nat := 13
def rLcScrap : Nat := 14

namespace Chip

/-- SCRAP or LOST: the debug port answers only ID (13 R569). -/
def dead (c : Chip) : Bool := c.start.life = .scrap || c.start.life = .lost

/-! ## Challenges and loans (13 R577 to R586) -/

/-- A challenge request: the result, and the challenge made. The start-up test delivers no bit, so it counts as
blocked (log 23). -/
def makeChallenge (c : Chip) : Nat × Chip :=
  if c.trn.st ≠ .delivering then (0x0A, c.modDbg fun d => { d with chal := none })
  else
    let have_ := c.trn.fifo
    let raw := have_ ++ (List.range (64 - have_.length)).map (Config.rawEntropy c.clk.free)
    (0x0B, ((c.modTrn fun t => { t with fifo := [] }).modDbg fun d => { d with chal := some ((Crypto.sha256 raw).take 16) }).spend)

/-- 13 Table 13-6-A, in order. -/
def judgeLoan (cert : Bytes) (c : Chip) : Nat :=
  let bound : Bool := (cert.getD 5 0).getLsbD 0
  let issuer := (cert.getD 25 0).toNat
  let key := slice cert 48 64
  let sig := slice cert 112 64
  let inLoanState : Bool := c.start.life = .field || c.start.life = .retd
  let opts : Byte := byteOf (leNat (c.otpUsed 5 2 1))
  if cert.length ≠ 176 ∨ cert.take 4 ≠ ([0x56, 0x51, 0x4C, 0x4E] : Bytes) ∨ cert.getD 4 0 ≠ 1 ∨ 2 ≤ (cert.getD 5 0).toNat
      ∨ !allZero (slice cert 6 2) ∨ !allZero (slice cert 26 2) ∨ 0x8000 ≤ leAt cert 20 4
      ∨ (!bound ∧ !allZero (slice cert 32 16)) then 1
  else if opts.getLsbD 0 && inLoanState then 2
  else if slice cert 12 8 ≠ c.serial then 3
  else if !(cert.getD 24 0).getLsbD (lifeCode c.start.life) then 4
  else if 4 ≤ issuer ∨ !c.hashTrusts (4 + issuer) key then 5
  else if !Crypto.onCurve (beNat (key.take 32)) (beNat (key.drop 32)) ∨ !Crypto.sigInRange sig
      ∨ !Crypto.ecdsaVerify key (Crypto.sha256 (cert.take 112)) sig then 6
  else if leAt cert 28 4 < c.acc.epoch then 7
  else if (bound || opts.getLsbD 1) && !(bound && c.dbg.chal == some (slice cert 32 16)) then 8
  else 0

/-- A presentation: its result, the record, the rights, and the challenge cleared. -/
def presentLoan (cert : Bytes) (c : Chip) : Nat × Chip :=
  let r := c.judgeLoan cert
  let no := leAt cert 8 4
  let c := c.secEvent 7 (if r = 0 then 0 else 1) (no % 16777216)
  (r, c.modDbg fun d => { d with
    chal := none, loanNo := no, loanRes := r
    loansOk := if r = 0 then d.loansOk + 1 else d.loansOk, loansBad := if r = 0 then d.loansBad else d.loansBad + 1
    loaned := if r = 0 then d.loaned ||| BitVec.ofNat 32 (leAt cert 20 4) else d.loaned })

/-- A presentation that Reserve mode with reason 0x14 refuses. -/
def refuseLoan (cert : Bytes) (c : Chip) : Chip :=
  (c.secEvent 7 1 (leAt cert 8 4 % 16777216)).modDbg fun d => { d with chal := none, loanNo := leAt cert 8 4, loansBad := d.loansBad + 1 }

/-- DBG_CMD 0x01. -/
def cmdChallenge (c : Chip) : Chip :=
  let x := c.makeChallenge
  x.2.modDbg fun d => { d with result := byteOf x.1 }

/-- DBG_CMD 0x02, over DBG_LOANBUF. -/
def cmdPresent (c : Chip) : Chip :=
  let cert := c.dbg.loanBuf.read 0 0 176
  if c.inReserve14 then ((c.refuseLoan cert).modDbg fun d => { d with result := Config.refusedLoan c.clk.free }).spend
  else
    let x := c.presentLoan cert
    x.2.modDbg fun d => { d with result := byteOf x.1 }

/-! ## OTP programs (13 R558 to R564) -/

/-- An aligned word of shadow A. -/
def otpWord (c : Chip) (off : Nat) : Word := BitVec.ofNat 32 (leNat (c.otp.shadowA.read 0 off 4))

/-- The word of lock bits: one takes effect once it has verified (13 R562). -/
def lockWord : Nat := 0xF00

/-- Write-lock and read-lock bits of a region. -/
def writeLocked (c : Chip) (r : Nat) : Bool := (c.otpWord lockWord &&& ~~~c.otp.loose).getLsbD r
def readLocked (c : Chip) (r : Nat) : Bool :=
  (c.otpWord lockWord &&& ~~~c.otp.loose).getLsbD (16 + r) && r != 0 && r != 3 && r != 15

def otpBusy (c : Chip) : Bool := c.dbg.otpRun.isSome || c.dbg.transRun.isSome

/-- VIO, PFW_N and TESTMODE allow programming. -/
def otpSupply (c : Chip) : Bool := 3100 ≤ c.rgr.supply[0] && !c.clk.pfw && !c.clk.testmode

/-- Check 4 of 13 Table 13-2. -/
def otpAllowed (c : Chip) (r : Nat) (data : Word) : Bool :=
  r != 0 && r != 14 && (c.openLife ||
    (6 ≤ r && r ≤ 13 && c.right rOtpCustomer) || (r = 15 && c.right rOtpLock)
    || (r = 4 && c.right rKeyRevoke && data = 0xFFFFFFFF))

/-- 13 Table 13-2: the code of the first failing check, or 0. -/
def judgeOtp (c : Chip) : Nat :=
  let off := c.dbg.otpAddr.toNat
  let r := off / 256
  if c.otpBusy ∨ off % 4 ≠ 0 ∨ 0x1000 ≤ off then 0x26
  else if !c.otpSupply then 0x25
  else if !c.otpAllowed r c.dbg.otpData then 0x22
  else if c.writeLocked r && !(r = 4 && c.right rKeyRevoke && c.dbg.otpData = 0xFFFFFFFF) then 0x21
  else if c.otpWord off &&& ~~~c.dbg.otpData ≠ 0 then 0x23
  else 0

/-- DBG_CMD 0x03. -/
def cmdOtp (c : Chip) : Chip :=
  match c.judgeOtp with
  | 0 => c.modDbg fun d => { d with otpRun := some (d.otpAddr.toNat, d.otpData.toNat), result := 0xFF, busyHid := false }
  | n => c.modDbg fun d => { d with result := byteOf n }

/-- The Plinth and the Vault go on with the word as it was (13 R562). -/
def keepWord (off : Nat) (c : Chip) : Chip :=
  if (assoc (off / 4) c.otp.before).isSome then c
  else c.modOtp fun o => { o with before := (off / 4, o.shadowA.read 0 off 4) :: o.before }

/-- A word of the fuses takes bits. -/
def blowWord (off : Nat) (bits : Word) (c : Chip) : Chip :=
  let old := BitVec.ofNat 32 (leNat (c.otp.fuses.read 0 off 4))
  c.modOtp fun o => { o with fuses := o.fuses.write 0 off (leBytes 4 (old ||| bits).toNat) }

/-- A program that did not verify, or was cut: it may have set some of its bits. -/
def blowPartly (off : Nat) (bits : Word) (c : Chip) : Chip :=
  (c.blowWord off (bits &&& Config.otpPartial c.clk.free bits)).spend

/-- A word is sensed again into both shadows, with a pass's errors in it. -/
def senseWord (off : Nat) (e : SenseErr × SenseErr) (c : Chip) : Chip :=
  let word (x : SenseErr) : Bytes := (senseWith c.otp.fuses x).read 0 off 4
  c.modOtp fun o => { o with
    shadowA := o.shadowA.write 0 off (word e.1), shadowB := o.shadowB.write 0 off (word e.2) }

/-- The comparison after a program (R562, as R555). -/
def compareShadows (es : Sensing) (c : Chip) : Chip :=
  let c := resense 3 1 es c
  if c.shadowDiff ≠ 0 ∧ c.start.regIn then c.enterReserve 0x14 none false else c

/-- The OTP word program ends. -/
def otpDone (verified : Bool) (es : Sensing) (c : Chip) : Chip :=
  match c.dbg.otpRun with
  | none => c
  | some (off, data) =>
    let w := BitVec.ofNat 32 data
    let old := c.otpWord off
    let c := c.keepWord off
    let c := if off ≠ lockWord then c
      else c.modOtp fun o => { o with loose := if verified then o.loose &&& ~~~w else o.loose ||| (w &&& ~~~old) }
    let c := if verified then c.blowWord off w else c.blowPartly off w
    let c := c.modDbg fun d => { d with
      otpRun := none, result := if verified then 0x20 else 0x24, otpProgs := if verified then d.otpProgs + 1 else d.otpProgs }
    (c.senseWord off (es.headD ([], []))).compareShadows (es.drop 1)

/-! ## Transitions (13 R571 to R575) -/

/-- 13 Table 13-4: the code of the first failing check, or 0. -/
def judgeTransition (c : Chip) : Nat :=
  let t := c.dbg.lcTarget.toNat
  if c.otpBusy then 0x26
  else if c.dead ∨ t ≠ lifeCode c.start.life + 1 ∨ 5 < t then 0x31
  else if c.dbg.lcDone then 0x35
  else if !c.otpSupply then 0x34
  else if t = 2 ∧ !(c.writeLocked 1 && c.writeLocked 3) then 0x32
  else if t = 3 ∧ !((List.range 5).all (fun r => c.writeLocked (r + 1)) && c.zeroRoots = 0
      && (List.range 4).any (fun i => c.hashUsed i)) then 0x32
  else if (t = 4 ∧ !c.right rLcReturn) ∨ (t = 5 ∧ !c.right rLcScrap) then 0x33
  else 0

/-- DBG_CMD 0x04. -/
def cmdTransition (c : Chip) : Chip :=
  match c.judgeTransition with
  | 0 => c.modDbg fun d => { d with transRun := some (lifeCode c.start.life), lcDone := true, result := 0xFF, busyHid := false }
  | n => c.modDbg fun d => { d with result := byteOf n }

/-- The transition ends; `ok1`, `ok2`: its words verified. -/
def transDone (ok1 ok2 : Bool) (es : Sensing) (c : Chip) : Chip :=
  match c.dbg.transRun with
  | none => c
  | some m =>
    let a := 4 * m
    let b := 0x20 + 4 * m
    let c := c.modDbg fun d => { d with
      transRun := none, result := if !ok1 then 0x36 else if ok2 then 0x30 else 0x24
      otpProgs := d.otpProgs + bit ok1 + bit (ok1 && ok2) }
    let c := (c.keepWord a).keepWord b
    let c := if ok1 then c.blowWord a 0x5A else c.blowPartly a 0x5A
    let c := c.senseWord a (es.headD ([], []))
    let c := if !ok1 then c else
      (if ok2 then c.blowWord b 0xA5 else c.blowPartly b 0xA5).senseWord b ((es.drop 1).headD ([], []))
    c.compareShadows (es.drop 2)

/-- Programs that the loss of supply cut (R575). -/
def otpCut (c : Chip) : Chip :=
  let c := match c.dbg.otpRun with | some (off, data) => c.blowPartly off (BitVec.ofNat 32 data) | none => c
  match c.dbg.transRun with
  | some m => (c.blowPartly (4 * m) 0x5A).blowPartly (0x20 + 4 * m) 0xA5
  | none => c

/-! ## Control of the Curator core -/

/-- DBG_CCTRL. -/
def coreControl (v : Byte) (c : Chip) : Chip :=
  if v = 1 then c.ask .halt else if v = 2 then c.ask .resume else if v = 3 then c.ask .step else c

/-- DBG_CMD by the debug port. -/
def dbgCommand (v : Byte) (c : Chip) : Chip :=
  if v = 1 then c.cmdChallenge else if v = 2 then c.cmdPresent else if v = 3 then c.cmdOtp
  else if v = 4 then c.cmdTransition else c

end Chip

end Sys2Proof.Machine
end

