-- ==== Sys2Proof/Machine/CatVals.lean ====
section
/-! DEFINITION. What a read of each hardware-backed object returns, and the range and relation rules of its writes
(07 R293 to R303, R755, and the object tables of every chapter). -/

namespace Sys2Proof.Machine

open Sys2Proof

/-- Position in the rank order of 07 R311; 0 to 6 are the port codes of 07 Table 07-5. -/
def portRank : Port → Nat
  | .internal => 0 | .host => 1 | .canA => 2 | .canB => 3 | .twoWire => 4 | .contactless => 5 | .debug => 6 | .curator => 7

/-- The port's bit of a Ports column (07 R298). -/
def portBit : Port → Nat
  | .host => pH | .canA | .canB => pC | .twoWire => pT | .contactless => pL | .debug => pD | .internal | .curator => 0

namespace Chip

/-- The policy is locked by OTP region 5 (13 R552). -/
def policyLocked (c : Chip) : Bool := leNat (c.otpUsed 5 0 1) % 4 != 0

/-- Newest record shelved. -/
def newestSeq (c : Chip) : Nat := sub32 c.acc.nextSeq 1

/-- Entries of the wrapped-key area in force, and empty ones in the fuller copy. -/
def wkInForceCount (c : Chip) : Nat := (wkForce c.wkAll).length
def wkEmpty (c : Chip) : Nat := min (512 - (c.wkUsed 0).length) (512 - (c.wkUsed 1).length)

def trnCode (c : Chip) : Nat :=
  match c.trn.st with | .testing => 0 | .delivering => 1 | .blocked => 2 | .exhausted => 3

/-- Subindices 1C to 22 of 09 Table 09-9. -/
def canValue (k : CanCtl) (sub : Nat) : Nat :=
  match sub with
  | 0x1C => k.st | 0x1D => k.tec | 0x1E => k.rec_ | 0x1F => k.busOffs | 0x20 => k.rx | 0x21 => k.tx | 0x22 => k.drops
  | _ => 0

/-- RO and CONST objects that hold a number, and are not stored; `none` where the value in force is the one held as a
Catalogue value. -/
def roNumber (c : Chip) (idx sub : Nat) : Option Nat :=
  let w := startFields c.start.word
  if 0x3100 ≤ idx ∧ idx ≤ 0x3117 then
    let b := c.acc.bis[Fin.ofNat 24 (idx - 0x3100)]
    match sub with
    | 8 => some (bit (c.levels.getLsbD (idx - 0x3100))) | 9 => some (bit b.supp)
    | 0xA => some b.suppTotal | 0xB => some b.filtered | _ => none
  else if 0x4100 ≤ idx ∧ idx ≤ 0x4107 then
    if sub = 7 then some (c.outputState (Fin.ofNat 8 (idx - 0x4100))) else none
  else match idx, sub with
  | 0x1000, 3 => some Config.siliconRev.toNat
  | 0x1000, 6 => some (lifeCode c.start.life)
  | 0x1000, 7 => some Config.romRev.toNat
  | 0x1010, 1 => some c.startReason
  | 0x1010, 2 => some c.start.mode
  | 0x1010, 3 => some (w.cf + 3 * bit w.cw)
  | 0x1010, 4 => some (c.start.slotCur + 2 * c.start.slotReg + 16 * w.cs + 32 * w.rs)
  | 0x1010, 5 => some (bit c.start.confirmed)
  | 0x1010, 8 => some c.start.cause
  | 0x1010, 9 => some c.start.findings
  | 0x1010, 0xA => some (w.rf + 3 * bit w.rw)
  | 0x1010, 0xB => some c.start.relTime
  | 0x1010, 0xC => some w.serial
  | 0x1F00, 2 => some c.cat.token
  | 0x1F00, 3 => some c.cat.txState
  | 0x1F00, 4 => some (portRank c.cat.owner)
  | 0x1F00, 5 => some c.cat.staged.length
  | 0x1F00, 7 => some c.cat.result
  | 0x1F00, 8 => some c.cat.lastAbort
  | 0x1F00, 9 => some c.cat.gen
  | 0x1F10, 2 => some (bit c.policyLocked)
  | 0x1F10, 3 => some c.start.curVer
  | 0x1F10, 4 => some c.start.regVer
  | 0x1F10, 5 => some Config.romRev.toNat
  | 0x1F10, 6 => some c.start.pairing
  | 0x1F50, 2 => some c.rgr.imgNext
  | 0x1F50, 4 => some c.rgr.imgStatus
  | 0x1F50, 5 => some c.rgr.imgSlot
  | 0x1F50, 6 => some c.rgr.imgBytes
  | 0x1F50, 7 => some c.rgr.imgVer
  | 0x2000, 1 => some (syncNat c.time.sync)
  | 0x2000, 2 => some c.time.rank
  | 0x2000, 3 => some c.stamp.toNat
  | 0x2000, 4 => some (encInt 32 c.time.pherr)
  | 0x2000, 5 => some (encInt 32 c.time.fcorr)
  | 0x2000, 6 => some c.holdElapsed
  | 0x2000, 7 => some c.time.steps
  | 0x2000, 8 => some c.time.irigQuality
  | 0x2000, 9 => some c.time.refusals
  | 0x2000, 0xA => some c.time.irigFlags
  | 0x2020, 0xB => some c.lockBits
  | 0x2020, 0xC => some (match c.phase.ref with | some r => r.val + 1 | none => 0)
  | 0x2020, 0xD => some c.angle.toNat
  | 0x2020, 0xE => some c.frequency
  | 0x2020, 0xF => some (encInt 32 c.rocof)
  | 0x2020, 0x10 => some c.phase.cycle.toNat
  | 0x2020, 0x11 => some c.phase.bRelA.toNat
  | 0x2020, 0x12 => some c.phase.cRelA.toNat
  | 0x2020, 0x13 => some c.phase.suppressed
  | 0x3000, 3 => some c.acc.epoch
  | 0x3000, 4 => some c.acc.nextSeq
  | 0x3000, 5 => some c.acc.lostCount
  | 0x3000, 6 => some c.acc.overflows
  | 0x3000, 7 => some c.acc.checkpoints
  | 0x3000, 8 => some c.acc.lastAnchor
  | 0x3200, 2 => some c.freeSlots
  | 0x3200, 3 => some c.accOldest
  | 0x3200, 4 => some c.newestSeq
  | 0x3200, 5 => some c.acc.drainSeq
  | 0x3200, 6 => some c.acc.hostMark
  | 0x3200, 7 => some c.acc.baseSeq
  | 0x3200, 8 => some c.acc.baseSlot
  | 0x3300, 1 => some 0x20280000
  | 0x3300, 3 => some c.acc.jBlock
  | 0x3300, 4 => some c.journalOldest
  | 0x3300, 5 => some c.journalNewest
  | 0x4000, 4 => some c.ord.accepted
  | 0x4000, 5 => some c.ord.rejected
  | 0x4000, 6 => some c.entriesTaken
  | 0x4000, 7 => some (bit c.ord.armed)
  | 0x4000, 0xC => some (c.ord.keys[0]).floor
  | 0x4000, 0xD => some (c.ord.keys[1]).floor
  | 0x4000, 0xE => some (c.ord.keys[2]).floor
  | 0x4000, 0xF => some (c.ord.keys[3]).floor
  | 0x4000, 0x10 => some (c.ord.keys[0]).ceil
  | 0x4000, 0x11 => some (c.ord.keys[1]).ceil
  | 0x4000, 0x12 => some (c.ord.keys[2]).ceil
  | 0x4000, 0x13 => some (c.ord.keys[3]).ceil
  | 0x5000, 3 => some c.cns.ahead
  | 0x5000, 7 => some c.cns.passPos
  | 0x5000, 8 => some c.cns.sec
  | 0x5000, 9 => some c.cns.ded
  | 0x5000, 0xA => some c.pool.length
  | 0x5000, 0xB => some (grownInForce c.grownAll).length
  | 0x5000, 0xC => some c.cns.susps
  | 0x5000, 0xD => some c.cns.guardedCount
  | 0x5000, 0xE => some c.cns.progFails
  | 0x5000, 0xF => some c.cns.eraseFails
  | 0x5000, 0x10 => some c.cns.refreshes
  | 0x5000, 0x11 => some c.recordsLeft
  | 0x6000, 2 => some c.slotsLoaded
  | 0x6000, 3 => some c.vlt.gens[0]
  | 0x6000, 4 => some c.vlt.gens[1]
  | 0x6000, 5 => some c.vlt.gens[2]
  | 0x6000, 6 => some c.vlt.gens[3]
  | 0x6000, 8 => some c.wkInForceCount
  | 0x6000, 9 => some c.wkEmpty
  | 0x6000, 0xA => some c.vlt.tagFails
  | 0x6000, 0xB => some c.vlt.slotFaults
  | 0x6000, 0xC => some c.zeroRoots
  | 0x6000, 0xD => some c.unavailable
  | 0x6100, 1 => some c.trnCode
  | 0x6100, 2 => some c.trn.fails
  | 0x6100, 3 => some c.trn.restarts
  | 0x6100, 4 => some c.trn.runMax
  | 0x6100, 5 => some c.trn.aptMax
  | 0x6200, 1 => some c.rights
  | 0x6200, 2 => some c.dbg.loansOk
  | 0x6200, 3 => some c.dbg.loansBad
  | 0x6200, 4 => some c.dbg.loanNo
  | 0x6200, 5 => some c.dbg.loanRes
  | 0x6200, 6 => some (bit c.openLife)
  | 0x6200, 7 => some (leNat (c.otpBytes 15 0 2))
  | 0x6200, 8 => some (leNat (c.otpBytes 15 2 2))
  | 0x6200, 9 => some (leNat (c.otpBytes 5 0 3))
  | 0x6200, 0xA => some (maskOf ((List.range 8).filter c.hashUsed))
  | 0x6200, 0xB => some c.dbg.otpProgs
  | 0x7000, 2 => some (bit c.host.quad)
  | 0x7000, 5 => some c.host.notices
  | 0x7000, 6 => some c.host.frames
  | 0x7000, 7 => some c.host.crcErrs
  | 0x7000, 8 => some c.host.malformed
  | 0x7000, 9 => some c.host.whileBusy
  | 0x7100, 6 => some c.can.taken
  | 0x7100, 7 => some c.can.dups
  | 0x7100, 8 => some c.can.ignored
  | 0x7100, s => if 0x1C ≤ s then some (canValue c.can.a s) else none
  | 0x7110, s => if 0x1C ≤ s then some (canValue c.can.b s) else none
  | 0x7200, 6 => some c.tw.count
  | 0x7200, 7 => some c.tw.refused
  | 0x7200, 8 => some c.tw.aborts
  | 0x7300, 5 => some (bit (c.cfg 0x7300 4 ≠ 0))
  | 0x7300, 6 => some c.tag.sessions
  | 0x7300, 7 => some c.tag.auths
  | 0x7300, 8 => some c.tag.failed
  | 0x7300, 9 => some c.tag.wtxs
  | 0x7300, 0xA => some (match c.tag.placard with | some p => p.2.1 | none => 0)
  | 0x8000, 1 => some c.rgr.alerts.toNat
  | 0x8000, 4 => some (encInt 16 c.rgr.t1)
  | 0x8000, 5 => some (encInt 16 c.rgr.t2)
  | 0x8000, 7 => some c.rgr.supply[0]
  | 0x8000, 8 => some c.rgr.supply[1]
  | 0x8000, 9 => some c.rgr.supply[2]
  | 0x8000, 0xA => some (encInt 16 c.rgr.clkDev)
  | 0x8000, 0xB => some (bit c.rgr.backup)
  | 0x8000, 0xD => some c.rgr.glitches
  | 0x8000, 0xF => some (encInt 16 c.rgr.tExt)
  | 0x8100, 3 => some c.rgr.ledSeq
  | 0x8100, 4 => some c.ledgerOldest
  | 0x8100, 5 => some c.rgr.ledNewest
  | 0x8100, 7 => some c.rgr.ledNotAdm
  | 0x8200, 4 => some c.rgr.expiries
  | 0x8200, 5 => some c.rgr.badKicks
  | _, _ => none

/-- The value of an object in force, as a port reads it. -/
def readValue (c : Chip) (p : Port) (idx sub : Nat) : Bytes :=
  if sub = 0 then [byteOf (((objRows idx).map (·.sub)).foldl max 0)]
  else match idx with
  | 0x4200 => padTo 0 8 ((assoc (orderPort p) c.ord.results).getD [])
  | 0x4300 => c.entryBytes (Fin.ofNat 16 (sub - 1))
  | _ => match idx, sub with
    | 0x1000, 4 => c.serial
    | 0x1000, 5 => c.uid
    | 0x6000, 1 => padTo 0 64 c.vlt.pub
    | 0x8000, 0x10 => c.healthSummary
    | _, _ => match c.roNumber idx sub with
      | some n => leBytes (objDefault idx sub).length n
      | none => c.objVal idx sub

/-! ## Ranges (07 R293, R296) -/

def textOk (v : Bytes) : Bool :=
  let head := v.takeWhile (· != 0)
  head.all (fun b => 0x20 ≤ b.toNat && b.toNat ≤ 0x7E) && allZero (v.drop head.length)

def rngOk (r : Rng) (v : Int) : Bool :=
  match r with
  | .any => true
  | .within lo hi => lo ≤ v && v ≤ hi
  | .steps lo hi k => lo ≤ v && v ≤ hi && (v - lo) % k = 0
  | .oneOf l => l.contains v
  | .zeroOr lo hi => v = 0 || (lo ≤ v && v ≤ hi)

/-- Rules of other chapters over one object (07 R296): 03 R148, 04 Table 04-6, 09 R389, 11 Table 11-10, 12 R542. -/
def ownRangeOk (c : Chip) (idx sub v : Nat) : Bool :=
  match idx, sub with
  | 0x3200, 6 => sub32 v c.acc.baseSeq ≤ sub32 c.newestSeq c.acc.baseSeq
  | 0x4000, s => if 8 ≤ s ∧ s ≤ 0xB then bitsOf v 14 11 = 0 else true
  | 0x7100, 2 => v % 0x100 = 0 && 0x100 ≤ v && v ≤ 0x700
  | 0x7100, 3 => v % 0x80 = 0 && 0x80 ≤ v && v ≤ 0x780
  | 0x8200, 1 => v = 1 || c.start.life != .field
  | 0x1010, 7 => v = 1 || v = 2
  | _, _ => true

/-- Check 13 of 07 Table 07-10 over one object. -/
def rangeOk (c : Chip) (o : Obj) (idx : Nat) (v : Bytes) : Bool :=
  let n := leNat v
  (match o.ty with
  | .bool => n ≤ 1
  | .u _ => rngOk o.rng n
  | .i k => rngOk o.rng (decInt (8 * k) n)
  | .stamp => n % 1073741824 ≤ 999999999
  | .text _ => textOk v
  | .angle | .octets _ => true) && c.ownRangeOk idx o.sub n

/-- Relation rules of 07 R755 whose objects include a touched key, over the values `val`. `leap`: 02 R87 is judged. -/
def relationsOk (c : Chip) (touched : Nat → Bool) (leap : Bool) (val : Nat → Nat → Nat) : Bool :=
  let t (i s : Nat) : Bool := touched (objKey i s)
  let can (i : Nat) : Bool := !((List.range 9).any fun k => t i (0x13 + k)) ||
    (40 ≤ val i 0x13 * (1 + val i 0x14 + val i 0x15) && 5 ≤ val i 0x17 * (1 + val i 0x18 + val i 0x19)
      && val i 0x16 ≤ val i 0x15 && val i 0x1A ≤ val i 0x19)
  (!leap || val 0x2030 2 = 0 || c.time.sec < val 0x2030 3)
  && (!(t 0x2020 1 || t 0x2020 5) || val 0x2020 5 * val 0x2020 1 ≤ 4000000)
  && (!(t 0x7100 2 || t 0x7100 3) || val 0x7100 3 < val 0x7100 2 || val 0x7100 2 + 0xFF < val 0x7100 3)
  && can 0x7100 && can 0x7110
  && (!(t 0x8200 2 || t 0x8200 3) || val 0x8200 2 < val 0x8200 3)

/-- The relation rules of a single write (R87 is a rule of object 0x2030.02). -/
def singleRelationsOk (c : Chip) (idx sub : Nat) (v : Bytes) : Bool :=
  c.relationsOk (fun k => k = objKey idx sub) (idx = 0x2030 && sub = 2) fun i s =>
    leNat (c.overlaid [(objKey idx sub, v)] i s)

/-- The relation rules of a commit (07 R322). -/
def commitRelationsOk (c : Chip) (staged : List (Nat × Bytes)) : Bool :=
  let has (k : Nat) : Bool := (assoc k staged).isSome
  c.relationsOk has (has (objKey 0x2030 2) || has (objKey 0x2030 3)) fun i s => leNat (c.overlaid staged i s)

end Chip

end Sys2Proof.Machine
end

