-- ==== Sys2Proof/Machine/CatOps.lean ====
section
/-! DEFINITION. The Catalogue engine at work (07): serving of requests in the order of checks of Table 07-10, single
writes, transactions, and the ends of store images. -/

namespace Sys2Proof.Machine

open Sys2Proof

/-- Object 0x1F00.01. -/
def keyControl : Nat := objKey 0x1F00 1

/-- Firmware-backed indices (07 Table 07-1). -/
def firmwareIdx (i : Nat) : Bool := 0xA000 ≤ i && i ≤ 0xAFFF

namespace Chip

/-! ## Bringing values into force -/

/-- A value takes effect, with what its own chapter makes of the change. -/
def applyVal (key : Nat) (v : Bytes) (c : Chip) : Chip :=
  let idx := key / 256
  let sub := key % 256
  let old := c.objVal idx sub
  let d := c.setVal idx sub v
  let changed : Bool := old != v
  if 0x3100 ≤ idx ∧ idx ≤ 0x3117 then
    let n : Fin 24 := Fin.ofNat 24 (idx - 0x3100)
    if !changed then d else if sub = 1 then d.enableWritten n else if sub = 2 then d.invertWritten n else d
  else match idx, sub with
  | 0x2030, 1 => d.offsetWritten c.offsetO
  | 0x2030, 2 | 0x2030, 3 => d.modTime fun t => { t with leapWritten := true }
  | 0x2020, 2 => d.updateRef c.clk.raw
  | 0x2020, 3 =>
    let e := d.inputsWritten
    (List.finRange 3).foldl (fun (x : Chip) i => if c.zcOn i && !d.zcOn i then x.orderPhaseLost i else x) e
  | 0x5000, 2 => d.queuePreErase
  | 0x3200, 6 => c.modAcc fun a => { a with hostMark := leNat v }
  | 0x6000, 7 => d.rotateKey (Fin.ofNat 4 (leNat v))
  | 0x7300, 0x10 => ((d.setVal 0x7300 0x11 (leBytes 8 c.stamp.toNat)).modCat fun t => { t with dirtySlow := true }).modTag fun t =>
      { t with placardDue := true }
  | 0x8200, 1 => if changed then d.modRgr fun r => { r with wdLast := c.rcNow, wdHalf := false } else d
  | _, _ => d

/-- Values take effect together: outputs that they enable or disable change at one instant. -/
def applyAll (vals : List (Nat × Bytes)) (c : Chip) : Chip :=
  (vals.foldl (fun c e => c.applyVal e.1 e.2) c).outputsWritten c.enabledMask

/-- A kind 0x8 record (07 Table 07-5). -/
def catRecord (ty : Nat) (p : Port) (flags data : Nat) (c : Chip) : Chip :=
  c.arise clsCat 8 (ty * 256 + portRank p % 16 * 16 + flags) data

/-- Data of record types 0 to 3. -/
def txData (count token : Nat) : Nat := count % 256 + 256 * (token % 65536)

def stFail (c : Chip) : Chip := c.modCat fun t => { t with irq := t.irq ||| 8 }

/-! ## Transactions (07 R314 to R328) -/

/-- The transaction ends with a result and its record. -/
def txEnd (result ty : Nat) (c : Chip) : Chip :=
  (c.catRecord ty c.cat.owner 0 (txData c.cat.staged.length c.cat.token)).modCat fun t => { t with
    txState := 3, result, staged := [] }

/-- A commit fails: the abort code that answers it (R322, R344). -/
def commitFail (code : Nat) (c : Chip) : Chip :=
  let c := (c.txEnd 4 3).modCat fun t => { t with lastAbort := code }
  if code = 0xC00C then c.stFail else c

/-- The staged values take effect, or wait for the next crossing (R323, R324). -/
def commitDone (crossing : Bool) (c : Chip) : Chip :=
  let t := c.cat
  if crossing then
    c.modCat fun k => { k with
      txState := 3, result := 5, staged := []
      crossing := k.crossing ++ [{
        vals := t.staged, count := t.staged.length, token := t.token, port := t.owner
        limit := c.clk.raw + c.nominalHalves 4 }] }
  else
    ((c.applyAll t.staged).txEnd 1 0).modCat fun k => { k with irq := k.irq ||| 4 }

/-- Values that wait take effect; flags of Source 3:0. -/
def crossApply (flags : Nat) (x : CrossApply) (c : Chip) : Chip :=
  ((c.applyAll x.vals).catRecord 0 x.port flags (txData x.count x.token)).modCat fun t => { t with
    irq := t.irq ||| 4, result := if t.result = 5 && t.crossing.isEmpty then 1 else t.result }

/-- A compensated crossing of the active reference (R324). -/
def catCrossing (c : Chip) : Chip :=
  c.cat.crossing.foldl (fun c x => c.crossApply 1 x) (c.modCat fun t => { t with crossing := [] })

/-- Two nominal periods have passed without one. -/
def crossTimeout (c : Chip) : Chip :=
  let late (x : CrossApply) : Bool := x.limit ≤ c.clk.raw
  (c.cat.crossing.filter late).foldl (fun c x => c.crossApply 2 x)
    (c.modCat fun t => { t with crossing := t.crossing.filter fun x => !late x })

/-- A timeout of the open transaction (R326, R327). -/
def txTimeout (c : Chip) : Chip :=
  if c.cat.txState = 1 ∧ c.cat.txTick + ticksMs (c.cfg 0x1F00 6) ≤ c.clk.raw then
    let c := (c.txEnd 3 2).modCat fun t => { t with timedOut := some t.owner }
    if c.cat.owner = .host then c.modHost fun h => { h with notices := h.notices ||| 2 } else c
  else c

/-- The staged objects include a stored one. -/
def stagesStored (c : Chip) : Bool :=
  c.cat.staged.any fun e => match objRow (e.1 / 256) (e.1 % 256) with | some o => o.stored | none => false

/-- A COMMIT or COMMIT-AT-ZERO-CROSSING of the owner (R322 to R325, R330). -/
def txCommit (crossing : Bool) (r : Reply) (c : Chip) : Option CatAns × Chip :=
  if !c.commitRelationsOk c.cat.staged then (some (.abort 0xC006), c.commitFail 0xC006)
  else if !c.stagesStored then (some (.ok []), c.commitDone crossing)
  else if !c.storeFree then (some (.abort 0xC00D), c)
  else if c.storeRefused then (some (.abort 0xC00C), c.commitFail 0xC00C)
  else (none, (c.modCat fun t => { t with txState := 2 }).startImage (.commit crossing r) c.cat.staged c.cat.token)

/-- A taken control write (R316). -/
def txControl (p : Port) (v : Nat) (r : Reply) (c : Chip) : Option CatAns × Chip :=
  match v with
  | 1 => (some (.ok []), c.modCat fun t => { t with
      token := (t.token + 1) % 4294967296, staged := [], owner := p, txState := 1, txTick := c.clk.raw, timedOut := none })
  | 2 => c.txCommit false r
  | 3 => (some (.ok []), c.txEnd 2 1)
  | _ => c.txCommit true r

/-- Checks 9 to 15 for a control write by `p`: the first code that applies (07 Tables 07-4 and 07-10). -/
def judgeControl (p : Port) (v : Nat) (c : Chip) : Option Nat :=
  let t := c.cat
  let mine : Bool := samePort p t.owner
  let live : Bool := t.txState = 1 || t.txState = 2
  let ends : Bool := v = 2 || v = 3 || v = 4
  if !live && ends && (match t.timedOut with | some q => samePort p q | none => false) then some 0xC00B
  else if live && !mine then some 0xC007
  else if (!live && ends) || (t.txState = 1 && v = 1) then some 0xC00E
  else if v < 1 ∨ 4 < v then some 0xC006
  else if t.txState = 2 then some 0xC00D
  else none

/-! ## Requests (07 R310 to R313, R343) -/

/-- A firmware-backed request (R306, R307, R348; 11 R503). -/
def serveFirmware (q : CatReq) (superseded : Bool) (c : Chip) : Option CatAns × Chip :=
  if !c.cat.fwReady ∨ c.start.mode = 2 ∨ q.reply = .curator then (some (.abort 0xC00E), c)
  else if q.write && q.port = .debug && !c.right rCatWrite then (some (.abort 0xC00F), c)
  else if q.write && superseded then (some (.abort 0xC008), c)
  else if 4 ≤ c.cat.mbox.length then (some (.abort 0xC00D), c)
  else
    (none, c.modCat fun t => { t with
      mboxId := (t.mboxId + 1) % 65536
      mbox := t.mbox ++ [{
        id := t.mboxId, port := q.port, write := q.write, idx := q.idx, sub := q.sub, data := q.data, tick := c.clk.raw
        reply := q.reply }] })

/-- A read of a hardware-backed object; the owner sees its staged value (R320). -/
def serveRead (q : CatReq) (c : Chip) : CatAns :=
  let staged : Option Bytes :=
    if (c.cat.txState = 1 ∨ c.cat.txState = 2) ∧ samePort q.port c.cat.owner then assoc (objKey q.idx q.sub) c.cat.staged else none
  match objRow q.idx q.sub with
  | some o => if o.acc = .wo then .abort 0xC004 else .ok (staged.getD (c.readValue q.port q.idx q.sub))
  | none => if q.sub = 0 then .ok (c.readValue q.port q.idx 0) else .abort 0xC002

/-- Where the order pipeline reads a port's message: the start of the page of the host port or of the CAN controller. -/
def orderBuffer (p : Port) : Nat :=
  match p with
  | .canA => 0x40009000
  | .canB => 0x4000A000
  | _ => 0x40008000

/-- The write of a WO object. -/
def actWrite (q : CatReq) (c : Chip) : Option CatAns × Chip :=
  let v := leNat q.data
  let done (c : Chip) : Option CatAns × Chip := (some (.ok []), c)
  let judged (x : Option Nat × Chip) : Option CatAns × Chip :=
    (some (match x.1 with | some code => .abort code | none => .ok []), x.2)
  if 0x4100 ≤ q.idx ∧ q.idx ≤ 0x4107 then done (c.clearLatch (Fin.ofNat 8 (q.idx - 0x4100)))
  else match q.idx, q.sub with
  | 0x1F00, _ => c.txControl q.port v q.reply
  | 0x1010, _ =>
    if c.start.mode ≠ 2 then (some (.abort 0xC00E), c)
    else if v = 2 ∧ c.start.reserve14 then (some (.abort 0xC00E), c)
    else if v = 2 ∧ !c.right rPairOverride then (some (.abort 0xC00F), c)
    else done (c.retryStart (v = 2) quietEnv)
  | 0x1F50, 3 => judged (c.blockData q.port q.data)
  | 0x1F50, _ =>
    -- the reads of a rollback wait for the array, and the request with them
    if (v = 7 ∨ v = 8) ∧ c.slotWaits (v - 6) (1 - c.activeSlot (v - 6)) then (none, c.modCat fun t => { t with reqs := q :: t.reqs })
    else judged (c.imageControl q.port v)
  | 0x4200, _ =>
    -- the order pipeline reads the message from the page buffer of its port (16 R699; log 73)
    match c.firstRefused 3 .read false ((List.range 40).map (orderBuffer q.port + ·)) with
    | some (a, _) => (some (.abort 0xC00D), c.refuseTransfer 3 a)
    | none => (none, c.submitOrder { port := q.port, tick := q.tick, bytes := q.data, reply := q.reply })
  | 0x8000, _ => done (c.alertClear (byteOf v))
  | _, _ => done c

/-- A stored value is written by an image of its own (R329, R330). -/
def storedWrite (q : CatReq) (c : Chip) : Option CatAns × Chip :=
  let key := objKey q.idx q.sub
  if !c.storeFree then (some (.abort 0xC00D), c)
  else if c.storeRefused then (some (.abort 0xC00C), c.stFail)
  else (none, c.startImage (.single q.port key q.reply) [(key, q.data)] 0)

/-- Checks 5 to 12 of 07 Table 07-10 for a write of a listed subindex. -/
def judgeAccess (q : CatReq) (o : Obj) (superseded : Bool) (c : Chip) : Option Nat :=
  let key := objKey q.idx q.sub
  let t := c.cat
  let mine : Bool := samePort q.port t.owner
  let staging : Bool := o.acc = .rw || o.acc = .rwt
  let lapsed : Bool := match t.timedOut with | some p => samePort q.port p | none => false
  if o.acc = .const ∨ o.acc = .ro ∨ (q.idx = 0x1F10 ∧ q.sub = 1 ∧ c.policyLocked) then some 0xC003
  else if q.port ≠ .internal ∧ o.ports &&& portBit q.port = 0 then some 0xC009
  else if q.port = .debug ∧ !c.right rCatWrite then some 0xC00F
  else if q.data.length ≠ o.ty.bytes then some 0xC005
  else if staging ∧ lapsed then some 0xC00B
  else if (t.txState = 1 ∨ t.txState = 2) ∧ !mine ∧ (assoc key t.staged).isSome then some 0xC007
  else if q.idx = 0x1F50 ∧ (c.imageJudge q.port q.sub (leNat q.data)).isSome then c.imageJudge q.port q.sub (leNat q.data)
  else if o.acc = .rwt ∧ !(t.txState = 1 && mine) then some 0xC00E
  else if superseded ∧ key ≠ objKey 0x4200 1 then some 0xC008
  else none

/-- A write of a hardware-backed object. -/
def serveWrite (q : CatReq) (superseded : Bool) (c : Chip) : Option CatAns × Chip :=
  let key := objKey q.idx q.sub
  match objRow q.idx q.sub with
  | none => (some (.abort (if q.sub = 0 then 0xC003 else 0xC002)), c)
  | some o =>
    let control : Bool := key = keyControl
    -- a control write of a transfer's owner has arrived (11 R498)
    let c := if q.idx = 0x1F50 ∧ q.sub = 1 ∧ c.imageOpen ∧ !c.imageForeign q.port then
        c.modRgr fun r => { r with imgTick := c.clk.raw }
      else c
    match c.judgeAccess q o (superseded && !control), (if control then c.judgeControl q.port (leNat q.data) else none) with
    | some code, _ => (some (.abort code), c)
    | none, some code => (some (.abort code), c)
    | none, none =>
      let staging : Bool := (o.acc = .rw || o.acc = .rwt) && c.cat.txState = 1 && samePort q.port c.cat.owner
      if !c.rangeOk o q.idx q.data ∨ (!staging ∧ (o.acc = .rw || o.acc = .rwt) ∧ !c.singleRelationsOk q.idx q.sub q.data) then
        (some (.abort 0xC006), c)
      else if staging then
        if (assoc key c.cat.staged).isNone ∧ 64 ≤ c.cat.staged.length then (some (.abort 0xC00A), c)
        else (some (.ok []), c.modCat fun t => { t with staged := assocPut key (some q.data) t.staged, txTick := c.clk.raw })
      else if o.stored then c.storedWrite q
      else if o.acc = .wo then c.actWrite q
      else (some (.ok []), c.applyVal key q.data)

/-- Window of a tick (R310). -/
def windowOf (tick : Nat) : Nat := tick / 400

/-- A write to the same object from a port of higher rank has been taken in the request's window. -/
def isSuperseded (q : CatReq) (c : Chip) : Bool :=
  c.cat.taken.any fun e => e.1 = windowOf q.tick && e.2.1 = objKey q.idx q.sub && portRank e.2.2 < portRank q.port

/-- One request is served, judged against the state left by those before it. -/
def serve (q : CatReq) (c : Chip) : Option CatAns × Chip :=
  let sup := c.isSuperseded q
  let r := if firmwareIdx q.idx then c.serveFirmware q sup
    else if objRows q.idx = [] then (some (.abort 0xC001), c)
    else if q.write then c.serveWrite q sup
    else (some (c.serveRead q), c)
  let refused : Bool := match r.1 with | some (.abort _) => true | _ => false
  let w := windowOf q.tick
  if q.write && !refused then
    (r.1, r.2.modCat fun t => { t with taken := t.taken.filter (·.1 = w) ++ [(w, objKey q.idx q.sub, q.port)] })
  else r

/-- As `serve`, with the answer delivered. -/
def serveNow (q : CatReq) (c : Chip) : Chip :=
  let r := c.serve q
  let c := match r.1 with
    | some (.abort 0xC00C) => r.2.stFail
    | _ => r.2
  match r.1 with
  | some a => c.deliver q.reply q.write a
  | none => c

/-- Order of service: window, rank, arrival (R311). -/
def reqBefore (a b : CatReq) : Bool :=
  windowOf a.tick < windowOf b.tick || (windowOf a.tick = windowOf b.tick && portRank a.port < portRank b.port)

def reqInsert (q : CatReq) : List CatReq → List CatReq
  | [] => [q]
  | x :: r => if reqBefore q x then q :: x :: r else x :: reqInsert q r

/-- A request is presented at the arbiter. An order message goes to Verify at its arrival, without waiting for a window
(04 R163, R187; DEDUCED, log 29). -/
def requestAt (tick : Nat) (p : Port) (write : Bool) (idx sub : Nat) (data : Bytes) (r : Reply) (c : Chip) : Chip :=
  let q : CatReq := { port := p, tick, write, idx, sub, data, reply := r }
  if write ∧ idx = 0x4200 ∧ sub = 1 then c.serveNow q else c.modCat fun t => { t with reqs := t.reqs ++ [q] }

/-- A request is presented now. -/
def request (p : Port) (write : Bool) (idx sub : Nat) (data : Bytes) (r : Reply) (c : Chip) : Chip :=
  c.requestAt c.clk.raw p write idx sub data r

/-- The windows that have closed are served. -/
def arbiterClose (c : Chip) : Chip :=
  let due (q : CatReq) : Bool := windowOf q.tick < windowOf c.clk.raw
  let now := (c.cat.reqs.filter due).foldl (fun l q => reqInsert q l) []
  now.foldl (fun c q => c.serveNow q) (c.modCat fun t => { t with reqs := t.reqs.filter fun q => !due q })

/-- A write of an object by a port, served at once with nobody to answer: the rows of the table that name one write. -/
def writeNow (p : Port) (idx sub : Nat) (data : Bytes) (c : Chip) : Chip :=
  c.serveNow { port := p, tick := c.clk.raw, write := true, idx, sub, data, reply := .none }

/-! ## Ends of images (07 R323, R329, R337, R344) -/

/-- An image has failed to verify, or may not be programmed. -/
def storeFailed (j : CatJob) (c : Chip) : Chip :=
  let c := c.imageFailed
  match j.why with
  | .commit _ r => (c.commitFail 0xC00C).deliver r true (.abort 0xC00C)
  | .single _ _ r => c.stFail.deliver r true (.abort 0xC00C)
  | .internal => c

/-- The read-back of the image matches, or not; that of a retired slot cannot. A page of an image given up under PFW_N ends. -/
def storeVerified (ok : Bool) (c : Chip) : Chip :=
  match c.cns.run, c.cat.job with
  | some r, some j =>
    if r.op ≠ .catImage ∧ r.op ≠ .catRead then c
    else
      let c := c.endRun
      if !ok ∨ c.retired (896 + c.nextSlot) then (c.when (r.op = .catImage) (tearWords (slotOff c.nextSlot) j.image)).storeFailed j
      else
        let c := c.imageInForce j
        match j.why with
        | .commit crossing rep => (c.commitDone crossing).deliver rep true (.ok [])
        | .single p key rep =>
          ((c.applyAll j.vals).catRecord 4 p 0 (key / 256 + 65536 * (key % 256))).deliver rep true (.ok [])
        | .internal => c.catRecord 5 .internal 0 (c.cat.gen % 16777216)
  | some r, none => if r.op = .catImage ∨ r.op = .catRead then c.endRun else c
  | none, _ => c

/-- PFW_N asserts: the image that waits or runs is refused, and the program of a page that runs goes on to its end (05 R229; log 24). -/
def catPfw (c : Chip) : Chip :=
  match c.cat.job with
  | none => c
  | some j =>
    let running : Bool := match c.cns.run with | some r => r.op = .catImage | none => false
    (c.when running (tearWords (slotOff c.nextSlot) j.image)).storeFailed j

/-- An internal image is due (R304). -/
def internalImage (c : Chip) : Chip :=
  let due : Bool := c.cat.dirtyFast || (c.cat.dirtySlow && c.cat.lastSlow + ticksS 86400 ≤ c.clk.raw)
  if due && c.storeFree && !c.storeRefused then c.startImage .internal [] 0 else c

end Chip

end Sys2Proof.Machine
end

