-- ==== Sys2Proof/Machine/HostOps.lean ====
section
/-! DEFINITION. The host port (08): frames, the two response slots, record reading, notices and attention. -/

namespace Sys2Proof.Machine

open Sys2Proof

/-! ## Commands (08 Table 08-3) -/

def cmdStatus : Byte := 0x00
def cmdCatRead : Byte := 0x01
def cmdCatWrite : Byte := 0x02
def cmdRecRead : Byte := 0x10
def cmdRecStatus : Byte := 0x11
def cmdOrder : Byte := 0x20
def cmdTodSet : Byte := 0x30
def cmdLoan : Byte := 0x40
def cmdImageBlock : Byte := 0x50
def cmdRespFetch : Byte := 0x7F

def hostDefined (cmd : Byte) : Bool :=
  [cmdStatus, cmdCatRead, cmdCatWrite, cmdRecRead, cmdRecStatus, cmdOrder, cmdTodSet, cmdLoan, cmdImageBlock, cmdRespFetch].contains cmd

/-- Arguments and payload length as 08 Table 08-3 has them (R367). -/
def hostArgsOk (cmd a1 a2 a3 : Byte) (p : Bytes) : Bool :=
  let z : Bool := a1 = 0 && a2 = 0 && a3 = 0
  if cmd = cmdStatus ∨ cmd = cmdRecStatus then z && p = []
  else if cmd = cmdCatRead then p = []
  else if cmd = cmdCatWrite ∨ cmd = cmdImageBlock then 1 ≤ p.length && p.length ≤ 256
  else if cmd = cmdRecRead then 1 ≤ a1.toNat && a1.toNat ≤ 8 && a2 = 0 && a3 = 0 && p.length = 4
  else if cmd = cmdOrder then z && p.length = 40
  else if cmd = cmdTodSet then z && p.length = 8 && leNat p % 1073741824 = 0
  else if cmd = cmdLoan then a2 = 0 && a3 = 0 && ((a1 = 1 && p = []) || (a1 = 2 && 1 ≤ p.length && p.length ≤ 256))
  else cmd = cmdRespFetch && (a1 = 0 || a1 = 1) && a2 = 0 && a3 = 0 && p = []

/-- A response (08 Table 08-5). -/
def hostResponse (status cmd : Byte) (p : Bytes) : Bytes :=
  let b : Bytes := ([status, cmd] : Bytes) ++ leBytes 2 p.length ++ p
  b ++ beBytes 2 (crc16 b)

namespace Chip

/-! ## Records held -/

/-- Journal position of a record by its number. -/
def journalPos (c : Chip) (s : Nat) : Option Nat :=
  c.journalHeads.findSome? fun (b, h) =>
    let k := sub32 s h
    if k < 256 ∧ (c.journalSlot (256 * b + k)).isSome then some (256 * b + k) else none

/-- A record whose kind's notify bit is set. -/
def notifies (c : Chip) (b : Bytes) : Bool := (c.cfg 0x3000 1).testBit (leAt b 16 2 / 4096)

/-- Records are pending for the host (03 R142). -/
def recPending (c : Chip) : Bool :=
  let after (s : Nat) : Bool := seqLt c.acc.hostMark s
  c.acc.ring.any (fun e => after e.2.seq && (c.shelved e.2.seq).isSome && c.notifies e.2.rcd.bytes) ||
  c.journalHeads.any fun (b, h) => (List.range 256).any fun k =>
    after ((h + k) % 4294967296) && (match c.journalSlot (256 * b + k) with | some r => c.notifies r | none => false)

/-- 02 Table 02-12. -/
def timStatus (c : Chip) : Nat :=
  syncNat c.time.sync + 8 * bit c.phase.ref.isSome + 16 * c.refBits + 64 * bit (c.leapL ≠ 0) + 128 * bit c.time.holdx

/-- Status byte 3 of the host port (08 Table 08-7). -/
def statusFlags (c : Chip) : Nat :=
  bit c.recPending + 2 * bit c.host.defJob.isSome + 4 * bit c.host.defUnfetched + 8 * bit (c.cat.txState = 1)
  + 16 * bit c.clk.pfw + 32 * bit c.ord.armed

/-- Up to `n` records from `s` on, as the ring or the journal gives them. -/
def takeRecords (get : Nat → Option Bytes) : Nat → Nat → List Bytes
  | 0, _ => []
  | n + 1, s => match get s with
    | some b => b :: takeRecords get n ((s + 1) % 4294967296)
    | none => []

/-! ## Frames (08 R352 to R358) -/

/-- A frame ends: whether it is judged. One that began in busy time is discarded (R357). -/
def frameEnd (c : Chip) : Bool × Chip :=
  if !c.host.open_ then (false, c)
  else
    let late := c.host.frame.getD c.host.busy.isSome
    if late then (false, c.modHost fun h => { h with
      frame := none, driven := [], whileBusy := h.whileBusy + 1, irq := h.irq ||| 8, idleSince := c.clk.raw })
    else (true, c.modHost fun h => { h with
      frame := none, driven := [], attention := none, frames := h.frames + 1, irq := h.irq ||| 1, idleSince := c.clk.raw })

/-- A failed check leaves its status in the immediate slot and nothing else (R354). -/
def hostFailed (status cmd : Byte) (c : Chip) : Chip :=
  c.modHost fun h => { h with
    imm := some { status, cmd, payload := [] }
    crcErrs := if status = 4 then h.crcErrs + 1 else h.crcErrs
    malformed := if status = 6 then h.malformed + 1 else h.malformed
    irq := if status = 4 then h.irq ||| 2 else if status = 6 then h.irq ||| 4 else h.irq }

/-- Commands that LOST and SCRAP answer (12 R545, 13 R570). -/
def lostAllows (cmd a1 a2 : Byte) : Bool :=
  let idx := a1.toNat + 256 * a2.toNat
  cmd = cmdStatus || cmd = cmdRespFetch || (cmd = cmdCatRead && (idx = 0x1000 || idx = 0x1010))

/-- A frame with a good CRC ends: judged, and its command run with HRDY low. -/
def hostFrame (cmd a1 a2 a3 : Byte) (p : Bytes) (run : Chip → Chip) (c : Chip) : Chip :=
  let x := c.frameEnd
  if !x.1 then x.2
  else if !hostArgsOk cmd a1 a2 a3 p then x.2.hostFailed 6 cmd
  else
    let c := x.2.modHost fun h => { h with busy := some cmd }
    if c.dead && !lostAllows cmd a1 a2 then c.hostAnswer 1 (leBytes 2 0xC00E) else run c

/-- HCS_N falls: a frame begins, and an attention pulse ends (R357, R376). -/
def hcsFall (c : Chip) : Chip :=
  if c.host.open_ && c.host.frame.isNone then
    c.modHost fun h => { h with frame := some h.busy.isSome, driven := [], attention := none }
  else c

/-! ## Deferred commands (08 R359 to R362) -/

/-- A deferred command is taken, or finds the slot busy. -/
def takeDeferred (d : Deferred) (c : Chip) : Chip :=
  if c.host.defJob.isSome then c.hostAnswer 8 []
  else (c.modHost fun h => { h with defJob := some d, defUnfetched := false }).hostAnswer 2 []

/-- Command byte of a deferred command. -/
def deferredCmd : Deferred → Byte
  | .records _ _ => cmdRecRead
  | .challenge | .loan _ => cmdLoan
  | .image _ _ => cmdImageBlock

/-- The deferred slot takes its answer, with notice 0 (R378). -/
def endDeferred (d : Deferred) (status : Nat) (p : Bytes) (c : Chip) : Chip :=
  c.modHost fun h => { h with
    defJob := none, defr := some { status := byteOf status, cmd := deferredCmd d, payload := p }, defUnfetched := true
    notices := h.notices ||| 1 }

/-- The block of a number whose block is under erase: its records have left the journal, and a read of them waits (05 R220, R224). -/
def erasingBlock (c : Chip) (s : Nat) : Option Nat :=
  match c.preEraseBegun with
  | none => none
  | some b => match c.journalSlot (256 * b) with
    | some e => if sub32 s (leAt e 12 4) < 256 then some b else none
    | none => none

/-- A deferred REC_READ from the journal (R370 to R372); it waits where the array does (05 R217 to R220). -/
def deferredRecords (d : Deferred) (s n : Nat) (c : Chip) : Chip :=
  let get (t : Nat) : Option Bytes := match c.journalFind t with | some b => some b | none => (c.shelved t).map (·.rcd.bytes)
  let l := takeRecords get n s
  let reads := ((List.range l.length).filterMap fun i => c.journalPos ((s + i) % 4294967296))
  let blocks := ((reads.map (· / 256)) ++ (if l = [] then (c.erasingBlock s).toList else [])).eraseDups.map journalBlock
  let c := blocks.foldl (fun (x : Chip) b => x.readRequest (some b)) c
  if blocks.any fun b => c.readWaits (some b) then c
  else if l = [] then c.endDeferred d 7 (leBytes 4 (c.heldAbove s))
  else (reads.foldl (fun (x : Chip) p => x.touchFlash (jOff p) 32) c).endDeferred d 0 l.flatten

/-- The deferred command completes. -/
def deferredComplete (c : Chip) : Chip :=
  match c.host.defJob with
  | none => c
  | some d => match d with
    | .records s n => c.deferredRecords d s n
    | .challenge =>
      let x := c.makeChallenge
      x.2.endDeferred d 0 (byteOf x.1 :: padTo 0 16 (x.2.dbg.chal.getD []))
    | .loan cert =>
      let x := c.presentLoan cert
      x.2.endDeferred d 0 (byteOf x.1 :: leBytes 4 x.2.rights)
    | .image n data =>
      -- a block under PFW_N waits for its deassertion (05 R752)
      if c.clk.pfw && c.rgr.imgStatus = 2 then c
      else match c.hostBlock n data with
        | (.inl code, c) => c.endDeferred d 1 (leBytes 2 code)
        | (.inr p, c) => c.endDeferred d 0 p

/-! ## Commands -/

/-- 08 Table 08-7. -/
def statusPayload (c : Chip) : Bytes :=
  [byteOf c.start.mode, byteOf c.timStatus, byteOf c.host.notices, byteOf c.statusFlags] ++ leBytes 4 c.acc.nextSeq
    ++ leBytes 4 c.acc.hostMark ++ leBytes 2 c.freeSlots ++ ([byteOf c.startReason, 0] : Bytes)

/-- STATUS. The notices it reports are cleared (R378). -/
def hostStatus (c : Chip) : Chip := (c.modHost fun h => { h with notices := 0 }).hostAnswer 0 c.statusPayload

def hostRecStatus (c : Chip) : Chip :=
  c.hostAnswer 0 (leBytes 4 c.journalOldest ++ leBytes 4 c.journalNewest ++ leBytes 4 c.accOldest ++ leBytes 4 c.acc.nextSeq
    ++ leBytes 4 c.acc.hostMark)

/-- REC_READ (R370 to R372). -/
def hostRecRead (n s : Nat) (c : Chip) : Chip :=
  if !seqLt s c.acc.nextSeq then c.hostAnswer 0x0A (leBytes 4 c.acc.nextSeq)
  else if (c.shelved s).isSome then
    c.hostAnswer 0 (takeRecords (fun t => (c.shelved t).map (·.rcd.bytes)) n s).flatten
  else c.takeDeferred (.records s n)

def hostTodSet (st : Dword) (c : Chip) : Chip :=
  if !c.cfgB 0x7000 0xA then c.hostAnswer 0 [2]
  else
    let x := c.todMessage 0 st
    x.2.hostAnswer 0 [if x.1 then 0 else 1]

/-- LOAN (13 R586). -/
def hostLoan (a1 : Byte) (cert : Bytes) (c : Chip) : Chip :=
  if c.inReserve14 then c.hostAnswer 1 (leBytes 2 0xC00E)
  else if a1 = 1 then c.takeDeferred .challenge else c.takeDeferred (.loan cert)

/-- The response in a slot (R359 to R361, Table 08-6). -/
def slotResponse (deferred : Bool) (c : Chip) : Bytes :=
  let of (a : Option Answer) : Bytes := match a with
    | some a => hostResponse a.status a.cmd a.payload
    | none => hostResponse 9 Config.emptyEcho []
  if !deferred then of c.host.imm
  else match c.host.defJob with
    | some d => hostResponse 3 (deferredCmd d) []
    | none => of c.host.defr

/-- What the device drives on HIO3 to HIO0 over the response phase, clock by clock: a byte leaves most significant bit first on HIO1 in
single I/O, and high nibble first on all four in quad; `none` is high impedance (R349, R350). -/
def hioClocks (quad : Bool) (b : Byte) : List (Vector (Option Bool) 4) :=
  if quad then [4, 0].map fun n => Vector.ofFn fun k => some (b.getLsbD (n + 3 - k.val))
  else (List.range 8).map fun n => #v[none, none, some (b.getLsbD (7 - n)), none]

/-- The response phase on the lines; no clock of any other phase drives them. -/
def hioLines (c : Chip) : List (Vector (Option Bool) 4) := c.host.driven.flatMap (hioClocks c.host.quad)

/-- RESP_FETCH (R362 to R366): the bytes that `clocks` clocks after the turnaround take out. -/
def respFetch (a1 a2 a3 : Byte) (crcOk : Bool) (clocks : Nat) (c : Chip) : Chip :=
  let x := c.frameEnd
  if !x.1 then x.2
  else
    let c := x.2
    let n := clocks / (if c.host.quad then 2 else 8)
    let send (b : Bytes) (c : Chip) : Chip := c.modHost fun h => { h with driven := padTo 0xFF n b }
    if !crcOk then
      (c.modHost fun h => { h with crcErrs := h.crcErrs + 1, irq := h.irq ||| 2 }).modHost fun h =>
        { h with driven := padTo 0xFF n (hostResponse 4 cmdRespFetch []) }
    else if !hostArgsOk cmdRespFetch a1 a2 a3 [] then c.hostFailed 6 cmdRespFetch
    else
      let c := send (c.slotResponse (a1 = 1)) c
      if a1 = 1 ∧ c.host.defJob.isNone then c.modHost fun h => { h with defUnfetched := false } else c

/-- A frame that breaks a check of 08 Table 08-2, as it came. One that breaks none is none of these frames; a fetch
frame whose CRC fails changes no slot (R362, R365). -/
def failedFrame (whole : Bool) (b : Bytes) (c : Chip) : Chip :=
  let cmd := b.getD 0 0
  let body := b.take (b.length - 2)
  let status : Byte :=
    if !whole ∨ b.length < 6 ∨ 262 < b.length then 6
    else if beNat (b.drop (b.length - 2)) ≠ crc16 body then 4
    else if !hostDefined cmd then 5
    else if !hostArgsOk cmd (b.getD 1 0) (b.getD 2 0) (b.getD 3 0) (body.drop 4) then 6
    else 0
  if status = 0 then c
  else if status = 4 ∧ cmd = cmdRespFetch ∧ b.length = 6 then c.respFetch 0 0 0 false 0
  else
    let x := c.frameEnd
    if x.1 then x.2.hostFailed status cmd else x.2

/-! ## Attention (08 R375, R376) -/

def attentionPulse (c : Chip) : Chip :=
  let h := c.host
  let want : Bool := c.recPending || ((h.notices &&& c.cfg 0x7000 4) != 0)
  if h.open_ && h.frame.isNone && h.busy.isNone && h.attention.isNone && c.clk.raw % 400000 = 0
      && h.idleSince + ticksUs 50 ≤ c.clk.raw && c.cfgB 0x7000 3 && want then
    c.modHost fun h => { h with attention := some c.clk.raw }
  else c

def attentionEnd (c : Chip) : Chip :=
  match c.host.attention with
  | some t => if t + ticksUs 2 ≤ c.clk.raw then c.modHost fun h => { h with attention := none } else c
  | none => c

/-- HRDY is high. -/
def hrdy (c : Chip) : Bool := c.host.open_ && c.host.busy.isNone && c.host.attention.isNone

end Chip

end Sys2Proof.Machine
end

