-- ==== Sys2Proof/Machine/CanOps.lean ====
section
/-! DEFINITION. The CAN FD ports (09 R382 to R405): the Catalogue Access Protocol, the merging of the two buses, event
and time frames, and the error states that 09 R382 takes from ISO 11898-1. -/

namespace Sys2Proof.Machine

open Sys2Proof

/-- The Catalogue port of a bus (R396). -/
def canPort (b : Bool) : Port := if b then .canB else .canA

/-- A reply that goes to a CAN bus. -/
def isCanReply : Reply → Bool
  | .can .. => true
  | _ => false

/-! ## Error states -/

/-- State by the error counters: 1 active, 2 passive, 3 bus-off. -/
def errState (tec rec_ : Nat) : Nat := if 256 ≤ tec then 3 else if 128 ≤ tec ∨ 128 ≤ rec_ then 2 else 1

/-- The counters have changed. -/
def CanCtl.judge (k : CanCtl) : CanCtl :=
  let st := errState k.tec k.rec_
  { k with
    st := st
    irq := if st = 3 ∧ k.st ≠ 3 then k.irq ||| 1 else if st = 2 ∧ k.st ≠ 2 then k.irq ||| 2 else k.irq
    busOffs := if st = 3 ∧ k.st ≠ 3 then k.busOffs + 1 else k.busOffs }

/-- The controller takes part in bus traffic. -/
def CanCtl.live (k : CanCtl) : Bool := k.en && (k.st = 1 || k.st = 2)

/-- A correct frame has been received. -/
def CanCtl.received (k : CanCtl) : CanCtl :=
  if k.restricted then k else ({ k with rec_ := if 127 < k.rec_ then 127 else k.rec_ - 1 } : CanCtl).judge

namespace Chip

/-- A bus error with its code of CNx_LEC, as transmitter or receiver. In restricted operation the counters stand and
the controller waits for the bus to idle. -/
def canError (b transmit : Bool) (code : Nat) (c : Chip) : Chip :=
  let k := c.ctl b
  if !k.live ∨ code = 0 ∨ 6 < code then c
  else c.modCtl b fun k =>
    if k.restricted then { k with lec := code, st := 4 }
    else (if transmit then { k with lec := code, tec := k.tec + 8 } else { k with lec := code, rec_ := min 255 (k.rec_ + 1), acked := false } : CanCtl).judge

def protocolException (b : Bool) (c : Chip) : Chip :=
  if (c.ctl b).live then c.modCtl b fun k => { k with st := 4, irq := k.irq ||| 16 } else c

def integrationEnd (b : Bool) (c : Chip) : Chip :=
  if (c.ctl b).en && (c.ctl b).st = 4 then c.modCtl b fun k => { k with st := errState k.tec k.rec_ } else c

def busOffRecover (b : Bool) (c : Chip) : Chip :=
  if (c.ctl b).en && (c.ctl b).st = 3 then c.modCtl b fun k => { k with st := 1, tec := 0, rec_ := 0 } else c

/-- Ticks of 2.5 ns of a bit, and of the span to its sample point, in a phase with the prescaler, TSEG1, TSEG2 and SJW given (R383). -/
def bitTicks (l : List Nat) : Nat := 10 * l.getD 0 1 * (1 + l.getD 1 0 + l.getD 2 0)
def sampleTicks (l : List Nat) : Nat := 10 * l.getD 0 1 * (1 + l.getD 1 0)

/-- A bus takes its next waiting frame, responses first (R388, R398, R403). -/
def canFrameSent (b : Bool) (c : Chip) : Chip :=
  let k := c.ctl b
  if !k.live ∨ k.restricted then c
  else
    let done (id : Nat) (data : Bytes) (c : Chip) : Chip :=
      let measured : Bool := k.brs && k.tdcOffset != 0
      (c.modCtl b fun k => ({ k with
        sent := some { id, data, brs := k.brs, esi := k.st = 2 }, tx := k.tx + 1, tec := k.tec - 1
        tdcv := if measured then Config.canDelay c.clk.free else k.tdcv } : CanCtl).judge).spend
    match k.txq, k.evq with
    | d :: r, _ => (c.modCtl b fun k => { k with txq := r }) |> done (c.can.base + 0x80 + c.can.node) d
    | [], e :: r => (c.modCtl b fun k => { k with evq := r }) |> done (c.can.ebase + c.can.node) e.bytes
    | [], [] => c

/-! ## Requests (R391 to R402) -/

/-- CAP requests that have reached the arbiter and not been answered (R397). -/
def capPending (c : Chip) : Nat :=
  (c.cat.reqs.filter fun q => isCanReply q.reply).length + (c.cat.mbox.filter fun q => isCanReply q.reply).length
  + (c.ord.waiting.filter fun m => isCanReply m.reply).length
  + (match c.cat.job with
    | some j => match j.why with
      | .commit _ r => bit (isCanReply r)
      | .single _ _ r => bit (isCanReply r)
      | .internal => 0
    | none => 0)

def capAbort (b : Bool) (cmd tid : Byte) (idx sub seg code : Nat) (c : Chip) : Chip :=
  c.capSend b cmd tid idx sub seg (capResponse 0xC0 cmd tid idx sub code seg [])

/-- A request goes to the arbiter, unless four wait already. -/
def capRequest (b write : Bool) (cmd tid : Byte) (idx sub seg : Nat) (data : Bytes) (c : Chip) : Chip :=
  if 4 ≤ c.capPending then c.capAbort b cmd tid idx sub seg 0xC00D
  else c.request (canPort b) write idx sub data (.can b cmd tid idx sub seg)

/-- The open transfer, if it is this frame's. -/
def ownSegment (c : Chip) (write : Bool) (tid : Byte) (idx sub : Nat) : Option Segment :=
  match c.can.seg with
  | some s => if s.write = write ∧ s.tid = tid ∧ s.idx = idx ∧ s.sub = sub then some s else none
  | none => none

/-- Why a segment has no transfer: 0xC105 when the timeout has ended it, else 0xC103 (log 27). -/
def noSegment (c : Chip) (tid : Byte) (idx sub : Nat) : Nat := if c.can.lapsed = some (tid, idx, sub) then 0xC105 else 0xC103

/-- A frame of the open transfer has arrived (R394). -/
def touchSegment (c : Chip) : Chip := c.modCan fun n => { n with seg := n.seg.map fun s => { s with tick := c.clk.raw } }

/-- A request frame that is no duplicate (09 Tables 09-3 to 09-5). -/
def capRun (b : Bool) (data : Bytes) (c : Chip) : Chip :=
  let cmd := data.getD 0 0
  let tid := data.getD 1 0
  let idx := leAt data 2 2
  let sub := (data.getD 4 0).toNat
  let len := leAt data 5 2
  let seg := (data.getD 7 0).toNat
  let body := data.drop 8
  let abort (code : Nat) : Chip := c.capAbort b cmd tid idx sub seg code
  let ack (c : Chip) (v : Bytes) : Chip := c.capSend b cmd tid idx sub seg (capResponse 0x80 cmd tid idx sub 0 seg v)
  match cmd.toNat with
  | 1 => c.capRequest b false cmd tid idx sub seg []
  | 2 => if body.length < len then abort 0xC102 else c.capRequest b true cmd tid idx sub seg (body.take len)
  | 3 =>
    if c.can.seg.isSome then abort 0xC104
    else if len < 57 ∨ 256 < len then abort 0xC005
    else if body.length < 56 then abort 0xC102
    else
      let s : Segment := { write := true, tid, idx, sub, total := len, value := body.take 56, next := 1, tick := c.clk.raw, bus := b }
      ack (c.modCan fun n => { n with seg := some s, lapsed := none }) []
  | 4 =>
    match c.ownSegment true tid idx sub with
    | none => abort (c.noSegment tid idx sub)
    | some s =>
      let n := min 56 (s.total - 56 * s.next)
      if seg ≠ s.next then c.touchSegment.capAbort b cmd tid idx sub seg 0xC103
      else if body.length < n then c.touchSegment.capAbort b cmd tid idx sub seg 0xC102
      else
        let v := s.value ++ body.take n
        if v.length < s.total then
          ack (c.modCan fun k => { k with seg := some { s with value := v, next := s.next + 1, tick := c.clk.raw } }) []
        else (c.modCan fun k => { k with seg := none }).capRequest b true cmd tid idx sub seg v
  | 5 =>
    match c.ownSegment false tid idx sub with
    | none => abort (c.noSegment tid idx sub)
    | some s =>
      if seg ≠ s.next then c.touchSegment.capAbort b cmd tid idx sub seg 0xC103
      else
        let last : Bool := s.total ≤ 56 * (s.next + 1)
        ack (c.modCan fun k => { k with
          seg := if last then none else some { s with next := s.next + 1, tick := c.clk.raw } }) (slice s.value (56 * s.next) 56)
  | 6 =>
    match c.can.seg with
    | some s => if s.tid = tid ∧ s.idx = idx ∧ s.sub = sub then ack (c.modCan fun k => { k with seg := none }) [] else abort 0xC103
    | none => abort (c.noSegment tid idx sub)
  | _ => abort 0xC101

/-- A CAN-A copy of the same stamp tick takes the place of CAN-B's as the original, in what is remembered and in what still waits
(R401, R402). -/
def capSwap (i : Nat) (e : DupEntry) (c : Chip) : Chip :=
  let mine (r : Reply) : Bool := match r with
    | .can true cmd tid _ _ seg => e.data.getD 0 0 == cmd && e.data.getD 1 0 == tid && (e.data.getD 7 0).toNat == seg
    | _ => false
  let toA (r : Reply) : Reply := match r with | .can _ cmd tid i s g => .can false cmd tid i s g | r => r
  ((c.modCan fun n => { n with
    dup := n.dup.modify i fun e => { e with bus := false }
    seg := n.seg.map fun s => if s.bus && s.tick = e.tick then { s with bus := false } else s }).modCat fun t => { t with
    reqs := t.reqs.map fun q => if mine q.reply && q.tick = e.tick then { q with port := .canA, reply := toA q.reply } else q }).modOrd fun o =>
    { o with waiting := o.waiting.map fun m => if mine m.reply && m.tick = e.tick then { m with port := .canA, reply := toA m.reply } else m }

/-- A duplicate gets the original's response on its own bus, now or once it exists (R400). -/
def capDuplicate (b : Bool) (i : Nat) (e : DupEntry) (c : Chip) : Chip :=
  let swap : Bool := !b && e.bus && e.tick = c.clk.raw
  let c := (c.modCan fun n => { n with dups := n.dups + 1 }).modCtl (b || swap) fun k => { k with irq := k.irq ||| 8 }
  let c := if swap then c.capSwap i e else c
  match e.resp with
  | some r => c.canSend b r
  | none => c.modCan fun n => { n with dup := n.dup.modify i fun e => { e with waiting := e.waiting ++ [b || swap] } }

/-- A data length of a CAN frame (09 Table 09-1). -/
def canLength (fd : Bool) (n : Nat) : Bool := n ≤ 8 || (fd && n ≤ 64 && fdLen n = n)

/-- A frame that a controller takes: base format, data, with identifier B + N or B (R382, R388). -/
def isRequest (c : Chip) (h : CanHead) : Bool := !h.ext && !h.rtr && h.id = c.can.base + c.can.node
def isTime (c : Chip) (h : CanHead) : Bool := !h.ext && !h.rtr && h.id = c.can.base

/-- A correct frame is acknowledged whatever it is; the frames a controller takes are counted (R388). -/
def canHears (b : Bool) (h : CanHead) (c : Chip) : Chip :=
  c.modCtl b fun k => { CanCtl.received k with acked := true, rx := if c.isRequest h || c.isTime h then k.rx + 1 else k.rx }

/-- The last 16 requests are remembered; one that gives way and is still to be answered is owed its answer (R399, R400). -/
def rememberRequest (e : DupEntry) (c : Chip) : Chip :=
  c.modCan fun n =>
    let l := (n.dup.filter fun x => x.data.getD 1 0 != e.data.getD 1 0) ++ [e]
    let kept := l.drop (l.length - 16)
    { n with taken := n.taken + 1, dup := kept, owed := n.owed ++ n.dup.filter fun x => x.resp.isNone && !kept.contains x }

/-- A frame arrives (R390): with the request identifier, FD and long enough, it is a request (R391, R399). -/
def capFrame (b : Bool) (h : CanHead) (data : Bytes) (c : Chip) : Chip :=
  if !(c.ctl b).live ∨ !canLength h.fd data.length ∨ c.isTime h then c
  else
    let r := c.isRequest h
    let c := c.canHears b h
    if !r then c
    else if !h.fd ∨ data.length < 8 then c.modCan fun n => { n with ignored := n.ignored + 1 }
    else
      let same (e : DupEntry) : Bool := e.data == data && c.clk.raw ≤ e.tick + ticksMs (c.cfg 0x7100 4)
      match c.can.dup.findIdx? same with
      | some i => match c.can.dup[i]? with
        | some e => c.capDuplicate b i e
        | none => c
      | none =>
        (c.rememberRequest { data, bus := b, tick := c.clk.raw, resp := none, waiting := [] }).capRun b data

/-- No frame of the transfer within the segment timeout (R394). -/
def segmentTimeout (c : Chip) : Chip :=
  match c.can.seg with
  | some s =>
    if s.tick + ticksMs (c.cfg 0x7100 5) ≤ c.clk.raw then
      c.modCan fun n => { n with seg := none, lapsed := some (s.tid, s.idx, s.sub) }
    else c
  | none => c

/-- A CAN time frame (R405). -/
def canTimeFrame (b : Bool) (h : CanHead) (data : Bytes) (c : Chip) : Chip :=
  if !(c.ctl b).live ∨ !canLength h.fd data.length ∨ c.isRequest h then c
  else
    let time := c.isTime h
    let c := c.canHears b h
    let st := leNat data
    if !time ∨ data.length ≠ 8 ∨ st % 1073741824 ≠ 0 ∨ !c.cfgB 0x2010 7 ∨ c.time.tod = some (st / 1073741824) then c
    else (c.todMessage (if b then 2 else 1) (BitVec.ofNat 64 st)).2

/-- CAN_STBY is high (R386). -/
def canStandby (c : Chip) : Bool := !(c.can.open_ && (c.can.a.en || c.can.b.en))

end Chip

end Sys2Proof.Machine
end

