-- ==== Sys2Proof/Machine/TwOps.lean ====
section
/-! DEFINITION. The two-wire target and its Catalogue proxy (09 R406 to R420), and the management two-wire controller
(09 R421 to R424). -/

namespace Sys2Proof.Machine

open Sys2Proof

namespace Chip

/-! ## The target -/

/-- The status area of 09 Table 09-6, 32 bytes. -/
def twStatus (c : Chip) : Bytes :=
  leBytes 2 0x2630 ++ ([Config.siliconRev, byteOf c.start.mode, byteOf c.timStatus, byteOf c.statusFlags, byteOf c.startReason, 0] : Bytes)
  ++ leBytes 4 c.acc.nextSeq ++ leBytes 4 c.journalNewest ++ leBytes 2 c.freeSlots ++ leBytes 2 0 ++ leBytes 4 c.frequency
  ++ ([byteOf c.pendingMask, byteOf c.latchedMask, byteOf c.lockBits] : Bytes) ++ List.replicate 5 0

/-- The target cannot serve (R408). -/
def twRefuses (c : Chip) : Bool := !c.tw.open_ || !c.cfgB 0x7200 2 || c.tw.pRun || c.tw.pStart != 0

/-- A STOP: the settings last applied come into force (R420). -/
def twStop (c : Chip) : Chip :=
  if c.tw.open_ && c.cat.loaded then
    c.modTw fun t => { t with filter := c.cfg 0x7200 3, holdT := c.cfg 0x7200 4, setup := c.cfg 0x7200 5 }
  else c

/-- A byte written at a pointer (R412). -/
def twPut (p : Nat) (b : Byte) (t : TwoWire) : TwoWire :=
  if p = 0x100 then { t with pIdx := (t.pIdx &&& 0xFF00) ||| b.setWidth 16 }
  else if p = 0x101 then { t with pIdx := (t.pIdx &&& 0x00FF) ||| (b.setWidth 16 <<< 8) }
  else if p = 0x102 then { t with pSub := b }
  else if p = 0x103 then { t with pLen := b }
  else if p = 0x104 then { t with pStart := if b = 1 ∨ b = 2 then b else t.pStart }
  else if 0x200 ≤ p ∧ p < 0x300 then { t with pData := t.pData.put 0 (p - 0x200) b }
  else t

/-- Bytes written from the pointer on, within its 32-byte page (R409). -/
def twPutAll : Bytes → TwoWire → TwoWire
  | [], t => t
  | b :: bs, t =>
    let p := t.ptr.toNat
    twPutAll bs { twPut p b t with ptr := BitVec.ofNat 16 (p / 32 * 32 + (p + 1) % 32) }

/-- A byte read at a pointer, over the snapshot (R411, R412). -/
def twGet (t : TwoWire) (p : Nat) : Byte :=
  if p < 0x20 then t.snap.getD p 0
  else if p = 0x100 then byteOf t.pIdx.toNat
  else if p = 0x101 then byteOf (t.pIdx.toNat / 256)
  else if p = 0x102 then t.pSub
  else if p = 0x103 then t.pLen
  else if p = 0x105 then t.pStat
  else if p = 0x106 then byteOf t.pAbort.toNat
  else if p = 0x107 then byteOf (t.pAbort.toNat / 256)
  else if 0x200 ≤ p ∧ p < 0x300 then t.pData.get 0 (p - 0x200)
  else 0

/-- The target's address appears on the bus: whether it acknowledges (R407). -/
def twAddressed (addr : BitVec 7) (c : Chip) : Bool × Chip :=
  if addr.toNat ≠ c.tw.addr then (false, c.modTw fun t => { t with acked := false })
  else if c.twRefuses then
    (false, c.modTw fun t => { t with acked := false, count := t.count + 1, refused := t.refused + 1, irq := t.irq ||| 2 })
  else (true, c.modTw fun t => { t with acked := true, count := t.count + 1 })

/-- A transaction ends: with a STOP, or a repeated START. -/
def twEnd (stop : Bool) (c : Chip) : Chip := if stop then c.twStop else c

/-- A write transaction, to its STOP or repeated START (R409), which is the instant of a proxy command written in it (R413). -/
def twWrite (addr : BitVec 7) (data : Bytes) (stop : Bool) (c : Chip) : Chip :=
  let x := c.twAddressed addr
  if !x.1 then x.2.twEnd stop
  else
    (x.2.modTw fun t =>
      let t := match data with
        | hi :: lo :: rest => twPutAll rest { t with ptr := BitVec.ofNat 16 (256 * hi.toNat + lo.toNat) }
        | _ => t
      { t with irq := t.irq ||| 4, pTick := c.clk.raw }).twEnd stop

/-- A read transaction of `n` bytes (R410, R411). -/
def twRead (addr : BitVec 7) (n : Nat) (stop : Bool) (c : Chip) : Chip :=
  let x := c.twAddressed addr
  if !x.1 then x.2.twEnd stop
  else
    let snap := c.twStatus
    (x.2.modTw fun t =>
      let t := { t with snap }
      { t with out := (List.range n).map fun k => twGet t ((t.ptr.toNat + k) % 65536), ptr := t.ptr + BitVec.ofNat 16 n }).twEnd stop

/-- A proxy command starts (R413, R414). -/
def proxyStart (write : Bool) (c : Chip) : Chip :=
  if c.tw.pStart ≠ (if write then 2 else 1) then c
  else
    let n := if c.tw.pLen = 0 then 256 else c.tw.pLen.toNat
    let data := if write then c.tw.pData.read 0 0 n else []
    (c.modTw fun t => { t with pStart := 0, pRun := true, pStat := 0 }).requestAt c.tw.pTick .twoWire write c.tw.pIdx.toNat c.tw.pSub.toNat data .twoWire

/-! ## The management controller -/

/-- A write of TWM_CMD (R429): the transfer takes its address, what it writes and how much it reads (R422; log 75). -/
def twmCommand (v : Byte) (c : Chip) : Chip :=
  if v = 1 ∧ c.twm.res ≠ 1 ∧ c.twm.ctrl.getLsbD 0 then
    c.modTwm fun t => { t with
      res := 1, tries := 1, inGap := false, since := c.clk.raw, pulses := 0
      bus := some (t.addr.toNat % 128, t.wbuf.read 0 0 (min 32 t.wlen.toNat), min 32 t.rlen.toNat) }
  else c

/-- An attempt ends (R422 to R424): `sdaLow` SCL pulses were needed before SDA was high, or ten for one that nine did not free. -/
def twmDone (sdaLow : Nat) (addressAck dataAck : Bool) (rd : Bytes) (c : Chip) : Chip :=
  if c.twm.res ≠ 1 ∨ c.twm.inGap then c
  else c.modTwm fun t =>
    let t := { t with pulses := min 9 sdaLow }
    if 9 < sdaLow then { t with res := 7 }
    else if !addressAck then
      if t.tries.toNat ≤ t.retry.toNat % 16 then { t with inGap := true, since := c.clk.raw } else { t with res := 3 }
    else match t.bus with
      | some (_, w, r) =>
        if w ≠ [] ∧ !dataAck then { t with res := 4 } else { t with res := 2, rbuf := Cells.write 0 t.rbuf 0 (padTo 0 r rd) }
      | none => t

/-- The retry gap of TWM_RETRY 7:4 has passed: the next attempt (R423). -/
def twmGap (c : Chip) : Chip :=
  if c.twm.res = 1 ∧ c.twm.inGap ∧ c.twm.since + ticksUs (100 * (c.twm.retry.toNat / 16)) ≤ c.clk.raw then
    c.modTwm fun t => { t with inGap := false, tries := t.tries + 1, since := c.clk.raw }
  else c

/-- A target has held SCL low for 25 ms, which lie within the attempt: the transfer ends (R424). -/
def twmHeld (c : Chip) : Chip :=
  if c.twm.res = 1 ∧ !c.twm.inGap ∧ c.twm.since + ticksMs 25 ≤ c.clk.raw then c.modTwm fun t => { t with res := 6 } else c

end Chip

end Sys2Proof.Machine
end

