-- ==== Sys2Proof/Machine/TagOps.lean ====
section
/-! DEFINITION. The contactless port (10): the field domain, ISO/IEC 14443 (log 19), the session overlay, the tag commands
and the placard. -/

namespace Sys2Proof.Machine

open Sys2Proof

namespace Chip

/-! ## What the engine sees (10 R432, R454, R455) -/

/-- The main domain runs on VIO. -/
def mainUp (c : Chip) : Bool := c.clk.vio && c.clk.running

/-- The device as the field domain alone reads it: the flash, and the OTP through its own sensing path. -/
def fieldChip (c : Chip) : Chip :=
  let fresh : Chip := {}
  let b : Chip := { fresh with
    clk := c.clk, mem := c.mem, tag := c.tag, otp := { fuses := c.otp.fuses, shadowA := c.otp.fuses, shadowB := c.otp.fuses } }
  let b := b.loadGrown
  let s := b.journalScan
  let n := match s with | some (_, n) => (n + 1) % 4294967296 | none => 0
  let b := (b.modAcc fun a => { a with
    nextSeq := n, baseSeq := n, drainSeq := n, hostMark := n, jBlock := match s with | some (w, _) => w | none => 511 }).modCns fun k =>
    { k with jNewest := s.map (·.2) }
  let b := b.modTag fun t => { t with placard := b.bestPlacard }
  match b.bestImage with
  | some (_, _, e) => (imageVals e).foldl (fun (x : Chip) v => x.setVal (v.1 / 256) (v.1 % 256) v.2) b
  | none => b

/-- The main domain serves the engine: its store is loaded and its records are numbered. -/
def tagMain (c : Chip) : Bool := c.mainUp && c.acc.en

def tagView (c : Chip) : Chip := if c.tagMain then c else c.fieldChip

/-- Object 0x7300.04 as it judges passwords: live with VIO, as sensed for a session begun in field-only operation. -/
def tagPassword (c : Chip) : Nat := if c.tag.fieldOnly then c.tag.password else c.tagView.cfg 0x7300 4

/-- The engine hears the reader. -/
def tagOpen (c : Chip) : Bool := c.tag.on && c.tag.field && !c.tag.dead && c.tag.enabled

/-- A count and an interrupt that only the main domain keeps. -/
def tagCount (f : Tag → Tag) (c : Chip) : Chip := if c.mainUp then c.modTag f else c

/-! ## The field (10 R443; 13 R556; 17 R725, R726) -/

/-- OTP as one pass of the engine's sensing reads it. -/
def fieldSense (c : Chip) (e : SenseErr) : Bytes × Bytes × Bytes :=
  let m := senseWith c.otp.fuses e
  (m.read 0 0 256, m.read 0 0x300 256, m.read 0 0x240 16)

/-! ### Slot 7 in the field lane (06 R255, R259, R270, R290) -/

/-- Takes up to `m` entries `k` out of what is to strike slot 7. -/
def takeTagFaults (m k : Nat) (c : Chip) : Chip :=
  c.modTag fun t => { t with faults := (List.range m).foldl (fun l _ => l.erase k) t.faults }

/-- Slot 7 is faulted; with the main domain up it is marked and recorded, and that domain's copy is derived again. -/
def tagKeyFault (c : Chip) : Chip :=
  let c := c.modTag fun t => { t with key := [], keyInv := [] }
  if c.mainUp then (c.eraseSlot 7).deriveSlot 7 else c

/-- Both copies of K_tag. -/
def setTagKey (c : Chip) : Chip :=
  c.modTag fun t => { t with
    key := Crypto.kdf t.root labelTag t.uid 128, keyInv := (Crypto.kdf t.root labelTag t.uid 128).map (~~~ ·) }

/-- Rounds of up to three attempts at K_tag. -/
def tagKeyRounds : Nat → Chip → Chip
  | 0, c => c.setTagKey
  | r + 1, c => if 3 ≤ c.tag.faults.count 7 then tagKeyRounds r (c.takeTagFaults 3 7).tagKeyFault else (c.takeTagFaults 2 7).setTagKey

def deriveTagKey (c : Chip) : Chip := tagKeyRounds (c.tag.faults.length / 3 + 1) c

/-- The field lane compares the copies before it uses K_tag; a key that fails is derived again at once. -/
def fieldLane (c : Chip) : Chip :=
  if c.tag.keyInv = c.tag.key.map (~~~ ·) ∧ !c.tag.faults.contains 23 then c else (c.takeTagFaults 1 23).tagKeyFault.deriveTagKey

/-- The reader's field comes on; `faults` is what strikes slot 7 while it lasts. -/
def fieldOn (s1 s2 : SenseErr) (faults : List Nat) (c : Chip) : Chip :=
  if c.tag.field then c
  else
    let p := c.fieldSense s1
    let q := c.fieldSense s2
    let life := ({ c with otp := { fuses := c.otp.fuses, shadowA := senseWith c.otp.fuses s1 } } : Chip).decodeLife
    let uid := slice p.2.1 8 7
    let v := if c.tagMain then c else c.fieldChip
    (c.modTag fun t => { t with
      on := true, field := true, dead := p != q || life == .scrap || life == .lost
      uid, root := p.2.2, faults
      enabled := v.cfgB 0x7300 1, allow212 := v.cfgB 0x7300 2, fwi := v.cfg 0x7300 3, password := v.cfg 0x7300 4
      fieldOnly := !c.mainUp, layer := .idle, level1 := false, overlay := .closed, tx212 := false, rx212 := false
      ppsOk := false, selected := false, authPend := false, clearSince := none, out := [] }).deriveTagKey.tagCount fun t =>
      { t with irq := t.irq ||| 1 }

/-- Layer 4 ends: the overlay closes and its keys go. -/
def closeLayer (l : Layer) (c : Chip) : Chip :=
  c.modTag fun t => { t with
    session := t.session + 1, layer := l, level1 := false, overlay := .closed, tx212 := false, rx212 := false, cid := 0, fsd := 0, ppsOk := false
    selected := false, rndR := [], rndT := [], authPend := false, ks := [], n := 0, out := [], delayed := none
    waitCat := none, waitRead := none, wtxm := 1, wtxOut := false, sent := [], blk := true }

/-- VFLD falls below 1.8 V with VIO absent: the field domain stops and forgets. -/
def fieldOff (c : Chip) : Chip := if c.clk.vio then c else { c with tag := {} }

/-- With VIO present, the reader's field goes. -/
def fieldLoss (c : Chip) : Chip :=
  if c.clk.vio && c.tag.field then
    (c.closeLayer .idle).modTag fun t => { t with field := false, clearSince := some c.tag.clock }
  else c

/-- With VIO present, FIELD has been clear for 100 ms. -/
def fieldClear (c : Chip) : Chip :=
  match c.tag.clearSince with
  | some t =>
    if c.clk.vio && !c.tag.field && t + ticksMs 100 ≤ c.tag.clock then
      c.modTag fun t => { t with fails := 0, clearSince := none }
    else c
  | none => c

/-! ## ISO/IEC 14443-3 (10 R437, R438; log 19) -/

/-- A frame that the state does not expect: back to IDLE, or to HALT from the starred states. -/
def toRest (c : Chip) : Chip :=
  c.modTag fun t => { t with
    level1 := false, out := []
    layer := match t.layer with
      | .ready | .active => .idle
      | .readyStar | .activeStar => .halt
      | l => l }

def atqa : Bytes := [0x44, 0x00]

def tagReqa (wake : Bool) (c : Chip) : Chip :=
  if !c.tagOpen then c
  else match c.tag.layer with
  | .idle => c.modTag fun t => { t with layer := .ready, level1 := false, out := atqa }
  | .halt => if wake then c.modTag fun t => { t with layer := .readyStar, level1 := false, out := atqa } else c.modTag fun t => { t with out := [] }
  | .layer4 => c
  | _ => c.toRest

def tagHalt (c : Chip) : Chip :=
  if !c.tagOpen then c
  else match c.tag.layer with
  | .active | .activeStar => c.modTag fun t => { t with layer := .halt, level1 := false, out := [] }
  | .layer4 => c
  | _ => c.toRest

/-- The five bytes of a cascade level: CT or UID bytes, and their BCC. -/
def cascade (c : Chip) (level : Nat) : Bytes :=
  let b : Bytes := if level = 0 then 0x88 :: c.tag.uid.take 3 else slice c.tag.uid 3 4
  b ++ [b.foldl (· ^^^ ·) 0]

/-- Bits of bytes in the order of transmission, least significant first. -/
def bitsOfBytes (b : Bytes) : List Bool := b.flatMap fun x => (List.range 8).map x.getLsbD

/-- Bits packed in that order. -/
def packBits : Nat → List Bool → Bytes
  | 0, _ => []
  | n + 1, l => byteOf (maskOf ((List.range 8).filter fun i => l.getD i false)) :: packBits n (l.drop 8)

/-- READY or READY*, at the cascade level named. -/
def atLevel (c : Chip) (level : Nat) : Bool :=
  (c.tag.layer = .ready || c.tag.layer = .readyStar) && (c.tag.level1 == (level = 1))

/-- An anticollision frame: the bits known so far; the rest of the level answers. -/
def tagAnticollision (level : Fin 2) (known : List Bool) (c : Chip) : Chip :=
  if !c.tagOpen ∨ c.tag.layer = .layer4 then c
  else
    let all := bitsOfBytes (c.cascade level.val)
    if c.atLevel level.val && known.length < 40 && all.take known.length == known then
      c.modTag fun t => { t with out := packBits ((40 - known.length + 7) / 8) (all.drop known.length) }
    else c.toRest

/-- A SELECT names a whole level. -/
def tagSelect (level : Fin 2) (b : Bytes) (c : Chip) : Chip :=
  if !c.tagOpen ∨ c.tag.layer = .layer4 then c
  else if c.atLevel level.val && b == c.cascade level.val then
    c.modTag fun t =>
      if level = 0 then { t with level1 := true, out := [0x04] }
      else { t with level1 := false, out := [0x20], layer := if t.layer = .readyStar then .activeStar else .active }
  else c.toRest

/-! ## ISO/IEC 14443-4 (10 R437, R439, R440, R457) -/

/-- RATS: the ATS, and layer 4. -/
def tagRats (param : Byte) (c : Chip) : Chip :=
  if !c.tagOpen ∨ c.tag.layer = .layer4 then c
  else if c.tag.layer ≠ .active ∧ c.tag.layer ≠ .activeStar then c.toRest
  else if param.toNat % 16 = 15 then c.toRest
  else
    let c := c.closeLayer .layer4
    (c.modTag fun t => { t with
      overlay := .opened, ppsOk := true, cid := param.toNat % 16, fsd := min 8 (param.toNat / 16)
      out := [0x09, 0x78, 0x11, byteOf (16 * t.fwi), 0x02, 0x47, 0x57, 0x26, 0x30] }).tagCount fun t =>
      { t with sessions := t.sessions + 1, irq := t.irq ||| 2 }

/-- A rate of PPS1 that is taken: 106 kbit/s, or 212 while object 0x7300.02 is set. -/
def rateOk (c : Chip) (d : Nat) : Bool := d = 0 || (d = 1 && c.tag.allow212)

/-- A PPS directly after RATS; any other is ignored. -/
def tagPps (pps0 pps1 : Byte) (c : Chip) : Chip :=
  if !c.tagOpen ∨ c.tag.layer ≠ .layer4 ∨ !c.tag.ppsOk then c
  else
    let dri := pps1.toNat % 4
    let dsi := pps1.toNat / 4 % 4
    let c := c.modTag fun t => { t with ppsOk := false, out := [] }
    let ack (c : Chip) : Chip := c.modTag fun t => { t with out := [byteOf (0xD0 + t.cid)] }
    if pps0 = 0x01 then ack c
    else if pps0 = 0x11 ∧ pps1.toNat < 16 ∧ c.rateOk dri ∧ c.rateOk dsi then
      ack (c.modTag fun t => { t with rx212 := dri = 1, tx212 := dsi = 1 })
    else c

/-- S(DESELECT): answered, then HALT. -/
def tagDeselect (c : Chip) : Chip :=
  if !c.tagOpen ∨ c.tag.layer ≠ .layer4 then c
  else (c.closeLayer .halt).modTag fun t => { t with out := prologue c.tag 0xC2 }

/-- FWT in ticks. -/
def fwt (c : Chip) : Nat := 4096 * 40000 * 2 ^ c.tag.fwi / 1356

/-- An answer is owed. -/
def tagWaits (c : Chip) : Bool := c.tag.waitCat.isSome || c.tag.delayed.isSome || c.tag.waitRead.isSome

/-- The wait that the engine projects, in ticks: what the bounds of the blocking operations leave (10 R457). -/
def tagProjected (c : Chip) : Nat := (match c.tag.delayed with | some (_, t) => t | none => c.tag.waitEnd) - c.tag.clock

/-- FWT/2 of the waiting time in force has passed: S(WTX), with the remaining wait the engine projects; `ahead` bounds the reads that
go before its own (05 R215, log 68). -/
def tagWtx (ahead : Nat) (c : Chip) : Chip :=
  let half := c.fwt * c.tag.wtxm / 2
  if c.tagOpen && c.tag.layer = .layer4 && c.tagWaits && !c.tag.wtxOut && c.tag.blockEnd + half ≤ c.tag.clock then
    let m := min 59 (max 1 ((c.tagProjected + ahead + c.fwt - 1) / c.fwt))
    (c.modTag fun t => { t with wtxm := m, wtxOut := true, out := prologue t 0xF2 ++ [byteOf m] }).tagCount fun t => { t with wtxs := t.wtxs + 1 }
  else c

/-- The reader returns the WTXM. -/
def tagWtxResponse (m : Nat) (c : Chip) : Chip :=
  if c.tagOpen && c.tag.wtxOut && m = c.tag.wtxm then
    c.modTag fun t => { t with wtxOut := false, blockEnd := c.tag.clock, out := [] }
  else c

/-! ## Tag commands (10 R441 to R456) -/

/-- Ends a command with data and a status word; `mac`: its MAC verified, so the answer carries one. -/
def tagEnd (a : Apdu) (mac : Bool) (data : Bytes) (sw : Nat) (c : Chip) : Chip := c.tagSend (c.tagBytes a data sw mac)

def tagInsDefined (i : Byte) : Bool := [0xA4, 0x20, 0xA1, 0xA2, 0x30, 0x32, 0x34, 0x40].contains i.toNat

/-- P1 and P2 as 10 Table 10-5 has them. -/
def tagParamsOk (a : Apdu) : Bool :=
  if a.ins = 0xA4 then a.p1 = 4 && a.p2 = 0
  else if a.ins = 0x30 then (a.p1 = 0 && a.p2.toNat ≤ 1) || (a.p1 = 1 && a.p2 = 0)
  else a.p1 = 0 && a.p2 = 0

/-- Data bytes of a command without its MAC. -/
def tagDataLen (i : Byte) : Nat :=
  if i = 0xA4 then 7 else if i = 0x20 then 4 else if i = 0xA1 then 8 else if i = 0xA2 then 16
  else if i = 0x32 then 5 else if i = 0x34 then 4 else if i = 0x40 then 48 else 0

def tagAid : Bytes := [0xF0, 0x56, 0x51, 0x32, 0x36, 0x33, 0x30]

/-- Overlay states that allow a command (10 Table 10-3). -/
def tagAllowed (i : Byte) (o : Overlay) : Bool :=
  match o with
  | .closed => false
  | .opened => [0xA4, 0x20, 0xA1, 0xA2].contains i.toNat
  | .securedP => [0xA4, 0x20, 0xA1, 0xA2, 0x30].contains i.toNat
  | .securedA => true

/-- The command MAC (10 R448). -/
def cmdMac (c : Chip) (n : Nat) (a : Apdu) (data : Bytes) : Bytes :=
  (Crypto.cmac c.tag.ks (([1] : Bytes) ++ beBytes 4 n ++ [a.cla, a.ins, a.p1, a.p2] ++ data)).take 8

/-- The blocks that carry a command arrive: each turns the block number, and each but the last is answered R(ACK) (10 R437; log 19). -/
def tagBlocksIn : Nat → Tag → Tag
  | 0, t => { t with blk := !t.blk }
  | n + 1, t => tagBlocksIn n { t with blk := !t.blk, sent := t.sent ++ [prologue t (0xA2 + bit (!t.blk))] }

/-- A command of the row's INS: the checks of 10 Table 10-6 down to 0x6982 and R441, then the body. An APDU whose INS is
another command's is not this row's. -/
def tagCommand (ins : Byte) (a : Apdu) (body : TagCall → Chip → Chip) (c : Chip) : Chip :=
  if !c.tagOpen ∨ c.tag.layer ≠ .layer4 ∨ c.tagWaits ∨ (a.ins ≠ ins ∧ tagInsDefined a.ins) then c
  else
    let after := c.tag.authPend
    let c := c.modTag fun t => tagBlocksIn a.chained { t with ppsOk := false, authPend := false, blockEnd := c.tag.clock, sent := [] }
    let sec : Bool := c.tag.overlay = .securedA
    let data := if sec then a.data.take (a.data.length - 8) else a.data
    let stop (sw : Nat) (c : Chip) : Chip := c.tagEnd a false [] sw
    if a.cla ≠ (if a.ins = 0xA4 then 0x00 else 0x80) then stop 0x6E00 c
    else if !tagInsDefined a.ins then stop 0x6D00 c
    else if !tagParamsOk a then stop 0x6A86 c
    else if a.lc ≠ a.data.length ∨ a.data.length ≠ tagDataLen a.ins + (if sec then 8 else 0) then stop 0x6700 c
    else if a.ins = 0xA4 ∧ data ≠ tagAid then stop 0x6A82 c
    else if sec && a.data.drop (a.data.length - 8) != c.cmdMac (c.tag.n + 1) a data then
      stop 0x6988 (c.modTag fun t => { t with overlay := .opened, ks := [], n := 0 })
    else
      let c : Chip := if sec then c.modTag fun t => { t with n := t.n + 1 } else c
      let call : TagCall := { a, data, mac := sec, afterAuth := after }
      if (a.ins = 0x20 ∨ a.ins = 0xA2) ∧ 3 ≤ c.tag.fails then c.tagEnd a sec [] 0x6983
      else if !tagAllowed a.ins c.tag.overlay then c.tagEnd a sec [] 0x6982
      else if a.ins ≠ 0xA4 ∧ !c.tag.selected then c.tagEnd a sec [] 0x6985
      else body call c

def bodySelectApp (k : TagCall) (c : Chip) : Chip :=
  let flags := bit c.clk.vio + 2 * bit (c.tagPassword ≠ 0)
  (c.modTag fun t => { t with selected := true }).tagEnd k.a k.mac [1, byteOf flags] 0x9000

/-- A failed VERIFY-PASSWORD or AUTH-2 (10 R443, R444). -/
def tagFail (k : TagCall) (c : Chip) : Chip :=
  let c := c.modTag fun t => { t with fails := t.fails + 1 }
  let c := c.tagCount fun t => { t with failed := t.failed + 1, irq := t.irq ||| 8 }
  let c := if c.mainUp && c.tag.fails = 3 then c.secEvent 5 1 0 else c
  let b := c.tagBytes k.a [] 0x6300 k.mac
  c.modTag fun t => { t with out := [], delayed := some (b, c.tag.clock + ticksMs 100) }

def bodyPassword (k : TagCall) (c : Chip) : Chip :=
  if c.tagPassword ≠ 0 ∧ leNat k.data = c.tagPassword then
    (c.modTag fun t => { t with overlay := if t.overlay = .opened then .securedP else t.overlay }).tagEnd k.a k.mac [] 0x9000
  else c.tagFail k

def bodyAuth1 (k : TagCall) (c : Chip) : Chip :=
  let c := c.fieldLane
  let x := beBytes 8 (Config.tagNoise c.clk.free).toNat
  let rndT := (Crypto.aesEnc c.tag.key (x ++ k.data)).take 8
  ((c.modTag fun t => { t with rndR := k.data, rndT, authPend := true }).tagEnd k.a k.mac
    (Crypto.aesEnc c.tag.key (rndT ++ k.data)) 0x9000).spend

def labelSess : Bytes := [0x53, 0x45, 0x53, 0x53]

def bodyAuth2 (k : TagCall) (c : Chip) : Chip :=
  if !k.afterAuth then c.tagEnd k.a k.mac [] 0x6985
  else
  let c := c.fieldLane
  if Crypto.aesDec c.tag.key k.data ≠ c.tag.rndR ++ c.tag.rndT then
    (c.modTag fun t => { t with rndT := [] }).tagFail k
  else
    ((c.modTag fun t => { t with
      overlay := .securedA, ks := Crypto.cmac t.key (labelSess ++ t.rndR ++ t.rndT), n := 0 }).tagCount fun t =>
      { t with auths := t.auths + 1, irq := t.irq ||| 4 }).tagEnd k.a true [] 0x9000

/-- An engine read that the Vitrine refuses: the word 0x6F00, counted and recorded (10 R433). -/
def tagRefused (k : TagCall) (a : Nat) (c : Chip) : Chip :=
  ((c.refuseTransfer byTag a).secEvent 5 0 0).tagEnd k.a k.mac [] 0x6F00

/-- The engine reads these slots and chunks, each an address and a length: the first byte that is refused, with VIO present. -/
def tagReads (c : Chip) (l : List (Nat × Nat)) : Option Nat :=
  if c.mainUp then (c.firstRefused byTag .read false (l.flatMap fun x => (List.range x.2).map (x.1 + ·))).map (·.1) else none

/-- The logical blocks of the flash reads among them. -/
def tagFlashBlocks (l : List (Nat × Nat)) : List Nat :=
  ((l.filter fun x => decide (0x20000000 ≤ x.1)).map fun x => (x.1 - 0x20000000) / blockBytes).eraseDups

/-- The longest that the array keeps a read waiting, in ticks (05 Table 05-6). -/
def arrayBound (c : Chip) : Nat :=
  match c.cns.run with
  | some r => if opPrograms r.op then 64000 else if opInfoErase r.op then ticksMs 4 else ticksMs 40
  | none => ticksMs 40

/-- The engine reads flash beside the main domain: the reads are judged, wait for the array behind a running operation (10 R457), and
report the words they meet. -/
def tagFlash (k : TagCall) (l : List (Nat × Nat)) (go : Chip → Chip) (c : Chip) : Chip :=
  match c.tagReads l with
  | some a => c.tagRefused k a
  | none =>
    if !c.mainUp then go c
    else
      let bs := tagFlashBlocks l
      let c := bs.foldl (fun (x : Chip) b => x.readRequest (some b)) c
      if bs.any fun b => c.readWaits (some b) then
        c.modTag fun t => { t with waitRead := some k, waitEnd := c.tag.clock + c.arrayBound, out := [] }
      else go (l.foldl (fun (x : Chip) y => if y.1 < 0x20000000 then x else x.touchFlash (y.1 - 0x20000000) y.2) c)

/-- The block of placard page `p`. -/
def placardBlock (p : Nat) : Nat := 894 + p / 16

def bodyPlacard (k : TagCall) (c : Chip) : Chip :=
  if k.a.p1 = 1 then
    if c.mainUp then c.tagEnd k.a k.mac c.statusPayload 0x9000 else c.tagEnd k.a k.mac [] 0x6985
  else
    let v := c.tagView
    match v.tag.placard with
    | none => c.tagEnd k.a k.mac [] 0x6985
    | some (p, _, _) =>
      let off := 0x6FC000 + 512 * p + 128 * k.a.p2.toNat
      c.tagFlash k [(0x20000000 + off, 128)] fun c =>
        if v.flashBad off 128 then c.tagEnd k.a k.mac [] 0x6F00 else c.tagEnd k.a k.mac (v.flashBytes off 128) 0x9000

/-- The slot in which the engine looks for a record: the ring's while shelved, else the one its number has in the journal. -/
def tagSlot (v : Chip) (s : Nat) : Option Nat :=
  if (v.shelved s).isSome then some (0x11000000 + 32 * v.ringSlot s)
  else (v.journalHeads.findSome? fun (b, h) =>
    if sub32 s h < 256 then some (0x20000000 + jOff (256 * b + sub32 s h)) else none).or
      ((v.erasingBlock s).map fun b => 0x20000000 + jOff (256 * b))

/-- The record of a number, if it is held. -/
def tagRecord (v : Chip) (s : Nat) : Option Bytes :=
  match v.shelved s with
  | some r => some r.rcd.bytes
  | none => match v.journalPos s with
    | some pos => v.journalSlot pos
    | none => none

/-- Up to `n` records from `s`, before the first not held. -/
def tagRecords (v : Chip) : Nat → Nat → List Bytes
  | 0, _ => []
  | n + 1, s => match v.tagRecord s with
    | some r => r :: tagRecords v n ((s + 1) % 4294967296)
    | none => []

/-- The first slots of the journal blocks, which locate its records. -/
def journalHeaders (v : Chip) : List Nat :=
  ((List.range 512).filter fun b => !v.retired (journalBlock b) && v.preEraseBegun != some b).map fun b => 0x20000000 + jOff (256 * b)

/-- The slots after `s` in its block, to the first that is held: where the lowest held number above `s` is looked for. -/
def slotsAbove (v : Chip) (s : Nat) : List Nat :=
  v.journalHeads.flatMap fun (b, h) =>
    if seqLt s h then []
    else
      let l := ((List.range 256).drop (sub32 s h + 1)).map (256 * b + ·)
      let empty (p : Nat) : Bool := (v.journalSlot p).isNone
      (l.takeWhile empty ++ (l.dropWhile empty).take 1).map fun p => 0x20000000 + jOff p

/-- What READ-JOURNAL reads: the slots of the numbers it returns and of the first it does not find, the headers where the journal must be
searched, and what follows a number that is not held. -/
def journalReads (v : Chip) (s count : Nat) : List (Nat × Nat) :=
  let n := (tagRecords v count s).length
  let asked := (List.range (min count (n + 1))).map fun i => (s + i) % 4294967296
  let slots := asked.filterMap (tagSlot v)
  let heads := if count = 0 || asked.any fun q => (v.shelved q).isNone then v.journalHeaders else []
  ((heads ++ slots ++ (if 0 < count ∧ n = 0 then v.slotsAbove s else [])).eraseDups).map fun a => (a, 32)

/-- READ-JOURNAL (10 R452). -/
def bodyJournal (k : TagCall) (c : Chip) : Chip :=
  let v := c.tagView
  let s := leAt k.data 0 4
  let count := min 7 (k.data.getD 4 0).toNat
  let newest := v.newestSeq
  let oldest := if v.journalHeads = [] then v.accOldest else v.journalOldest
  let answer (n r x : Nat) (rest : Bytes) (c : Chip) : Chip :=
    c.tagEnd k.a k.mac (([byteOf n, byteOf r] : Bytes) ++ leBytes 4 x ++ rest) 0x9000
  if 0 < count ∧ !seqLt s v.acc.nextSeq then answer 0 2 v.acc.nextSeq [] c
  else
    c.tagFlash k (v.journalReads s count) fun c =>
      let l := tagRecords v count s
      if count = 0 then answer 0 3 oldest (leBytes 4 newest) c
      else if l = [] then answer 0 1 (v.heldAbove s) [] c
      else answer l.length 0 ((s + l.length) % 4294967296) l.flatten c

/-- The array has come free: the read that waits for it is served. -/
def tagServe (c : Chip) : Chip :=
  match c.tag.waitRead with
  | none => c
  | some k =>
    let c := c.modTag fun t => { t with waitRead := none }
    if k.a.ins = 0x30 then c.bodyPlacard k else c.bodyJournal k

/-- READ-OBJECT's answer in field-only operation (10 R454). -/
def fieldObject (c : Chip) (idx sub : Nat) : Sum Nat Bytes :=
  let v := c.fieldChip
  if idx = 0x1000 ∧ (sub = 1 ∨ sub = 2 ∨ sub = 3 ∨ sub = 4 ∨ sub = 5 ∨ sub = 7 ∨ sub = 8) then .inr (v.readValue .contactless idx sub)
  else match objRow idx sub with
  | some o =>
    if !o.stored ∨ v.bestImage.isNone then .inl 0xC00E
    else if o.acc = .wo then .inl 0xC004
    else .inr (v.objVal idx sub)
  | none => .inl 0xC00E

def bodyObject (k : TagCall) (c : Chip) : Chip :=
  let idx := leAt k.data 0 2
  let sub := (k.data.getD 2 0).toNat
  let off := (k.data.getD 3 0).toNat
  if c.mainUp ∧ c.cat.loaded then
    (c.modTag fun t => { t with waitCat := some k.a, waitEnd := c.tag.clock + ticksMs 20, out := [] }).request .contactless false idx sub [] (.obj c.tag.session off)
  else match c.fieldObject idx sub with
  | .inl code => c.tagEnd k.a k.mac (([1] : Bytes) ++ leBytes 2 code) 0x9000
  | .inr b => c.tagEnd k.a k.mac (([0] : Bytes) ++ leBytes 2 b.length ++ slice b off 128) 0x9000

def bodyMemo (k : TagCall) (c : Chip) : Chip :=
  if !c.mainUp ∨ (c.tag.fieldOnly ∧ !c.start.confirmed) ∨ !c.cat.loaded then c.tagEnd k.a k.mac [] 0x6985
  else (c.modTag fun t => { t with waitCat := some k.a, waitEnd := c.tag.clock + ticksMs 60, out := [] }).request .contactless true 0x7300 0x10 k.data (.memo c.tag.session)

/-- The main domain has stopped: what waited for it is answered in field-only operation (10 R431, R454). -/
def tagAlone (c : Chip) : Chip :=
  match c.tag.waitCat with
  | none => c.tagServe
  | some a =>
    let c := c.modTag fun t => { t with waitCat := none }
    if a.ins = 0x34 then c.bodyObject { a, data := a.data.take (a.data.length - 8), mac := true, afterAuth := false }
    else c.tagEnd a true (([1] : Bytes) ++ leBytes 2 0xC00C) 0x9000

/-- The answer to a failure leaves after its 100 ms. -/
def tagDelayed (c : Chip) : Chip :=
  match c.tag.delayed with
  | some (b, t) => if t ≤ c.tag.clock then (c.modTag fun t => { t with delayed := none }).tagSend b else c
  | none => c

/-! ## The placard (10 R459 to R463) -/

/-- 10 Table 10-7. -/
def placardBody (c : Chip) (gen : Nat) : Bytes :=
  let b : Bytes := ([0x56, 0x51, 0x50, 0x4C] : Bytes) ++ leBytes 4 gen ++ leBytes 8 c.stamp.toNat ++ leBytes 2 0x2630
    ++ ([Config.siliconRev, byteOf (lifeCode c.start.life)] : Bytes) ++ c.serial ++ c.uid
    ++ ([byteOf c.start.mode, byteOf c.startReason, byteOf (leNat (c.readValue .internal 0x1010 3)), byteOf c.start.pairing
        , byteOf c.latchedMask] : Bytes)
    ++ leBytes 4 c.start.curVer ++ leBytes 4 c.start.regVer ++ leBytes 2 Config.romRev.toNat
    ++ ([byteOf c.timStatus, byteOf c.pool.length] : Bytes) ++ leBytes 4 c.acc.epoch ++ leBytes 4 c.acc.nextSeq
    ++ leBytes 4 c.journalOldest ++ leBytes 4 c.journalNewest ++ leBytes 4 c.acc.lostCount ++ leBytes 4 c.cat.gen
    ++ leBytes 4 (c.cfg 0x3300 6) ++ leBytes 8 (c.cfg 0x5000 6) ++ c.healthSummary ++ leBytes 4 0
    ++ c.objVal 0x7300 0x10 ++ c.objVal 0x7300 0x11 ++ padTo 0 64 c.vlt.pub ++ List.replicate 36 0
  b ++ leBytes 4 (crc32 b)

/-- The bytes whose change asks for a placard. -/
def placardKey (b : Bytes) : Bytes := slice b 0 4 ++ slice b 16 40 ++ slice b 72 180

/-- A placard is on its way through the Registrar's window. -/
def placardPending (c : Chip) : Bool :=
  ((c.cns.run.map (·.op)).toList ++ c.cns.susp.toList ++ c.cns.queue ++ c.cns.rjobs).any fun o => match opBase o with
    | .placardErase _ | .placardPage .. => true
    | _ => false

/-- The Registrar writes a placard where one is due (10 R462, R463): the next page of the pair, its block erased first where the page
begins it. It is in force once it stands in flash. -/
def placardWrite (c : Chip) : Chip :=
  let old := c.tag.placard
  let gen := match old with | some x => (x.2.1 + 1) % 4294967296 | none => 0
  let b := c.placardBody gen
  let differs : Bool := match old with | some x => placardKey x.2.2 != placardKey b | none => true
  let due : Bool := c.tag.placardDue || (differs && c.tag.placardTick + ticksS 600 ≤ c.clk.raw)
  if c.clk.pfw || c.start.mode = 0 || !due || c.placardPending then c
  else
    let p := match old with | some x => (x.1 + 1) % 32 | none => 0
    let c := if p % 16 = 0 then c.addJob (.placardErase (placardBlock p)) else c
    (c.addJob (.placardPage p b)).modTag fun t => { t with placardTick := c.clk.raw, placardDue := false }

end Chip

end Sys2Proof.Machine
end

