-- ==== Sys2Proof/Machine/BusOps.lean ====
section
/-! DEFINITION. What the bus reaches (01): the memories as read, the registers of every peripheral page with their latches
and staging buffers, and the effect of each write. -/

namespace Sys2Proof.Machine

open Sys2Proof

/-! ## Register layout (01 R22, R34 to R39, R738) -/

/-- A register: offset in its page, bytes, and whether its writes are staged (a control) or its reads latched (a status or
counter). -/
structure Reg where
  off : Nat
  bytes : Nat
  ctl : Bool
  deriving DecidableEq, Repr

def ro (off bytes : Nat) : Reg := { off, bytes, ctl := false }
def rw (off bytes : Nat) : Reg := { off, bytes, ctl := true }

/-! Pages in the order of 01 Table 01-2. -/
def pgSys : Nat := 0
def pgTim : Nat := 1
def pgAcc : Nat := 2
def pgOrd : Nat := 3
def pgCns : Nat := 4
def pgVlt : Nat := 5
def pgTrn : Nat := 6
def pgVit : Nat := 7
def pgHst : Nat := 8
def pgCna : Nat := 9
def pgCnb : Nat := 10
def pgTwt : Nat := 11
def pgTwm : Nat := 12
def pgTag : Nat := 13
def pgGpi : Nat := 14
def pgRmb : Nat := 15
def pgCat : Nat := 16
def pgDbg : Nat := 17

/-- The registers of 2 to 8 bytes of each page; every other offset is a byte of its own. -/
def wideRegs : Nat → List Reg
  | 0 => [ro 0x08 4, ro 0x0C 4, ro 0x10 2]
  | 1 => [ro 0x08 8, ro 0x10 8, ro 0x18 2, ro 0x1C 4, ro 0x20 4, ro 0x24 4, ro 0x28 4, ro 0x30 8, ro 0x38 8, ro 0x40 8]
  | 2 => [ro 0x04 4, ro 0x08 4, ro 0x0C 4, ro 0x10 2, ro 0x12 2, ro 0x14 4, ro 0x18 3, ro 0x1C 4, rw 0x20 2, rw 0x24 4]
  | 3 => [ro 0x08 8]
  | 4 => [ro 0x04 4, ro 0x08 4, ro 0x0C 4, ro 0x10 4, ro 0x14 4, ro 0x1A 2, rw 0x44 4, rw 0x64 4]
  | 5 => [ro 0x04 2, ro 0x06 2, rw 0x44 2, rw 0x46 2, rw 0x84 2]
  | 6 => [ro 0x0C 2]
  | 7 => [ro 0x06 2, ro 0x08 4, ro 0x10 4, ro 0x14 4] ++ ((List.range 7).map fun n => ro (0x20 + 4 * n) 4)
      ++ ((List.range 32).flatMap fun n => [rw (0x100 + 16 * n) 4, rw (0x104 + 16 * n) 4, rw (0x108 + 16 * n) 4])
  | 8 => [ro 0x04 4, ro 0x08 4]
  | 9 | 10 => [ro 0x08 4, ro 0x0C 4, ro 0x10 4]
  | 11 => [ro 0x04 4, ro 0x08 4, ro 0x0E 2, ro 0x10 2]
  | 13 => [ro 0x04 7, ro 0x0C 4]
  | 14 => [ro 0x00 2, rw 0x02 2, rw 0x04 2, rw 0x06 2, rw 0x08 2]
  | 15 => [ro 0x10 2, ro 0x14 2, ro 0x18 2, rw 0x20 2, rw 0x22 2, rw 0x24 2]
  | 16 => [ro 0x04 4, ro 0x08 2, ro 0x42 2, rw 0x44 2, ro 0x48 2, ro 0x82 2, rw 0x84 2, rw 0x88 2]
  | 17 => [ro 0x04 4, ro 0x08 8, ro 0x10 4, rw 0x18 2, rw 0x1C 4, rw 0x34 4, rw 0x38 2, rw 0x3A 2, rw 0x3C 2, rw 0x3E 2
      , ro 0x52 2, rw 0x54 2, rw 0x58 2]
  | _ => []

/-- The register that holds an offset. -/
def regAt (p o : Nat) : Reg :=
  match (wideRegs p).find? fun r => r.off ≤ o && o < r.off + r.bytes with
  | some r => r
  | none => rw o 1

/-- The data areas (01 R738): page, first offset, length, readable by all, writable. -/
def dataAreas : List (Nat × Nat × Nat) := [
  (pgCns, 0x200, 512), (pgCns, 0x400, 512), (pgVlt, 0x50, 16), (pgVlt, 0x90, 16), (pgVlt, 0x60, 32), (pgVlt, 0x100, 256),
  (pgVlt, 0x300, 256), (pgVlt, 0x200, 256), (pgVlt, 0x400, 256), (pgCat, 0x100, 256), (pgCat, 0x200, 256), (pgRmb, 0x100, 256),
  (pgRmb, 0x200, 256), (pgTwm, 0x20, 32), (pgTwm, 0x40, 32), (pgDbg, 0x20, 16), (pgDbg, 0x100, 176), (pgDbg, 0x200, 256)]

/-- The data area that holds an offset: its first offset and the place in it. -/
def dataAt (p o : Nat) : Option (Nat × Nat) :=
  (dataAreas.find? fun x => x.1 = p && x.2.1 ≤ o && o < x.2.1 + x.2.2).map fun x => (x.2.1, o - x.2.1)

/-! ## Debug view of core state (14 R637) -/

def entryNat (e : StackEntry) : Nat := e.pc.toNat + 65536 * (e.st.toNat % 512) + 33554432 * bit e.exc

/-- DBG_CDATA of a selection. -/
def coreSelect (k : Core) (n : Nat) : Nat :=
  if n < 16 then (k.regs[Fin.ofNat 16 n]).toNat
  else if n = 0x10 then k.pc.toNat
  else if n = 0x11 then k.st.toNat % 512
  else if n = 0x12 then k.stack.length + 256 * bit k.alarm.isSome + 512 * bit k.rsLost + 1024 * bit k.trap
  else if 0x20 ≤ n ∧ n < 0x30 then (match k.stack[n - 0x20]? with | some e => entryNat e | none => 0)
  else if n = 0x30 then (match k.alarm with | some e => entryNat e | none => 0)
  else if 0x40 ≤ n ∧ n < 0x4F then (k.wt[Fin.ofNat 15 (n - 0x40)]).toNat
  else 0

/-- A write of DBG_CDATA. -/
def coreAssign (n : Nat) (v : Word) (k : Core) : Core :=
  let low := BitVec.ofNat 16 v.toNat
  let entry : StackEntry := { pc := low &&& 0xFFFE, st := BitVec.ofNat 16 (v.toNat / 65536 % 512), exc := v.getLsbD 25 }
  if n < 16 then { k with regs := k.regs.set (Fin.ofNat 16 n) (byteOf v.toNat) }
  else if n = 0x10 then { k with pc := low &&& 0xFFFE, branch := none, longMid := false, pastBp := false }
  else if n = 0x11 then { k with st := low &&& 0x01FF }
  else if n = 0x12 then
    let d := min 16 (v.toNat % 32)
    { k with stack := k.stack.take d ++ List.replicate (d - k.stack.length) { pc := 0, st := 0, exc := false } }
  else if 0x20 ≤ n ∧ n < 0x30 then { k with stack := k.stack.modify (n - 0x20) fun _ => entry }
  else if n = 0x30 then { k with alarm := k.alarm.map fun _ => entry }
  else if 0x40 ≤ n ∧ n < 0x4F then { k with wt := k.wt.set (Fin.ofNat 15 (n - 0x40)) (v &&& 0x800FFFFF) }
  else k

namespace Chip

/-! ## Memories as the bus reads them -/

/-- A byte of ring SRAM: 32-byte slots, filled with 0xFF at the epoch start (03 R118). -/
def ringByte (c : Chip) (off : Nat) : Byte :=
  match assoc (off / 32) c.acc.ring with
  | some s => s.rcd.bytes.getD (off % 32) 0
  | none => if c.acc.en then 0xFF else 0

/-- A byte of the OTP shadow view (01 R21, 13 R557). -/
def otpView (c : Chip) (off : Nat) : Byte :=
  if off / 256 = 2 ∨ c.readLocked (off / 256) then 0 else c.otpByte off

/-- A byte of a memory. -/
def memByte (c : Chip) (a : Nat) : Byte :=
  if inRom a then Config.romByte a
  else if inCurSram a then c.mem.curSram.get 0 (a - 0x10000000)
  else if inRing a then c.ringByte (a - 0x11000000)
  else if inRegSram a then c.mem.regSram.get 0 (a - 0x12000000)
  else if inFlash a then (c.flashBytes (a - 0x20000000) 1).getD 0 0
  else if inInfo a then c.mem.info.get 0xFF (a - 0x21000000)
  else if inOtp a then c.otpView (a - 0x30000000)
  else 0

/-- What a bus read leaves in the array: its request, and what its words need (05 R214, R219). -/
def touchRead (a n : Nat) (c : Chip) : Chip :=
  if inFlash a then (c.readRequest (some ((a - 0x20000000) / blockBytes))).touchFlash (a - 0x20000000) n
  else if inInfo a then c.readRequest none
  else c

/-- A byte written to SRAM. -/
def memPut (a : Nat) (b : Byte) (c : Chip) : Chip :=
  if inCurSram a then c.modMem fun m => { m with curSram := m.curSram.put 0 (a - 0x10000000) b }
  else if inRegSram a then c.modMem fun m => { m with regSram := m.regSram.put 0 (a - 0x12000000) b }
  else c

/-! ## Values of registers -/

/-- A PPS edge within 2.5 s. -/
def ppsRecent (c : Chip) : Bool := match c.time.ppsRaw with | some t => c.clk.raw - t ≤ 1000000000 | none => false

/-- Raw tick of the last compensated crossing of an input. -/
def crossingTick (c : Chip) (i : Fin 3) : Nat := match (c.phase.ins[i]).lastX with | some x => encInt 64 x | none => 0

/-- Earliest pending release. -/
def ordNext (c : Chip) : Nat :=
  match c.liveOrders.flatMap fun x => (x.2.outs.filter isPending).map (·.release) with
  | [] => 0xFFFFFFFFFFFFFFFF
  | x :: r => encInt 64 (r.foldl (fun (m : Int) y => if y < m then y else m) x)

def sysValue (c : Chip) (o : Nat) : Nat :=
  match o with
  | 0x00 => c.start.mode + 4 * bit c.start.confirmed + 8 * bit c.winOpen + 16 * bit c.start.untested + 32 * bit c.start.exh
      + 64 * bit (c.start.life = .lost)
  | 0x01 => c.startReason
  | 0x02 => c.start.cause
  | 0x03 => leNat (c.readValue .internal 0x1010 4)
  | 0x08 => (c.winLeft + 399999) / 400000
  | 0x0C => c.start.relTime
  | 0x10 => c.start.findings
  | _ => 0

def timValue (c : Chip) (o : Nat) : Nat :=
  match o with
  | 0x00 => c.timStatus
  | 0x01 => c.time.rank + 16 * bit c.ppsRecent + 32 * bit c.time.irigValid + 64 * bit (c.time.tod.isSome || c.time.todSeen)
  | 0x08 => c.stamp.toNat
  | 0x10 => c.clk.raw
  | 0x18 => c.angle.toNat
  | 0x1A => c.phase.cycle.toNat
  | 0x1B => c.lockBits
  | 0x1C => c.frequency
  | 0x20 => encInt 32 c.rocof
  | 0x24 => encInt 32 c.time.pherr
  | 0x28 => encInt 32 c.time.fcorr
  | 0x30 => c.crossingTick 0
  | 0x38 => c.crossingTick 1
  | 0x40 => c.crossingTick 2
  | _ => 0

def accValue (c : Chip) (o : Nat) : Nat :=
  match o with
  | 0x00 => bit c.acc.en + 2 * bit c.acc.losing + 4 * bit c.acc.ckSign.isSome + 8 * bit (c.clk.raw < c.acc.postUntil)
      + 16 * bit c.acc.postRef
  | 0x01 => c.acc.irq.toNat
  | 0x02 => c.acc.irqen.toNat
  | 0x04 => c.acc.nextSeq
  | 0x08 => c.accOldest
  | 0x0C => c.acc.drainSeq
  | 0x10 => c.freeSlots
  | 0x12 => c.acc.baseSlot
  | 0x14 => c.acc.baseSeq
  | 0x18 => c.levels.toNat
  | 0x1C => c.acc.lostCount
  | 0x20 => c.acc.postSrc.toNat
  | 0x24 => c.acc.postDat.toNat
  | _ => 0

def ordValue (c : Chip) (o : Nat) : Nat :=
  match o with
  | 0x00 => bit c.ord.ven + 2 * bit c.ord.armed + 4 * bit (c.clk.pfw || c.start.mode = 2)
  | 0x01 => c.ord.irq.toNat
  | 0x02 => c.ord.irqen.toNat
  | 0x03 => c.entriesTaken
  | 0x04 => c.pendingMask
  | 0x05 => c.activeMask
  | 0x06 => c.ord.pads.toNat
  | 0x07 => c.latchedMask
  | 0x08 => c.ordNext
  | _ => 0

def cnsValue (c : Chip) (o : Nat) : Nat :=
  let k := c.cns
  let guarded : Bool := match k.run with | some r => r.guarded | none => false
  let nested : Bool := match k.run with | some r => r.nested && opPrograms r.op | none => false
  let refresh : Bool := match k.run with | some r => (match r.op with | .refreshCopy .. => true | _ => false) | none => false
  match o with
  | 0x00 => bit k.run.isSome + 2 * bit k.susp.isSome + 4 * bit guarded + 8 * bit nested
      + 16 * bit (c.clk.pfw && c.unprogrammed != 0) + 32 * bit refresh + 64 * bit k.pass
  | 0x01 => k.irq.toNat
  | 0x02 => k.irqen.toNat
  | 0x03 => if k.run.isSome || k.susp.isSome then bit k.yield else c.cfg 0x5000 1
  | 0x04 => k.susps
  | 0x08 => k.sec
  | 0x0C => k.ded
  | 0x10 => k.secAddr.toNat
  | 0x14 => k.dedAddr.toNat
  | 0x18 => c.pool.length
  | 0x19 => k.ahead
  | 0x1A => k.passPos
  | 0x41 => k.cwin.res.toNat
  | 0x44 => k.cwin.addr.toNat
  | 0x61 => k.rwin.res.toNat
  | 0x64 => k.rwin.addr.toNat
  | _ => 0

def chanValue (x : VaultChan) (o : Nat) : Nat :=
  match o with
  | 1 => x.res.toNat | 2 => x.slot.toNat | 3 => x.flags.toNat | 4 => x.len.toNat | 6 => x.attr.toNat | _ => 0

def vltValue (c : Chip) (o : Nat) : Nat :=
  match o with
  | 0x00 => bit c.vlt.ready + 2 * bit (c.engineBusy .aes) + 4 * bit (c.engineBusy .sha) + 8 * bit (c.engineBusy .ecc) + 16 * bit (c.vlt.writes != []) + 32 * bit c.acc.ckSign.isSome
  | 0x01 => c.vlt.irq.toNat
  | 0x02 => c.vlt.irqen.toNat
  | 0x04 => c.slotsLoaded
  | 0x06 => c.vlt.kfault.toNat
  | o => if 0x40 ≤ o ∧ o < 0x50 then chanValue c.vlt.cch (o - 0x40)
    else if 0x80 ≤ o ∧ o < 0x86 then chanValue c.vlt.rch (o - 0x80) else 0

def trnValue (c : Chip) (o : Nat) : Nat :=
  let t := c.trn
  match o with
  | 0x00 => bit (t.st = .delivering) + 2 * bit (t.st = .testing) + 4 * bit (t.st = .blocked || t.st = .exhausted)
      + 8 * bit (t.st = .exhausted) + 16 * bit t.under
  | 0x01 => t.irq.toNat
  | 0x02 => t.irqen.toNat
  | 0x03 => t.fifo.length
  | 0x09 => t.thresh.toNat
  | 0x0A => t.fails % 256
  | 0x0B => t.runMax
  | 0x0C => t.aptMax
  | _ => 0

def vitValue (c : Chip) (i : Init) (o : Nat) : Nat :=
  let e := if i = .registrar then c.vit.reg else c.vit.cur
  if 0x100 ≤ o ∧ o < 0x300 then
    let r := c.vit.regions[Fin.ofNat 32 ((o - 0x100) / 16)]
    match o % 16 with
    | 0 => r.base.toNat | 4 => r.lim.toNat | 8 => r.perm.toNat | 0xC => bit r.en + 2 * bit r.lock | _ => 0
  else if 0x20 ≤ o ∧ o < 0x3C then (if o % 4 = 0 then (c.vit.refs[Fin.ofNat 7 ((o - 0x20) / 4)]).toNat else 0)
  else match o with
  | 0x00 => bit c.vit.en
  | 0x04 => e.fcause.toNat
  | 0x05 => e.fsrc.toNat
  | 0x06 => e.fpc.toNat
  | 0x08 => e.faddr.toNat
  | 0x0C => e.nstat.toNat
  | 0x10 => e.naddr.toNat
  | 0x14 => e.ncount.toNat
  | _ => 0

def hstValue (c : Chip) (o : Nat) : Nat :=
  let h := c.host
  match o with
  | 0x00 => bit (h.open_ && h.busy.isNone) + 2 * bit h.busy.isSome + 4 * bit h.attention.isSome + 8 * bit h.defJob.isSome
      + 16 * bit h.quad
  | 0x01 => h.irq.toNat
  | 0x02 => h.irqen.toNat
  | 0x04 => h.frames
  | 0x08 => h.crcErrs + h.malformed + h.whileBusy
  | _ => 0

def canRegValue (k : CanCtl) (o : Nat) : Nat :=
  match o with
  | 0x00 => k.st + 8 * bit (32 ≤ k.evq.length)
  | 0x01 => k.irq.toNat
  | 0x02 => k.irqen.toNat
  | 0x03 => k.lec
  | 0x04 => min 255 k.tec
  | 0x05 => k.rec_
  | 0x06 => k.tdcv.toNat
  | 0x08 => k.rx
  | 0x0C => k.tx
  | 0x10 => k.drops
  | _ => 0

def twtValue (c : Chip) (o : Nat) : Nat :=
  match o with
  | 0x00 => bit (c.tw.open_ && c.cfgB 0x7200 2) + 2 * bit c.twRefuses + 4 * bit c.tw.pRun
  | 0x01 => c.tw.irq.toNat
  | 0x02 => c.tw.irqen.toNat
  | 0x04 => c.tw.count
  | 0x08 => c.tw.refused
  | 0x0C => c.tw.filter
  | 0x0E => c.tw.holdT
  | 0x10 => c.tw.setup
  | _ => 0

def twmValue (c : Chip) (i : Init) (o : Nat) : Nat :=
  if i ≠ .registrar then 0
  else match o with
  | 0x00 => c.twm.ctrl.toNat | 0x02 => c.twm.res.toNat | 0x03 => c.twm.addr.toNat | 0x04 => c.twm.wlen.toNat
  | 0x05 => c.twm.rlen.toNat | 0x06 => c.twm.retry.toNat | 0x07 => c.twm.tries.toNat | _ => 0

def tagValue (c : Chip) (o : Nat) : Nat :=
  let t := c.tag
  let layer := match t.layer with
    | .idle | .halt => 0 | .ready | .readyStar => 1 | .active | .activeStar => 2 | .layer4 => 3
  let overlay := match t.overlay with | .closed => 0 | .opened => 1 | .securedP => 2 | .securedA => 3
  match o with
  | 0x00 => bit t.field + 2 * layer + 8 * overlay + 32 * bit (t.rx212 || t.tx212) + 64 * bit (3 ≤ t.fails)
  | 0x01 => t.irq.toNat
  | 0x02 => t.irqen.toNat
  | 0x04 => leNat c.uid
  | 0x0C => t.sessions
  | _ => 0

/-- Pin levels of the GPIO pins: an output's pin is at its driven level. -/
def gpioPins (c : Chip) : Nat :=
  let d := c.gpio.dir.toNat % 512
  (c.gpio.pins.toNat &&& (511 ^^^ d)) ||| (c.gpio.out.toNat &&& d)

def gpiValue (c : Chip) (o : Nat) : Nat :=
  match o with
  | 0x00 => c.gpioPins | 0x02 => c.gpio.dir.toNat | 0x04 => c.gpio.out.toNat | 0x06 => c.gpio.psel.toNat
  | 0x08 => c.gpio.pen.toNat | 0x0A => c.gpio.clkout.toNat | _ => 0

def rmbValue (c : Chip) (o : Nat) : Nat :=
  let q := c.cat.mbox.head?
  let of (f : MailReq → Nat) : Nat := match q with | some m => f m | none => 0
  match o with
  | 0x00 => bit q.isSome + 2 * bit c.wdOpen + 4 * c.cat.mbox.length
  | 0x01 => c.rmbIrqNow.toNat
  | 0x02 => c.rgr.rmbIrqen.toNat
  | 0x10 => of (·.id)
  | 0x12 => of fun m => if m.write then 2 else 1
  | 0x13 => of fun m => portRank m.port
  | 0x14 => of (·.idx)
  | 0x16 => of (·.sub)
  | 0x18 => of fun m => if m.write then m.data.length else 0
  | 0x20 => c.rgr.anId.toNat
  | 0x22 => c.rgr.anCode.toNat
  | 0x24 => c.rgr.anLen.toNat
  | _ => 0

def catChanValue (k : CatChan) (o : Nat) : Nat :=
  match o with
  | 1 => k.res.toNat | 2 => k.abort.toNat | 4 => k.idx.toNat | 6 => k.sub.toNat | 8 => k.len.toNat | _ => 0

def catRegValue (c : Chip) (o : Nat) : Nat :=
  match o with
  | 0x00 => bit (c.cat.loaded && !c.cat.noImage) + 2 * bit (c.cat.txState = 1) + 4 * bit (c.cat.txState = 2 || c.cat.job.isSome)
      + 8 * bit c.cat.fwReady + 16 * bit c.cat.noImage
  | 0x01 => c.cat.irq.toNat
  | 0x02 => c.cat.irqen.toNat
  | 0x04 => c.cat.gen
  | 0x08 => c.cat.size
  | o => if 0x40 ≤ o ∧ o < 0x4A then catChanValue c.cat.cch (o - 0x40)
    else if 0x80 ≤ o ∧ o < 0x8A then catChanValue c.cat.rch (o - 0x80) else 0

/-- DBG_ registers (13 R595, Table 13-10); the Curator core supplies its debug view. -/
def dbgValue (c : Chip) (i : Init) (o : Nat) (k : Core) : Nat :=
  let d := c.dbg
  let shown : Bool := o = 0 || o = 3 || o = 4 || o = 8 || o = 0x10
  if i ≠ .debug ∧ !shown then 0
  else match o with
  | 0x00 => bit k.halted + 2 * bit (c.otpBusy && !d.busyHid) + 4 * bit c.openLife + 8 * bit d.chal.isSome
      + 16 * bit ((c.trn.st = .blocked || c.trn.st = .exhausted) && !d.entHid) + 32 * bit (c.cat.kch.res = 1) + 64 * bit d.lcDone
  | 0x02 => d.result.toNat
  | 0x03 => lifeCode c.start.life
  | 0x04 => c.rights
  | 0x08 => leNat c.serial
  | 0x10 => c.acc.epoch
  | 0x14 => d.lcTarget.toNat
  | 0x18 => d.otpAddr.toNat
  | 0x1C => d.otpData.toNat
  | 0x31 => d.creg.toNat
  | 0x34 => if k.halted && c.right rCoreReg then coreSelect k d.creg.toNat else 0
  | 0x38 => (d.bps[0]).toNat
  | 0x3A => (d.bps[1]).toNat
  | 0x3C => (d.bps[2]).toNat
  | 0x3E => (d.bps[3]).toNat
  | 0x40 => d.bpen.toNat
  | 0x51 => c.cat.kch.res.toNat
  | 0x52 => c.cat.kch.abort.toNat
  | 0x54 => c.cat.kch.idx.toNat
  | 0x56 => c.cat.kch.sub.toNat
  | 0x58 => c.cat.kch.len.toNat
  | _ => 0

/-- The current value of the register at an offset of a page, as an initiator sees it. -/
def regValue (c : Chip) (i : Init) (p o : Nat) (k : Core) : Nat :=
  match p with
  | 0 => c.sysValue o | 1 => c.timValue o | 2 => c.accValue o | 3 => c.ordValue o | 4 => c.cnsValue o | 5 => c.vltValue o
  | 6 => c.trnValue o | 7 => c.vitValue i o | 8 => c.hstValue o | 9 => canRegValue c.can.a o | 10 => canRegValue c.can.b o
  | 11 => c.twtValue o | 12 => c.twmValue i o | 13 => c.tagValue o | 14 => c.gpiValue o | 15 => c.rmbValue o
  | 16 => c.catRegValue o | 17 => c.dbgValue i o k | _ => 0

/-- A byte of a data area. -/
def dataByte (c : Chip) (i : Init) (p base n : Nat) : Byte :=
  if p = pgCns then (if base = 0x200 then c.cns.cwin.buf else c.cns.rwin.buf).get 0 n
  else if p = pgVlt then
    if base = 0x50 then c.vlt.cch.iv.get 0 n else if base = 0x90 then c.vlt.rch.iv.get 0 n
    else if base = 0x100 then c.vlt.cch.inp.get 0 n else if base = 0x300 then c.vlt.rch.inp.get 0 n
    else if base = 0x200 then c.vlt.cch.out.get 0 n else if base = 0x400 then c.vlt.rch.out.get 0 n else 0
  else if p = pgCat then (if base = 0x100 then c.cat.cch.data else c.cat.rch.data).get 0 n
  else if p = pgRmb then
    if base = 0x100 then (match c.cat.mbox with | m :: _ => if m.write then m.data.getD n 0 else 0 | [] => 0) else c.rgr.anData.get 0 n
  else if p = pgTwm then (if i ≠ .registrar then 0 else (if base = 0x20 then c.twm.wbuf else c.twm.rbuf).get 0 n)
  else if p = pgDbg then
    if i ≠ .debug then 0
    else if base = 0x20 then (c.dbg.chal.getD []).getD n 0
    else if base = 0x100 then c.dbg.loanBuf.get 0 n else c.cat.kch.data.get 0 n
  else 0

/-! ## Reads (01 R34 to R36) -/

def initKey (i : Init) (a : Nat) : Nat := 4294967296 * (match i with | .curator => 0 | .registrar => 1 | .debug => 2) + a

/-- A read of one byte of a peripheral page. -/
def regRead (i : Init) (a : Nat) (k : Core) (c : Chip) : Byte × Chip :=
  let p := (a - 0x40000000) / 4096
  let o := a % 4096
  match dataAt p o with
  | some (b, n) => (c.dataByte i p b n, c)
  | none =>
    if p = pgTrn ∧ 4 ≤ o ∧ o < 8 then c.trnRead
    else
      let r := regAt p o
      let pos := o - r.off
      if r.ctl then (byteOf (c.regValue i p r.off k / 256 ^ pos), c)
      else
        let key := initKey i (a - pos)
        if pos = 0 then
          let v := c.regValue i p r.off k
          (byteOf v, c.modBus fun b => { b with latches := assocPut key (some v) b.latches })
        else (byteOf ((assoc key c.bus.latches).getD 0 / 256 ^ pos), c)

/-! ## Writes (01 R37, R38) -/

/-- W1C bits. -/
def w1c (x : Byte) (v : Nat) : Byte := x &&& ~~~byteOf v

/-- An initiator that writes an IRQ or IRQEN register: bit 1 of the Vault's and the Catalogue's belongs to the Registrar
(16 R677). -/
def irqMask (i : Init) (v : Nat) : Nat := if i = .registrar then v else v &&& 0xFD

/-- An IRQEN value with the bits that the initiator may write. -/
def irqEnNew (i : Init) (old : Byte) (v m : Nat) : Byte :=
  if i = .registrar then byteOf (v &&& m) else byteOf ((v &&& m &&& 0xFD) ||| (old.toNat &&& 2))

/-- A write of 0x01 to SYS_CRUN from an instruction fetched from Plinth ROM (12 R513). -/
def crun (v : Nat) (c : Chip) : Chip := if v = 1 then c.ask .release else c

def vitWrite (i : Init) (o v : Nat) (c : Chip) : Chip :=
  let w : CoreId := if i = .registrar then .registrar else .curator
  if 0x100 ≤ o ∧ o < 0x300 then
    let n : Fin 32 := Fin.ofNat 32 ((o - 0x100) / 16)
    let r := c.vit.regions[n]
    if r.lock ∨ (16 ≤ n.val ∧ i ≠ .registrar) then c
    else
      let x := BitVec.ofNat 32 v
      let r : Region := match o % 16 with
        | 0 => { r with base := x &&& 0xFFFFFF00 }
        | 4 => { r with lim := x ||| 0xFF }
        | 8 => { r with perm := x &&& (if n.val < 16 then 0x0FF0000F else 0x0FFFFFFF) }
        | 0xC => { r with en := v.testBit 0, lock := r.lock || v.testBit 1 }
        | _ => r
      c.modVit fun t => { t with regions := t.regions.set n r }
  else match o with
  | 0x00 => if i = .registrar ∧ v.testBit 0 then c.modVit fun t => { t with en := true } else c
  | 0x0C => c.modExc w fun e => { e with nstat := w1c e.nstat (v &&& 3) }
  | _ => c

def accWrite (i : Init) (o v : Nat) (c : Chip) : Chip :=
  match o with
  | 0x00 => if v.testBit 4 then c.modAcc fun a => { a with postRef := false } else c
  | 0x01 => c.modAcc fun a => { a with irq := w1c a.irq v }
  | 0x02 => c.modAcc fun a => { a with irqen := byteOf (v &&& 7) }
  | 0x20 => if i = .curator then c.modAcc fun a => { a with postSrc := BitVec.ofNat 16 (v % 4096) } else c
  | 0x24 => if i = .curator then c.firmwarePost v else c
  | _ => c

def cnsWrite (i : Init) (o v : Nat) (c : Chip) : Chip :=
  match o with
  | 0x01 => c.modCns fun k => { k with irq := w1c k.irq v }
  | 0x02 => c.modCns fun k => { k with irqen := byteOf (v &&& 0x1F) }
  | 0x40 => c.windowCommand i .curator v
  | 0x44 => if i = .curator then c.modWin .curator fun x => { x with addr := BitVec.ofNat 32 v } else c
  | 0x60 => c.windowCommand i .registrar v
  | 0x64 => if i = .registrar then c.modWin .registrar fun x => { x with addr := BitVec.ofNat 32 v } else c
  | _ => c

def chanWrite (i : Init) (ch : CoreId) (o v : Nat) (c : Chip) : Chip :=
  if !owns i ch then c
  else match o with
  | 0 => c.vaultCommand i ch v
  | 2 => c.modChan ch fun x => { x with slot := byteOf v }
  | 3 => c.modChan ch fun x => { x with flags := byteOf (v &&& 3) }
  | 4 => c.modChan ch fun x => { x with len := BitVec.ofNat 16 v }
  | 6 => if ch = .curator then c.modChan ch fun x => { x with attr := BitVec.ofNat 16 v } else c
  | _ => c

def vltWrite (i : Init) (o v : Nat) (c : Chip) : Chip :=
  match o with
  | 0x01 => c.modVlt fun t => { t with irq := w1c t.irq (irqMask i v) }
  | 0x02 => c.modVlt fun t => { t with irqen := irqEnNew i t.irqen v 7 }
  | o => if 0x40 ≤ o ∧ o < 0x48 then c.chanWrite i .curator (o - 0x40) v
    else if 0x80 ≤ o ∧ o < 0x86 then c.chanWrite i .registrar (o - 0x80) v else c

/-- TRN_ registers (06 R287). DESIGN CHOICE: a threshold outside 1 to 32 is stored as written (log 76). -/
def trnWrite (o v : Nat) (c : Chip) : Chip :=
  match o with
  | 0x00 => if v.testBit 4 then c.modTrn fun t => { t with under := false } else c
  | 0x01 => c.modTrn fun t => { t with irq := w1c t.irq v }
  | 0x02 => c.modTrn fun t => { t with irqen := byteOf (v &&& 3) }
  | 0x08 => c.trnCtrl (byteOf v)
  | 0x09 => c.modTrn fun t => { t with thresh := byteOf v }
  | _ => c

def gpiWrite (o v : Nat) (c : Chip) : Chip :=
  let h := BitVec.ofNat 16 (v % 512)
  match o with
  | 0x02 => c.modGpio fun g => { g with dir := h }
  | 0x04 => c.modGpio fun g => { g with out := h }
  | 0x06 => c.modGpio fun g => { g with psel := h }
  | 0x08 => c.modGpio fun g => { g with pen := h }
  | 0x0A => c.modGpio fun g => { g with clkout := byteOf (v &&& 3) }
  | _ => c

def rmbWrite (i : Init) (o v : Nat) (c : Chip) : Chip :=
  if i ≠ .curator then c
  else match o with
  | 0x01 => c.modRgr fun r => { r with rmbIrq := w1c r.rmbIrq v }
  | 0x02 => c.modRgr fun r => { r with rmbIrqen := byteOf (v &&& 3) }
  | 0x04 => c.wdWrite (byteOf v)
  | 0x20 => c.modRgr fun r => { r with anId := BitVec.ofNat 16 v }
  | 0x22 => c.modRgr fun r => { r with anCode := BitVec.ofNat 16 v }
  | 0x24 => c.modRgr fun r => { r with anLen := BitVec.ofNat 16 v }
  | 0x26 => if v = 1 then c.answerSend else c
  | _ => c

def twmWrite (i : Init) (o v : Nat) (c : Chip) : Chip :=
  if i ≠ .registrar then c
  else match o with
  | 0x00 => c.modTwm fun t => { t with ctrl := byteOf (v &&& 7) }
  | 0x01 => c.twmCommand (byteOf v)
  | 0x03 => c.modTwm fun t => { t with addr := byteOf (v &&& 0x7F) }
  | 0x04 => c.modTwm fun t => { t with wlen := byteOf v }
  | 0x05 => c.modTwm fun t => { t with rlen := byteOf v }
  | 0x06 => c.modTwm fun t => { t with retry := byteOf v }
  | _ => c

/-- A command of a Catalogue channel (07 R347): 1 read, 2 write. -/
def catCommand (i : Init) (ch : CoreId) (v : Nat) (c : Chip) : Chip :=
  if !owns i ch then c
  else match ch with
  | .curator =>
    let k := c.cat.cch
    if v = 1 ∧ k.res ≠ 1 then
      (c.modCat fun t => { t with cch := { t.cch with res := 1 } }).request .curator false k.idx.toNat k.sub.toNat [] .curator
    else c
  | .registrar =>
    let k := c.cat.rch
    if (v = 1 ∨ v = 2) ∧ k.res ≠ 1 then
      (c.modCat fun t => { t with rch := { t.rch with res := 1 } }).request .internal (v = 2) k.idx.toNat k.sub.toNat
        (if v = 2 then k.data.read 0 0 k.len.toNat else []) .registrar
    else c

/-- A command of the debug channel (07 R300; 13 R591, Table 13-10). -/
def dbgCatCommand (v : Nat) (c : Chip) : Chip :=
  let k := c.cat.kch
  if (v = 1 ∨ v = 2) ∧ k.res ≠ 1 then
    (c.modCat fun t => { t with kch := { t.kch with res := 1 } }).request .debug (v = 2) k.idx.toNat k.sub.toNat
      (if v = 2 then k.data.read 0 0 k.len.toNat else []) .debug
  else c

def catRegWrite (i : Init) (o v : Nat) (c : Chip) : Chip :=
  let curr (f : CatChan → CatChan) : Chip := if i = .curator then c.modCat fun t => { t with cch := f t.cch } else c
  let regr (f : CatChan → CatChan) : Chip := if i = .registrar then c.modCat fun t => { t with rch := f t.rch } else c
  match o with
  | 0x01 => c.modCat fun t => { t with irq := w1c t.irq (irqMask i v) }
  | 0x02 => c.modCat fun t => { t with irqen := irqEnNew i t.irqen v 0xF }
  | 0x40 => c.catCommand i .curator v
  | 0x44 => curr fun k => { k with idx := BitVec.ofNat 16 v }
  | 0x46 => curr fun k => { k with sub := byteOf v }
  | 0x80 => c.catCommand i .registrar v
  | 0x84 => regr fun k => { k with idx := BitVec.ofNat 16 v }
  | 0x86 => regr fun k => { k with sub := byteOf v }
  | 0x88 => regr fun k => { k with len := BitVec.ofNat 16 v }
  | _ => c

/-- Writes of the debug port to its page (13 R595). -/
def dbgWrite (o v : Nat) (c : Chip) : Chip :=
  let bp (n : Fin 4) : Chip := c.modDbg fun d => { d with bps := d.bps.set n (BitVec.ofNat 16 v) }
  let chan (f : CatChan → CatChan) : Chip := c.modCat fun t => { t with kch := f t.kch }
  match o with
  | 0x01 => c.dbgCommand (byteOf v)
  | 0x14 => c.modDbg fun d => { d with lcTarget := byteOf v }
  | 0x18 => c.modDbg fun d => { d with otpAddr := BitVec.ofNat 16 v }
  | 0x1C => c.modDbg fun d => { d with otpData := BitVec.ofNat 32 v }
  | 0x30 => c.coreControl (byteOf v)
  | 0x31 => c.modDbg fun d => { d with creg := byteOf v }
  | 0x34 => c.ask (.coreWrite (BitVec.ofNat 32 v))
  | 0x38 => bp 0
  | 0x3A => bp 1
  | 0x3C => bp 2
  | 0x3E => bp 3
  | 0x40 => c.modDbg fun d => { d with bpen := byteOf (v &&& 0xF) }
  | 0x50 => c.dbgCatCommand v
  | 0x54 => chan fun k => { k with idx := BitVec.ofNat 16 v }
  | 0x56 => chan fun k => { k with sub := byteOf v }
  | 0x58 => chan fun k => { k with len := BitVec.ofNat 16 v }
  | _ => c

/-- A committed value reaches its register. `rom`: the store's instruction was fetched from Plinth ROM. -/
def regCommit (i : Init) (rom : Bool) (p o v : Nat) (c : Chip) : Chip :=
  let irqs (f g : Nat) (irq irqen : Byte) : Byte × Byte :=
    -- `f` is the offset written, `g` the register's bits
    if f = 1 then (w1c irq v, irqen) else if f = 2 then (irq, byteOf (v &&& g)) else (irq, irqen)
  match p with
  | 0 =>
    if o = 4 then c.confirm i (byteOf v)
    else if o = 5 ∧ i = .registrar ∧ rom then c.crun v else c
  | 2 => c.accWrite i o v
  | 3 => let x := irqs o 0x1F c.ord.irq c.ord.irqen; c.modOrd fun t => { t with irq := x.1, irqen := x.2 }
  | 4 => c.cnsWrite i o v
  | 5 => c.vltWrite i o v
  | 6 => c.trnWrite o v
  | 7 => c.vitWrite i o v
  | 8 =>
    if i = .debug then c
    else let x := irqs o 0xF c.host.irq c.host.irqen; c.modHost fun t => { t with irq := x.1, irqen := x.2 }
  | 9 => let x := irqs o 0x1F c.can.a.irq c.can.a.irqen; c.modCtl false fun t => { t with irq := x.1, irqen := x.2 }
  | 10 => let x := irqs o 0x1F c.can.b.irq c.can.b.irqen; c.modCtl true fun t => { t with irq := x.1, irqen := x.2 }
  | 11 => let x := irqs o 7 c.tw.irq c.tw.irqen; c.modTw fun t => { t with irq := x.1, irqen := x.2 }
  | 12 => c.twmWrite i o v
  | 13 =>
    if i = .debug then c
    else let x := irqs o 0x1F c.tag.irq c.tag.irqen; c.modTag fun t => { t with irq := x.1, irqen := x.2 }
  | 14 => c.gpiWrite o v
  | 15 => c.rmbWrite i o v
  | 16 => c.catRegWrite i o v
  | 17 => if i = .debug then c.dbgWrite o v else c
  | _ => c

/-- A byte written to a data area, by the initiator that may write it. -/
def dataPut (i : Init) (p base n : Nat) (b : Byte) (c : Chip) : Chip :=
  let ch (w : CoreId) (f : VaultChan → VaultChan) : Chip := if owns i w then c.modChan w f else c
  if p = pgCns then
    let w : CoreId := if base = 0x200 then .curator else .registrar
    if owns i w then c.modWin w fun x => { x with buf := x.buf.put 0 n b } else c
  else if p = pgVlt then
    if base = 0x50 then ch .curator fun x => { x with iv := x.iv.put 0 n b }
    else if base = 0x90 then ch .registrar fun x => { x with iv := x.iv.put 0 n b }
    else if base = 0x60 then ch .curator fun x => { x with key := x.key.put 0 n b }
    else if base = 0x100 then ch .curator fun x => { x with inp := x.inp.put 0 n b }
    else if base = 0x300 then ch .registrar fun x => { x with inp := x.inp.put 0 n b }
    else c
  else if p = pgCat then
    if base = 0x200 ∧ i = .registrar then c.modCat fun t => { t with rch := { t.rch with data := t.rch.data.put 0 n b } } else c
  else if p = pgRmb then
    if base = 0x200 ∧ i = .curator then c.modRgr fun r => { r with anData := r.anData.put 0 n b } else c
  else if p = pgTwm then
    if base = 0x20 ∧ i = .registrar then c.modTwm fun t => { t with wbuf := t.wbuf.put 0 n b } else c
  else if p = pgDbg then
    if i ≠ .debug ∨ base = 0x20 then c
    else if base = 0x100 then c.modDbg fun d => { d with loanBuf := d.loanBuf.put 0 n b }
    else c.modCat fun t => { t with kch := { t.kch with data := t.kch.data.put 0 n b } }
  else c

/-- The bytes of a value with staged ones in their places. -/
def overlayBytes (n v : Nat) (staged : List (Nat × Byte)) : Nat :=
  leNat ((List.range n).map fun k => (assoc k staged).getD (byteOf (v / 256 ^ k)))

/-- A write of one byte of a peripheral page. -/
def regWrite (i : Init) (rom : Bool) (a : Nat) (b : Byte) (k : Core) (c : Chip) : Chip :=
  let p := (a - 0x40000000) / 4096
  let o := a % 4096
  match dataAt p o with
  | some (base, n) => c.dataPut i p base n b
  | none =>
    let r := regAt p o
    let pos := o - r.off
    if !r.ctl then c
    else if r.bytes = 1 then c.regCommit i rom p o b.toNat
    else
      let key := initKey i (a - pos)
      let st := (assoc key c.bus.staged).getD []
      if pos + 1 < r.bytes then
        c.modBus fun x => { x with staged := assocPut key (some (assocPut pos (some b) st)) x.staged }
      else
        let v := overlayBytes r.bytes (c.regValue i p r.off k) (assocPut pos (some b) st)
        (c.modBus fun x => { x with staged := assocPut key none x.staged }).regCommit i rom p r.off v

/-! ## Whole transfers -/

/-- Bytes read from consecutive addresses, in ascending order (01 R39). -/
def busRead (i : Init) (k : Core) : Nat → Nat → Chip → Bytes × Chip
  | 0, _, c => ([], c)
  | n + 1, a, c =>
    let x : Byte × Chip := if inPeriph a then c.regRead i a k else (c.memByte a, c)
    let r := busRead i k n (a + 1) x.2
    (x.1 :: r.1, r.2)

/-- Bytes written to consecutive addresses, in ascending order. -/
def busWrite (i : Init) (rom : Bool) (k : Core) : Nat → Bytes → Chip → Chip
  | _, [], c => c
  | a, b :: bs, c => busWrite i rom k (a + 1) bs (if inPeriph a then c.regWrite i rom a b k else c.memPut a b)

end Chip

end Sys2Proof.Machine
end

