-- ==== Sys2Proof/Machine/Flags.lean ====
section
/-! DEFINITION. Results and flags of the Jarley ALU (15 R647 to R652), for bytes and pairs alike. -/

namespace Sys2Proof.Machine

open Sys2Proof

/-- A result with its carry and overflow; no carry means that C is left unchanged. Z and N are those of the value. -/
structure AluRes (w : Nat) where
  val : BitVec w
  carry : Option Bool
  ovf : Bool
  deriving DecidableEq, Repr

/-- Z (15 R647). -/
def AluRes.zero {w : Nat} (r : AluRes w) : Bool := r.val == 0
/-- N (15 R647). -/
def AluRes.neg {w : Nat} (r : AluRes w) : Bool := r.val.msb

/-- A signed result that `w` bits do not hold. -/
def outOfRange (w : Nat) (i : Int) : Bool := i < -((2 ^ (w - 1) : Nat) : Int) || ((2 ^ (w - 1) : Nat) : Int) ≤ i

/-- Addition with a carry in. -/
def aluAdd {w : Nat} (a b : BitVec w) (cin : Bool) : AluRes w :=
  { val := a + b + BitVec.ofNat w (bit cin)
    carry := some (2 ^ w ≤ a.toNat + b.toNat + bit cin)
    ovf := outOfRange w (a.toInt + b.toInt + (bit cin : Nat)) }

/-- Subtraction with a borrow in: C is the borrow. -/
def aluSub {w : Nat} (a b : BitVec w) (bin : Bool) : AluRes w :=
  { val := a - b - BitVec.ofNat w (bit bin)
    carry := some (a.toNat < b.toNat + bit bin)
    ovf := outOfRange w (a.toInt - b.toInt - (bit bin : Nat)) }

/-- AND, OR, XOR and TST clear C and V. -/
def aluLogic {w : Nat} (v : BitVec w) : AluRes w := { val := v, carry := some false, ovf := false }

/-- A shift or rotate by `n`: `out` is the last bit shifted out; C stays when `n` is 0 (15 R649). -/
def aluShift {w : Nat} (v : BitVec w) (n : Nat) (out : Bool) : AluRes w :=
  { val := v, carry := if n = 0 then none else some out, ovf := false }

def aluShl {w : Nat} (a : BitVec w) (n : Nat) : AluRes w := aluShift (a <<< n) n (a.getLsbD (w - n))
def aluShr {w : Nat} (a : BitVec w) (n : Nat) : AluRes w := aluShift (a >>> n) n (a.getLsbD (n - 1))
def aluAsr {w : Nat} (a : BitVec w) (n : Nat) : AluRes w := aluShift (a.sshiftRight n) n (a.getLsbD (n - 1))
def aluRol {w : Nat} (a : BitVec w) (n : Nat) : AluRes w := aluShift (a.rotateLeft n) n (a.getLsbD (w - n))
def aluRor {w : Nat} (a : BitVec w) (n : Nat) : AluRes w := aluShift (a.rotateRight n) n (a.getLsbD (n - 1))

/-- The condition of a Bcc (15 Table 15-6); 15 has none. -/
def condHolds (cond : Nat) (c z n v : Bool) : Bool :=
  match cond with
  | 0x0 => true
  | 0x1 => z
  | 0x2 => !z
  | 0x3 => c
  | 0x4 => !c
  | 0x5 => n
  | 0x6 => !n
  | 0x7 => v
  | 0x8 => !v
  | 0x9 => !c && !z
  | 0xA => c || z
  | 0xB => n == v
  | 0xC => n != v
  | 0xD => !z && n == v
  | 0xE => z || n != v
  | _ => false

end Sys2Proof.Machine
end

