-- ==== Sys2Proof/Machine/Operands.lean ====
section
/-! DEFINITION. A Jarley core's registers as operands (14 R597, 15 R642), its status fields, and the results in flight
with their distances (14 R621 to R629). -/

namespace Sys2Proof.Machine

open Sys2Proof

/-! ## ST (14 Table 14-1) -/

/-- ST with bit `i` set to `b`. -/
def stBit (i : Nat) (b : Bool) (st : Half) : Half :=
  if b then st ||| BitVec.ofNat 16 (2 ^ i) else st &&& ~~~(BitVec.ofNat 16 (2 ^ i))

/-- ST with ML set. -/
def stMl (n : Nat) (st : Half) : Half := (st &&& 0xFF1F) ||| BitVec.ofNat 16 (n % 8 * 32)

/-- ML. -/
def mlOf (st : Half) : Nat := st.toNat / 32 % 8

def flagC (st : Half) : Bool := st.getLsbD 0
def flagZ (st : Half) : Bool := st.getLsbD 1
def flagN (st : Half) : Bool := st.getLsbD 2
def flagV (st : Half) : Bool := st.getLsbD 3

/-! ## Register fields -/

/-- The bytes of pair `n`: b(2n) and b(2n+1). -/
def loReg (n : Fin 8) : Fin 16 := ⟨2 * n.val, by omega⟩
def hiReg (n : Fin 8) : Fin 16 := ⟨2 * n.val + 1, by omega⟩

/-- The pair a 4-bit field names, if its bit 3 is clear. -/
def pairField (r : Fin 16) : Option (Fin 8) := if h : r.val < 8 then some ⟨r.val, h⟩ else none

namespace Core

def byte (k : Core) (r : Fin 16) : Byte := k.regs[r]
def pair (k : Core) (n : Fin 8) : Half := k.byte (hiReg n) ++ k.byte (loReg n)

/-- Quad `n`: w(n+1):wn, for an even `n`. -/
def quad (k : Core) (n : Fin 8) : Word := k.pair (n + 1) ++ k.pair n

/-- The bytes of a pair written at once. -/
def setPair (n : Fin 8) (v : Half) (k : Core) : Core :=
  { k with regs := (k.regs.set (loReg n) (v.setWidth 8)).set (hiReg n) ((v >>> 8).setWidth 8) }

/-! ## Results in flight -/

/-- One result reaches its register. -/
def landOne (k : Core) (l : Landing) : Core :=
  match l.target with
  | .reg r => { k with regs := k.regs.set r (l.value.setWidth 8) }
  | .flagC => { k with st := stBit 0 (l.value.getLsbD 0) k.st }
  | .flagZ => { k with st := stBit 1 (l.value.getLsbD 0) k.st }
  | .flagN => { k with st := stBit 2 (l.value.getLsbD 0) k.st }
  | .flagV => { k with st := stBit 3 (l.value.getLsbD 0) k.st }
  | .ml => { k with st := stMl l.value.toNat k.st }
  | .vbase => { k with vbase := l.value.setWidth 16 &&& 0xFF00 }
  | .wt n => { k with wt := k.wt.set n (l.value &&& 0x800FFFFF) }

/-- Results land in issue order, so the later-issued of two is kept (14 R625). -/
def landAll (ls : List Landing) (k : Core) : Core := ls.foldl landOne k

/-- The results that the instruction of the next issue slot sees (14 R622). -/
def arrive (k : Core) : Core :=
  { k.landAll (k.flight.filter fun l => l.due ≤ k.slot) with flight := k.flight.filter fun l => k.slot < l.due }

/-- Every producer in flight completes (14 R629). -/
def complete (k : Core) : Core := { k.landAll k.flight with flight := [] }

/-- The wait for the producers in flight (15 R664). -/
def waitSlots (k : Core) : Nat := k.flight.foldl (fun m l => max m (l.due - k.slot)) 0

/-- Results join those in flight. -/
def fly (ls : List Landing) (k : Core) : Core := { k with flight := k.flight ++ ls }

/-- A result of distance `d` from the instruction at issue. -/
def land (k : Core) (d : Nat) (t : Target) (v : Word) : Landing := { due := k.slot + d, target := t, value := v }

def landByte (k : Core) (d : Nat) (r : Fin 16) (v : Byte) : List Landing := [k.land d (.reg r) (v.setWidth 32)]
def landPair (k : Core) (d : Nat) (n : Fin 8) (v : Half) : List Landing :=
  [k.land d (.reg (loReg n)) (v.setWidth 32), k.land d (.reg (hiReg n)) ((v >>> 8).setWidth 32)]
def landQuad (k : Core) (d : Nat) (n : Fin 8) (v : Word) : List Landing :=
  k.landPair d n (v.setWidth 16) ++ k.landPair d (n + 1) ((v >>> 16).setWidth 16)

/-- A bit as a landing value. -/
def bitWord (b : Bool) : Word := if b then 1 else 0

/-- The flags of a result, distance 2. -/
def landFlags {w : Nat} (k : Core) (r : AluRes w) : List Landing :=
  (match r.carry with | some c => [k.land 2 .flagC (bitWord c)] | none => []) ++
  [k.land 2 .flagZ (bitWord r.zero), k.land 2 .flagN (bitWord r.neg), k.land 2 .flagV (bitWord r.ovf)]

/-- An ALU instruction on a byte register: its result, when it writes one, and its flags. -/
def aluByte (d : Fin 16) (r : AluRes 8) (write : Bool) (k : Core) : Core :=
  k.fly ((if write then k.landByte 2 d r.val else []) ++ k.landFlags r)

/-- On a pair. -/
def aluPair (d : Fin 8) (r : AluRes 16) (write : Bool) (k : Core) : Core :=
  k.fly ((if write then k.landPair 2 d r.val else []) ++ k.landFlags r)

end Core

end Sys2Proof.Machine
end

