-- ==== Sys2Proof/Machine/CoreOps.lean ====
section
/-! DEFINITION. The Jarley cores within the device (14, 15, 16): translation, the special page, the write buffer, exception
entry, issue, and what the chip asks of the cores. -/

namespace Sys2Proof.Machine

open Sys2Proof

/-! ## Faults -/

/-- A fault of 16 Table 16-1: vector, VIT_FSRC when the vector is 9, and VIT_FADDR when the vector has one. -/
structure FaultInfo where
  vec : Nat
  src : Nat := 0
  addr : Option Nat := none
  deriving DecidableEq, Repr

def illegalFault : FaultInfo := { vec := 1 }
def slotFaultInfo : FaultInfo := { vec := 2 }
def alignFault (a : Nat) : FaultInfo := { vec := 3, addr := some a }
def windowFault (a : Nat) : FaultInfo := { vec := 4, addr := some a }
def specialFault (a : Nat) : FaultInfo := { vec := 5, addr := some a }
def kindFault : FaultInfo := { vec := 6 }
def underflowFault : FaultInfo := { vec := 7 }
def overflowFault : FaultInfo := { vec := 8 }
/-- `kind`: 0 load, 1 fetch, 2 vector read (16 Table 16-10). -/
def refusedFault (kind cause a : Nat) : FaultInfo := { vec := 9, src := cause + 16 * kind, addr := some a }

/-! ## Translation (14 R600 to R604) -/

/-- The physical address of an offset through a window entry; none through an unmapped window. -/
def translate (e : Word) (a : Nat) : Option Nat :=
  if e.getLsbD 31 then some (e.toNat % 1048576 * 4096 + a % 4096) else none

/-- The entry of a window table for a logical address. -/
def tableEntry (t : Vector Word 15) (a : Nat) : Option Word := t[a / 4096]?

/-- Where a data access goes. -/
inductive Place where
  | special (off : Nat)
  | phys (a : Nat)
  deriving DecidableEq, Repr

/-- Alignment and window of a data access of `n` bytes. -/
def dataPlace (k : Core) (a n : Nat) : Except FaultInfo Place :=
  if a % n ≠ 0 then .error (alignFault a)
  else match tableEntry k.wt a with
  | none => .ok (.special (a % 4096))
  | some e => match translate e a with
    | some p => .ok (.phys p)
    | none => .error (windowFault a)

/-! ## The special page (14 R610 to R620) -/

/-- The multi-byte register that holds an offset of the special page: its offset and bytes. -/
def specialReg (o : Nat) : Option (Nat × Nat) :=
  if o < 0x40 then some (o / 4 * 4, 4)
  else if o = 0x40 ∨ o = 0x41 then some (0x40, 2)
  else if 0x48 ≤ o ∧ o < 0x4C then some (0x48, 4)
  else none

/-- Multi-byte registers take accesses of their full width only (14 R611). -/
def specialWidthOk (o n : Nat) : Bool :=
  (List.range n).all fun i => match specialReg (o + i) with | some r => r == (o, n) | none => true

/-- A byte of the special page. -/
def specialByte (w : CoreId) (k : Core) (o : Nat) : Byte :=
  if o < 0x3C then byteOf ((k.wt[Fin.ofNat 15 (o / 4)]).toNat / 256 ^ (o % 4))
  else if o = 0x41 then byteOf (k.vbase.toNat / 256)
  else if o = 0x44 then byteOf (bit k.trap + 2 * bit k.lock + 4 * bit k.rsLost)
  else if o = 0x45 then byteOf k.stack.length
  else if 0x48 ≤ o ∧ o < 0x4C then byteOf (k.cycle.toNat / 256 ^ (o - 0x48))
  else if o = 0x4C then (match w with | .curator => 0 | .registrar => 1)
  else 0

/-- RSCTL written (14 R620, Table 14-4); `fused`: OTP region 5 byte 1 bit 0. -/
def writeRsctl (fused : Bool) (b : Byte) (k : Core) : Core :=
  { k with
    trap := if k.lock then k.trap else fused || b.getLsbD 0
    lock := k.lock || b.getLsbD 1
    rsLost := k.rsLost && !b.getLsbD 2 }

/-- A store to the special page of legal width: window entries and VBASE at distance 4, RSCTL at once. -/
def specialStore (fused : Bool) (o : Nat) (b : Bytes) (k : Core) : Core :=
  if o < 0x3C then k.fly [k.land 4 (.wt (Fin.ofNat 15 (o / 4))) (BitVec.ofNat 32 (leNat b))]
  else if o = 0x40 then k.fly [k.land 4 .vbase (BitVec.ofNat 32 (leNat b))]
  else if o ≤ 0x44 ∧ 0x44 < o + b.length then writeRsctl fused (b.getD (0x44 - o) 0) k
  else k

/-! ## The write buffer (14 R633) -/

/-- The byte that the buffer holds for a physical address: that of the latest store. -/
def bufByte (b : List BufStore) (a : Nat) : Option Byte :=
  b.reverse.findSome? fun s => if s.addr ≤ a then s.bytes[a - s.addr]? else none

/-- Entries of the write buffer. -/
def bufDepth : Nat := 4

/-! ## Waits (14 R632) -/

def initOf : CoreId → Init
  | .curator => .curator | .registrar => .registrar

/-- `a` is in the core's own SRAM. -/
def ownSram (w : CoreId) (a : Nat) : Bool := match w with | .curator => inCurSram a | .registrar => inRegSram a

/-- A wait in system cycles as the core counts it. -/
def coreCycles (w : CoreId) (n : Nat) : Nat := match w with | .curator => n | .registrar => (n + 3) / 4

namespace Chip

/-- OTP region 5 byte 1 bit 0 (14 R620). -/
def trapFused (c : Chip) : Bool := (leNat (c.otpUsed 5 1 1)).testBit 0

/-- Wait cycles of an access of `n` bytes: those of 14 Table 14-6, and the open part where that has none (log 17). -/
def accessWait (c : Chip) (w : CoreId) (a n : Nat) : Nat :=
  if ownSram w a then 0
  else coreCycles w (if inRom a then 1 else if inOtp a then 2 else if inPeriph a then 3 * n
    else (if inRing a then 1 else 6) + Config.waitCycles c.clk.free)

/-! ## Fetch -/

/-- The physical address of a fetch, through the fetch-side table; none in window 15 or an unmapped window. -/
def fetchPhys (k : Core) (a : Nat) : Option Nat := (tableEntry k.fwt a).bind fun e => translate e a

/-- The fault of a fetch, if any (14 R602, R603; 16 R703). -/
def fetchFault (c : Chip) (w : CoreId) (k : Core) (a : Nat) : Option FaultInfo :=
  match fetchPhys k a with
  | none => some (windowFault a)
  | some p =>
    let f := c.judge (coreNo w) .fetch p false
    if f = 0 then none else some (refusedFault 1 f p)

/-- Addresses of an instruction's words. -/
def wordAddrs (k : Core) (words : Nat) : List Nat := (List.range words).map fun i => (k.pc.toNat + 2 * i) % 65536

/-- The instruction's words cannot be fetched yet: they lie in flash that an operation holds. -/
def fetchWaits (c : Chip) (k : Core) (words : Nat) : Bool :=
  (wordAddrs k words).any fun a => match fetchPhys k a with
    | some p => inFlash p && c.readWaits (some ((p - 0x20000000) / blockBytes))
    | none => false

/-- What the fetch of an instruction's words leaves behind. -/
def fetched (w : CoreId) (k : Core) (words : Nat) (c : Chip) : Chip :=
  (wordAddrs k words).foldl (fun c a => match fetchPhys k a with
    | some p => if ownSram w p then c else (c.touchRead p 2).spend
    | none => c) c

/-- Wait cycles of the fetch: none from the core's own SRAM, else open (log 17). -/
def fetchWait (c : Chip) (w : CoreId) (k : Core) (words : Nat) : Nat :=
  if (wordAddrs k words).all fun a => match fetchPhys k a with | some p => ownSram w p | none => false then 0
  else coreCycles w (Config.waitCycles c.clk.free)

/-! ## Interrupt sources (16 R675 to R677) -/

/-- The pending sources of a core: vector and level. -/
def sources (c : Chip) (w : CoreId) : List (Nat × Nat) :=
  let e := c.excView w
  let on (q en : Byte) (m : Nat) : Bool := q &&& en &&& byteOf m != 0
  let fixed : List (Nat × Nat × Bool) := [(10, 4, e.nstat.getLsbD 0), (16, 6, e.pfwLatch)]
  let rest : List (Nat × Nat × Bool) := match w with
    | .curator => [
      (17, 5, on c.rmbIrqNow c.rgr.rmbIrqen 3), (18, 5, on c.ord.irq c.ord.irqen 0x1F), (19, 3, on c.acc.irq c.acc.irqen 7),
      (20, 3, on c.cat.irq c.cat.irqen 0xD), (21, 3, on c.host.irq c.host.irqen 0xF), (22, 3, on c.vlt.irq c.vlt.irqen 5),
      (23, 2, on c.cns.irq c.cns.irqen 0x1F), (24, 2, on c.can.a.irq c.can.a.irqen 0x1F),
      (25, 2, on c.can.b.irq c.can.b.irqen 0x1F), (26, 2, on c.tw.irq c.tw.irqen 7), (27, 1, on c.tag.irq c.tag.irqen 0x1F),
      (28, 1, on c.trn.irq c.trn.irqen 3)]
    | .registrar => [(20, 3, on c.cat.irq c.cat.irqen 2), (22, 3, on c.vlt.irq c.vlt.irqen 2)]
  ((fixed ++ rest).filter (·.2.2)).map fun x => (x.1, x.2.1)

/-- The source taken at mask level `ml`: the highest level above it, then the lowest vector (16 R674, R675). -/
def takenSource (c : Chip) (w : CoreId) (ml : Nat) : Option (Nat × Nat) :=
  (c.sources w).foldl (fun m x => if x.2 ≤ ml then m else match m with
    | some y => if y.2 < x.2 then some x else some y
    | none => some x) none

/-- What a fault leaves in the exception registers (16 Table 16-10). -/
def noteFault (w : CoreId) (f : FaultInfo) (ds esc : Bool) (pc : Half) (c : Chip) : Chip :=
  c.modExc w fun e => { e with
    fcause := byteOf (f.vec + 64 * bit ds + 128 * bit esc)
    fsrc := if f.vec = 9 then byteOf f.src else e.fsrc
    fpc := pc
    faddr := match f.addr with | some a => BitVec.ofNat 32 a | none => e.faddr }

/-- The debug port takes hold of the Curator: the confirm window and the watchdog pause (13 R593, 11 R478). -/
def holdTimers (c : Chip) : Chip :=
  let left := c.winLeft
  let gone := c.wdElapsed
  c.modRgr fun r => { r with
    winPaused := if r.win.isSome && r.winPaused.isNone then some left else r.winPaused
    wdPaused := if r.wdRun && r.wdPaused.isNone then some gone else r.wdPaused }

/-- The debug port lets go. -/
def freeTimers (c : Chip) : Chip :=
  c.modRgr fun r => { r with
    win := match r.winPaused with | some n => some (c.rcNow, n) | none => r.win
    wdLast := match r.wdPaused with | some n => c.rcNow - n | none => r.wdLast
    winPaused := none, wdPaused := none }

end Chip

/-! ## The two cores of the device -/

namespace Device

def core (w : CoreId) (d : Device) : Core := match w with | .curator => d.cur | .registrar => d.reg

def setCore (w : CoreId) (k : Core) (d : Device) : Device :=
  match w with | .curator => { d with cur := k } | .registrar => { d with reg := k }

def modCore (w : CoreId) (f : Core → Core) (d : Device) : Device := d.setCore w (f (d.core w))

def modChip (f : Chip → Chip) (d : Device) : Device := { d with chip := f d.chip }

/-! ### Exception entry (16 R680, Table 16-2) -/

/-- A general entry is pushed; none when the mode refuses it (14 R619). -/
def pushed (e : StackEntry) (k : Core) : Option Core :=
  if k.stack.length < 16 then some { k with stack := k.stack ++ [e] }
  else if k.trap then none
  else some { k with stack := k.stack.drop 1 ++ [e], rsLost := true }

/-- The handler of a vector, read at `vbase` (16 R678, R679): the core with its PC there, or the fault of the read. -/
def readVector (w : CoreId) (vec : Nat) (vbase : Half) (parity : Bool) (d : Device) : Except FaultInfo Half × Device :=
  let k := d.core w
  let a := (vbase.toNat + 4 * vec) % 65536
  let odd (h : Half) : Except FaultInfo Half := if h.getLsbD 0 then .error (alignFault h.toNat) else .ok h
  match dataPlace k a 2 with
  | .error f => (.error f, d)
  | .ok (.special o) =>
    if specialWidthOk o 2 then (odd (BitVec.ofNat 16 (leNat [specialByte w k o, specialByte w k (o + 1)])), d)
    else (.error (specialFault a), d)
  | .ok (.phys p) =>
    match (List.range 2).map (fun i => bufByte k.wbuf (p + i)) with
    | [some lo, some hi] => (odd (BitVec.ofNat 16 (leNat [lo, hi])), d)
    | bs =>
      let f := d.chip.judge (coreNo w) .read p parity
      if f ≠ 0 then (.error (refusedFault 2 f p), d.modChip (Chip.refuseTransfer (coreNo w) p))
      else
        let r := (d.chip.touchRead p 2).busRead (initOf w) d.cur 2 p
        let bytes := (List.range 2).map fun i => ((bs.getD i none).getD (r.1.getD i 0))
        let wait := r.2.accessWait w p 2
        (odd (BitVec.ofNat 16 (leNat bytes)),
          (d.modChip fun _ => if ownSram w p then r.2 else r.2.spend).modCore w fun k => { k with cycle := k.cycle + BitVec.ofNat 32 wait })

/-- The part of an entry between the push and the handler: the new ST, the fetch-side copy. -/
def entered (ml : Nat) (fault : Bool) (k : Core) : Core :=
  { k with st := stBit 4 false (stBit 8 fault (stMl ml k.st)), fwt := k.wt, branch := none, longMid := false, waiting := false
           frozen := none, pastBp := false, cycle := k.cycle + 2 }

/-- Alarm within Alarm (16 R685 to R687). -/
def alarmStop (w : CoreId) (d : Device) : Device :=
  match w with
  | .curator =>
    let pc := match d.cur.alarm with | some e => e.pc.toNat | none => 0
    { d with cur := { d.cur with running := false }, chip := (d.chip.healthEvent 6 0 pc).askCurReset 3 }
  | .registrar => { d with reg := { d.reg with running := false }, chip := d.chip.ask (.cold 3 quietEnv) }

/-- Alarm (16 R674): `pc` is what it saves. A fault while the vector is read is an Alarm within Alarm. -/
def enterAlarm (w : CoreId) (f : FaultInfo) (ds : Bool) (pc : Half) (vbase : Half) (d : Device) : Device :=
  let k := d.core w
  if k.alarm.isSome then d.alarmStop w
  else
    let d := d.setCore w (entered 7 true { k with alarm := some { pc, st := k.st, exc := true } })
    let d := d.modChip (Chip.noteFault w f ds true pc)
    match d.readVector w 0 vbase false with
    | (.ok h, d) => d.modCore w fun k => { k with pc := h }
    | (.error _, d) => d.alarmStop w

/-- A fault at the instruction at `pc`; `ml`: the mask level it is judged against (16 R674). -/
def enterFault (w : CoreId) (f : FaultInfo) (ds : Bool) (pc : Half) (ml : Nat) (vbase : Half) (d : Device) : Device :=
  let k := d.core w
  if 6 ≤ ml then d.enterAlarm w f ds pc vbase
  else match pushed { pc, st := k.st, exc := true } k with
  | none => d.enterAlarm w overflowFault ds pc vbase
  | some k =>
    let d := (d.setCore w (entered 6 true k)).modChip (Chip.noteFault w f ds false pc)
    match d.readVector w f.vec vbase false with
    | (.ok h, d) => d.modCore w fun k => { k with pc := h }
    | (.error g, d) => d.enterAlarm w g false pc vbase

/-- An interrupt is taken at a boundary; `parity`: the vector read's parity fails. -/
def enterInterrupt (w : CoreId) (vec level : Nat) (parity : Bool) (d : Device) : Device :=
  let k := d.core w
  let vbase := k.vbase
  let k := k.complete
  let k := { k with cycle := k.cycle + BitVec.ofNat 32 (if k.waiting then Config.waitCycles d.chip.clk.free else min 2 ((d.core w).waitSlots)) }
  let d := d.modChip Chip.spend
  let pc := k.pc
  match pushed { pc, st := k.st, exc := true } k with
  | none => (d.setCore w k).enterAlarm w overflowFault false pc vbase
  | some k =>
    let d := d.setCore w (entered level false k)
    let d := if vec = 16 then d.modChip (Chip.modExc w fun e => { e with pfwLatch := false }) else d
    match d.readVector w vec vbase parity with
    | (.ok h, d) => d.modCore w fun k => { k with pc := h }
    | (.error g, d) => d.enterFault w g false pc level vbase

/-- A fault of the instruction at issue: `k` is the core as the instruction left it. -/
def raise (w : CoreId) (f : FaultInfo) (k : Core) (d : Device) : Device :=
  let ml := mlOf k.st
  let vbase := k.vbase
  (d.setCore w k.complete).enterFault w f k.branch.isSome k.pc ml vbase

/-! ### Debug control of the Curator core (13 R592, R593; 14 R629) -/

/-- The Curator core halts: its producers complete. -/
def haltNow (d : Device) : Device :=
  { d with cur := { d.cur.complete with halted := true, haltReq := false, stepping := false }, chip := d.chip.holdTimers }

/-- At an issue boundary: a step ends, and a requested halt is taken where an interrupt could be. -/
def boundary (w : CoreId) (d : Device) : Device :=
  match w with
  | .registrar => d
  | .curator =>
    if d.cur.running ∧ (d.cur.stepping ∨ (d.cur.haltReq ∧ d.cur.branch.isNone)) then d.haltNow else d

end Device

/-! ## Issue -/

/-- How the program goes on after an instruction: in sequence, after two delay slots, or where the core's PC now stands. -/
inductive Flow where
  | seq
  | delayed (target : Option Half)
  | here
  deriving DecidableEq, Repr

/-- What an instruction at issue comes to: the device, and the core it issued on apart from it. `cycles` excludes the fetch. -/
inductive Issued where
  | done (d : Device) (k : Core) (flow : Flow) (cycles : Nat)
  | fault (f : FaultInfo) (d : Device) (k : Core)
  | freeze (d : Device) (k : Core) (i : FrozenAccess)

/-- The PC and the delay slots after an instruction of `words` words. -/
def Core.advance (words : Nat) (flow : Flow) (k : Core) : Core :=
  let next := k.pc + BitVec.ofNat 16 (2 * words)
  match flow with
  | .here => { k with branch := none }
  | .delayed t => { k with pc := next, branch := some (2, t), longMid := false }
  | .seq =>
    match k.branch with
    | some (n + 2, t) => { k with pc := next, branch := some (n + 1, t), longMid := false }
    | some (_, t) => { k with pc := t.getD next, branch := none, longMid := false }
    | none => { k with pc := next, longMid := false }

/-- One issue slot passes. -/
def Core.issued (words : Nat) (flow : Flow) (cycles : Nat) (k : Core) : Core :=
  let k := k.advance words flow
  { k with slot := k.slot + 1, pastBp := k.longMid, cycle := k.cycle + BitVec.ofNat 32 cycles }

namespace Device

/-- The core can issue an instruction of `words` words now. -/
def canIssue (d : Device) (w : CoreId) (words : Nat) : Bool :=
  let k := d.core w
  d.chip.clk.running && k.running && !k.halted && k.frozen.isNone && !k.waiting && !d.chip.fetchWaits k words

/-- A breakpoint that takes effect at the Curator's PC (13 R592, Table 13-5). -/
def atBreakpoint (d : Device) (w : CoreId) : Bool :=
  match w with
  | .registrar => false
  | .curator => !d.cur.pastBp && d.chip.right rHalt
      && (List.finRange 4).any fun n => d.chip.dbg.bpen.getLsbD n.val && d.chip.dbg.bps[n] == d.cur.pc

/-- The first fault of an instruction's fetch. -/
def fetchFails (d : Device) (w : CoreId) (words : Nat) : Option FaultInfo :=
  let k := d.core w
  (Chip.wordAddrs k words).findSome? fun a => d.chip.fetchFault w k a

/-- A refused fetch counts (16 R704). -/
def countFetch (w : CoreId) (f : FaultInfo) (d : Device) : Device :=
  match f.vec, f.addr with
  | 9, some a => d.modChip (Chip.refuseTransfer (coreNo w) a)
  | _, _ => d

/-- What an instruction at issue comes to, in the device. -/
def finish (w : CoreId) (words wait : Nat) (r : Issued) : Device :=
  match r with
  | .done d k flow n => (d.setCore w (k.issued words flow (n + wait))).boundary w
  | .fault f d k => (d.raise w f { k with slot := k.slot + 1 }).boundary w
  | .freeze d k i => d.setCore w { k with frozen := some i }

/-- Issue of an instruction; `noSlot`: it may not stand in a delay slot (14 R624, 15 R660). -/
def issue (w : CoreId) (words : Nat) (noSlot : Bool) (body : Device → Core → Issued) (d : Device) : Device :=
  if !d.canIssue w words then d
  else if d.atBreakpoint w then d.haltNow
  else match d.fetchFails w words with
  | some f => finish w words 0 (.fault f (d.countFetch w f) (d.core w).arrive)
  | none =>
    let k0 := d.core w
    let wait := if k0.longMid then 0 else d.chip.fetchWait w k0 words
    let d := d.modChip (Chip.fetched w k0 words)
    let k := k0.arrive
    finish w words wait (if noSlot && k.branch.isSome then .fault slotFaultInfo d k else body d k)

/-- A pending source above ML is taken at an issue boundary (14 R627, 16 R674). -/
def interrupt (w : CoreId) (parity : Bool) (d : Device) : Device :=
  let k := d.core w
  if !(d.chip.clk.running && k.running && !k.halted && k.frozen.isNone && k.branch.isNone) then d
  else match d.chip.takenSource w (mlOf k.st) with
  | some (vec, level) => d.enterInterrupt w vec level parity
  | none => d

/-! ## Stores that drain (16 R689) -/

/-- The oldest buffered store drains. -/
def drainOne (w : CoreId) (parity : Bool) (d : Device) : Device :=
  match (d.core w).wbuf with
  | [] => d
  | s :: rest =>
    let d := d.modCore w fun k => { k with wbuf := rest }
    let f := d.chip.judge (coreNo w) .write s.addr parity
    if f ≠ 0 then d.modChip fun c => (c.refuseTransfer (coreNo w) s.addr).notice w s.addr f
    else d.modChip (Chip.busWrite (initOf w) s.fromRom d.cur s.addr s.bytes)

/-- Every buffered store drains, the oldest first; `parity`: whose parity fails. -/
def drainAll (w : CoreId) (parity : List Bool) (d : Device) : Device :=
  ((List.range (d.core w).wbuf.length).foldl (fun (d : Device) i => d.drainOne w (parity.getD i false)) d)

/-! ## Starts and resets of the cores -/

/-- The core as a release or an entry to an image leaves it (14 Table 14-7, R636). -/
def imageCore (b0 b1 b2 : Byte) (entry base rom sram : Nat) (hasRom fused : Bool) : Core :=
  let en (f : Nat) : Word := BitVec.ofNat 32 (0x80000000 + f % 1048576)
  let t : Vector Word 15 := Vector.ofFn fun n =>
    if 12 ≤ n.val then en (sram + (n.val - 12)) else if hasRom && n.val = 11 then en rom else en (base + n.val)
  let regs : Vector Byte 16 := Vector.ofFn fun n => if n.val = 0 then b0 else if n.val = 1 then b1 else if n.val = 2 then b2 else 0
  { regs, pc := BitVec.ofNat 16 (0x100 + entry) &&& 0xFFFE, wt := t, fwt := t, trap := fused, running := true }

/-- The Curator core at its release. -/
def curStart (c : Chip) : Core :=
  imageCore (byteOf c.startReason) (byteOf c.start.cause) (byteOf c.start.slotCur)
    (hdrEntry (c.slotHeader 1 c.start.slotCur)) (0x20000 + 0x100 * c.start.slotCur) 0 0x10000 false c.trapFused

/-- The Registrar core as the Plinth enters its image. -/
def regStart (c : Chip) : Core :=
  imageCore (byteOf c.startReason) (byteOf c.start.cause) (byteOf c.start.slotReg)
    (hdrEntry (c.slotHeader 2 c.start.slotReg)) (0x20200 + 0x40 * c.start.slotReg) 0 0x12000 true c.trapFused

/-- The Registrar core in the Plinth, at physical 0 (12 R512; log 28). -/
def plinthCore (c : Chip) : Core :=
  let t : Vector Word 15 := (Vector.replicate 15 (0 : Word)).set 0 (0x80000000 : Word)
  { wt := t, fwt := t, trap := c.trapFused, running := c.clk.running }

/-- What the chip asked for, but for a Cold reset. -/
def onAsk (a : Ask) (d : Device) : Device :=
  match a with
  | .cold _ _ => d
  | .curReset cause =>
    let d := d.drainAll .curator []
    { d with chip := d.chip.curReset cause, cur := {} }
  | .holdCurator =>
    -- the Registrar core runs the Plinth service loop (01 Table 01-4)
    let d := (d.drainAll .curator []).drainAll .registrar []
    { d with chip := d.chip.warmReset, cur := {}, reg := plinthCore d.chip }
  | .release =>
    if d.cur.running then d else
    let c := d.chip.releaseChip
    { chip := c, cur := curStart c, reg := { d.reg with regs := d.reg.regs.set 0 0 } }
  | .enterRegistrar => { d with reg := regStart d.chip }
  | .halt =>
    if !d.chip.right rHalt ∨ !d.cur.running ∨ d.cur.halted then d
    else if d.cur.branch.isSome ∨ d.cur.frozen.isSome then { d with cur := { d.cur with haltReq := true } }
    else d.haltNow
  | .resume =>
    if !d.chip.right rHalt ∨ !d.cur.halted then d
    else { d with chip := d.chip.freeTimers, cur := { d.cur with halted := false, fwt := d.cur.wt, pastBp := true } }
  | .step =>
    if !d.chip.right rHalt ∨ !d.cur.halted then d
    else { d with cur := { d.cur with halted := false, stepping := true, fwt := d.cur.wt, pastBp := true } }
  | .coreWrite v =>
    if d.cur.halted && d.chip.right rCoreReg then { d with cur := coreAssign d.chip.dbg.creg.toNat v d.cur } else d

/-- What the chip asked for is done in order; a Cold reset ends it. -/
def answerAsks : List Ask → Device → Device
  | [], d => d
  | .cold cause env :: _, d =>
    -- what the array and the OTP were doing is cut off
    let c := (if d.chip.clk.running then d.chip.otpCut.cnsCut true else d.chip).coldStart cause env
    c.asks.foldl (fun d a => onAsk a d) { chip := { c with asks := [] }, cur := {}, reg := plinthCore c }
  | a :: r, d => answerAsks r (onAsk a d)

/-- Up to `n` rounds of requests: what is done for one may ask for more, as a store that drains before a reset. -/
def settleN : Nat → Device → Device
  | 0, d => { d with chip := { d.chip with asks := [] } }
  | n + 1, d => if d.chip.asks = [] then d else settleN n (answerAsks d.chip.asks { d with chip := { d.chip with asks := [] } })

/-- No request of the chip stays open. -/
def settle (d : Device) : Device := settleN 4 d

end Device

namespace State

/-- A command on the device; what the chip asks for is done with it. -/
def onDevice (f : Device → Device) (s : State) : State := { s with dev := (f s.dev).settle }

/-- A command on the chip that may ask for a reset or for the cores. -/
def onAll (f : Chip → Chip) (s : State) : State := s.onDevice (Device.modChip f)

/-- The same for an event that only a powered main domain out of reset can see (log 3). -/
def onRun (f : Chip → Chip) (s : State) : State := s.onAll fun c => if c.clk.running then f c else c

/-- An instruction issues on a core. -/
def issue (w : CoreId) (words : Nat) (noSlot : Bool) (body : Device → Core → Issued) (s : State) : State :=
  s.onDevice (Device.issue w words noSlot body)

end State

end Sys2Proof.Machine
end

