-- ==== Sys2Proof/Machine/MemOps.lean ====
section
/-! DEFINITION. Data accesses of the Jarley cores and the elements of the long instructions (14 R631 to R633; 15 R642 to R646,
R661 to R672). -/

namespace Sys2Proof.Machine

open Sys2Proof

/-! ## Operand fields of loads and stores (15 R642, R645) -/

def sizeBytes : Size → Nat
  | .byte => 1 | .pair => 2 | .quad => 4 | .bad => 1

/-- The register field is legal for the size. -/
def fieldOk (z : Size) (r : Fin 16) : Bool :=
  match z with
  | .byte => true
  | .pair => decide (r.val < 8)
  | .quad => decide (r.val < 8) && r.val % 2 == 0
  | .bad => false

/-- The pair a legal field names. -/
def fieldPair (r : Fin 16) : Fin 8 := Fin.ofNat 8 r.val

/-- The destination overlaps pointer pair `p`. -/
def overlapsPtr (z : Size) (r : Fin 16) (p : Fin 8) : Bool :=
  match z with
  | .byte => r.val / 2 == p.val
  | .pair => r.val == p.val
  | .quad => r.val == p.val || r.val + 1 == p.val
  | .bad => false

/-- Loaded bytes on their way to the register (15 R646): distance 3. -/
def loadLands (k : Core) (z : Size) (r : Fin 16) (b : Bytes) : List Landing :=
  match z with
  | .pair => k.landPair 3 (fieldPair r) (BitVec.ofNat 16 (leNat b))
  | .quad => k.landQuad 3 (fieldPair r) (BitVec.ofNat 32 (leNat b))
  | _ => k.landByte 3 r (b.getD 0 0)

/-- The bytes that a store takes. -/
def storeBytes (k : Core) (z : Size) (r : Fin 16) : Bytes :=
  match z with
  | .pair => leBytes 2 (k.pair (fieldPair r)).toNat
  | .quad => leBytes 4 (k.quad (fieldPair r)).toNat
  | _ => [k.byte r]

/-! ## Loads -/

/-- What a load comes to: its bytes, what it leaves, and its wait. -/
inductive Loaded where
  | bytes (b : Bytes) (c : Chip) (wait : Nat)
  | fault (f : FaultInfo) (c : Chip)
  | freeze

/-- The load waits: a peripheral page behind the buffer, or a flash read that the array holds (14 R633, 05 Table 05-6). -/
def loadWaits (c : Chip) (k : Core) (p : Nat) : Bool :=
  (inPeriph p && !k.wbuf.isEmpty) || (inFlash p && c.readWaits (some ((p - 0x20000000) / blockBytes)))
  || (inInfo p && c.readWaits none)

/-- A load of `n` bytes at logical address `a`; `parity`: its transfer's parity fails. -/
def loadFrom (w : CoreId) (d : Device) (k : Core) (a n : Nat) (parity : Bool) : Loaded :=
  let c := d.chip
  match dataPlace k a n with
  | .error f => .fault f c
  | .ok (.special o) =>
    if specialWidthOk o n then .bytes ((List.range n).map fun i => specialByte w k (o + i)) c 0 else .fault (specialFault a) c
  | .ok (.phys p) =>
    let bs := (List.range n).map fun i => bufByte k.wbuf (p + i)
    if bs.all Option.isSome && !inPeriph p then .bytes (bs.map (·.getD 0)) c 0
    else
      let f := c.judge (coreNo w) .read p parity
      if f ≠ 0 then .fault (refusedFault 0 f p) (c.refuseTransfer (coreNo w) p)
      else if loadWaits c k p then .freeze
      else
        let r := (c.touchRead p n).busRead (initOf w) d.cur n p
        .bytes ((List.range n).map fun i => (bs.getD i none).getD (r.1.getD i 0)) (if ownSram w p then r.2 else r.2.spend)
          (c.accessWait w p n)

/-! ## Stores -/

inductive Stored where
  | core (k : Core)
  | fault (f : FaultInfo)
  | freeze

/-- The instruction at issue was fetched from Plinth ROM (12 R513). -/
def romFetched (k : Core) : Bool := match Chip.fetchPhys k k.pc.toNat with | some p => inRom p | none => false

/-- A store of bytes at logical address `a`: to the special page at once, else into the buffer. -/
def storeTo (d : Device) (k : Core) (a : Nat) (b : Bytes) : Stored :=
  match dataPlace k a b.length with
  | .error f => .fault f
  | .ok (.special o) => if specialWidthOk o b.length then .core (specialStore d.chip.trapFused o b k) else .fault (specialFault a)
  | .ok (.phys p) =>
    if bufDepth ≤ k.wbuf.length then .freeze
    else .core { k with wbuf := k.wbuf ++ [{ addr := p, bytes := b, fromRom := romFetched k }] }

/-! ## Bodies of the load and store instructions -/

/-- A load at an address with results `extra` beside it. -/
def loadBody (i : FrozenAccess) (w : CoreId) (z : Size) (r : Fin 16) (a : Half) (extra : List Landing) (parity : Bool) (d : Device) (k : Core) :
    Issued :=
  match loadFrom w d k a.toNat (sizeBytes z) parity with
  | .fault f c => .fault f { d with chip := c } k
  | .freeze => .freeze d k i
  | .bytes b c wait => .done { d with chip := c } (k.fly (loadLands k z r b ++ extra)) .seq (1 + wait)

/-- A store at an address with results `extra` beside it. -/
def storeBody (i : FrozenAccess) (z : Size) (r : Fin 16) (a : Half) (extra : List Landing) (d : Device) (k : Core) : Issued :=
  match storeTo d k a.toNat (storeBytes k z r) with
  | .fault f => .fault f d k
  | .freeze => .freeze d k i
  | .core k => .done d (k.fly extra) .seq 1

/-- The pointer after a post-increment, distance 2 (15 R653). -/
def bumped (k : Core) (z : Size) (p : Fin 8) (post : Bool) : List Landing :=
  if post then k.landPair 2 p (k.pair p + BitVec.ofNat 16 (sizeBytes z)) else []

def ldBody (w : CoreId) (z : Size) (r : Fin 16) (p : Fin 8) (post parity : Bool) (d : Device) (k : Core) : Issued :=
  if !fieldOk z r || (post && overlapsPtr z r p) then .fault illegalFault d k
  else loadBody (.ld z r p post parity) w z r (k.pair p) (bumped k z p post) parity d k

def stBody (z : Size) (r : Fin 16) (p : Fin 8) (post : Bool) (d : Device) (k : Core) : Issued :=
  if !fieldOk z r then .fault illegalFault d k
  else storeBody (.st z r p post) z r (k.pair p) (bumped k z p post) d k

def ldxBody (w : CoreId) (z : Size) (r : Fin 16) (p : Fin 8) (off : Half) (parity : Bool) (d : Device) (k : Core) : Issued :=
  if !fieldOk z r then .fault illegalFault d k
  else loadBody (.ldx z r p off parity) w z r (k.pair p + off) [] parity d k

def stxBody (z : Size) (r : Fin 16) (p : Fin 8) (off : Half) (d : Device) (k : Core) : Issued :=
  if !fieldOk z r then .fault illegalFault d k
  else storeBody (.stx z r p off) z r (k.pair p + off) [] d k

def ldaBody (w : CoreId) (z : Size) (r : Fin 16) (addr : Half) (parity : Bool) (d : Device) (k : Core) : Issued :=
  if !fieldOk z r then .fault illegalFault d k
  else loadBody (.lda z r addr parity) w z r addr [] parity d k

def staBody (z : Size) (r : Fin 16) (addr : Half) (d : Device) (k : Core) : Issued :=
  if !fieldOk z r then .fault illegalFault d k
  else storeBody (.sta z r addr) z r addr [] d k

/-! ## Long instructions -/

/-- One element: its effect and wait, its fault, a freeze, or the early end of BCMP. -/
inductive Elem where
  | ok (d : Device) (k : Core) (wait : Nat)
  | fault (f : FaultInfo) (d : Device)
  | freeze
  | stop (d : Device) (k : Core) (wait : Nat)

/-- Pairs S, D and K (15 R661). -/
def ptrS : Fin 8 := 4
def ptrD : Fin 8 := 5
def cntK : Fin 8 := 6

/-- The long instruction is in progress, or not (LP, 14 Table 14-1). -/
def Core.inLong (b : Bool) (k : Core) : Core := { k with longMid := b, st := stBit 4 b k.st }

def Core.addPair (n : Fin 8) (v : Half) (k : Core) : Core := k.setPair n (k.pair n + v)

/-- Up to `n + 1` elements; `used`: cycles so far (15 R661 to R672). -/
def runElems (mk : Nat → FrozenAccess) (el : Device → Core → Elem) (cyc : Nat) (ends : Core → Core) : Nat → Nat → Device → Core → Issued
  | n, used, d, k =>
    match el d k with
    | .fault f d => .fault f d { k with cycle := k.cycle + BitVec.ofNat 32 used }
    | .freeze => .freeze d { k with cycle := k.cycle + BitVec.ofNat 32 used } (mk n)
    | .stop d k wait => .done d (k.inLong false) .seq (used + cyc + wait)
    | .ok d k wait =>
      let k := k.addPair cntK 0xFFFF
      let used := used + cyc + wait
      if k.pair cntK = 0 then .done d (ends (k.inLong false)) .seq used
      else match n with
        | 0 => .done d (k.inLong true) .here used
        | n + 1 => runElems mk el cyc ends n used d (k.inLong true)

/-- A long instruction: it waits for the producers in flight, then runs its elements; a step runs one (15 R672). LP at its issue
makes no difference (15 R669). The elements that R671 counts are those since the issue: a fault of the first one after a resumption saves
LP clear (DEDUCED, log 77). -/
def longBody (mk : Nat → FrozenAccess) (el : Device → Core → Elem) (cyc : Nat) (ends : Core → Core) (more : Nat) (d : Device) (k : Core) : Issued :=
  let start := if k.longMid then 0 else 1 + k.waitSlots
  let k := k.complete.inLong k.longMid
  if k.pair cntK = 0 then .done d (ends (k.inLong false)) .seq start
  else runElems mk el cyc ends (if k.stepping then 0 else more) start d k

/-- An element's load, then what it does with the bytes. -/
def elemLoad (w : CoreId) (p : Fin 8) (n : Nat) (parity : Bool) (d : Device) (k : Core) (next : Bytes → Device → Nat → Elem) : Elem :=
  match loadFrom w d k (k.pair p).toNat n parity with
  | .fault f c => .fault f { d with chip := c }
  | .freeze => .freeze
  | .bytes b c wait => next b { d with chip := c } wait

/-- An element's store, then the core goes on. -/
def elemStore (p : Fin 8) (b : Byte) (d : Device) (k : Core) (wait : Nat) (next : Core → Core) : Elem :=
  match storeTo d k (k.pair p).toNat [b] with
  | .fault f => .fault f d
  | .freeze => .freeze
  | .core k => .ok d (next k) wait

/-- An element's store can take place: tried before its loads, so that an element that faults or freezes there has no effect. -/
def elemTry (p : Fin 8) (d : Device) (k : Core) (next : Unit → Elem) : Elem :=
  match storeTo d k (k.pair p).toNat [0] with
  | .fault f => .fault f d
  | .freeze => .freeze
  | .core _ => next ()

/-- The load of an element that stores too: its own fault comes before the store's. -/
def elemLoadStore (w : CoreId) (ps pd : Fin 8) (parity : Bool) (d : Device) (k : Core) (next : Byte → Device → Nat → Elem) : Elem :=
  match dataPlace k (k.pair ps).toNat 1 with
  | .error f => .fault f d
  | .ok _ =>
    match loadFrom w d k (k.pair ps).toNat 1 parity with
    | .fault f c => .fault f { d with chip := c }
    | _ => elemTry pd d k fun _ => elemLoad w ps 1 parity d k fun b d wait => next (b.getD 0 0) d wait

def bmovElem (w : CoreId) (parity : Bool) (d : Device) (k : Core) : Elem :=
  elemLoadStore w ptrS ptrD parity d k fun b d wait => elemStore ptrD b d k wait fun k => (k.addPair ptrS 1).addPair ptrD 1

def bfilElem (d : Device) (k : Core) : Elem := elemStore ptrD (k.byte 0) d k 0 fun k => k.addPair ptrD 1

/-- The flags of a comparison at once. -/
def Core.setFlags {w : Nat} (r : AluRes w) (k : Core) : Core :=
  { k with st := stBit 3 r.ovf (stBit 2 r.neg (stBit 1 r.zero (match r.carry with | some c => stBit 0 c k.st | none => k.st))) }

def bcmpElem (w : CoreId) (parity : Bool) (d : Device) (k : Core) : Elem :=
  elemLoad w ptrS 1 parity d k fun x d w1 => elemLoad w ptrD 1 false d k fun y d w2 =>
    let a := x.getD 0 0
    let b := y.getD 0 0
    if a = b then .ok d ((k.addPair ptrS 1).addPair ptrD 1) (w1 + w2) else .stop d (k.setFlags (aluSub a b false)) (w1 + w2)

/-- BCMP ends as equal (15 R665). -/
def bcmpEnds (k : Core) : Core := { k with st := stBit 0 false (stBit 1 true (stBit 2 false (stBit 3 false k.st))) }

/-- The CRC-16 step of 15 R661. -/
def bcrcStep (crc : Half) (b : Byte) : Half := BitVec.ofNat 16 (crcByte 16 0x1021 crc.toNat b)

def bcrcElem (w : CoreId) (parity : Bool) (d : Device) (k : Core) : Elem :=
  elemLoad w ptrS 1 parity d k fun x d wait => .ok d ((k.setPair 0 (bcrcStep (k.pair 0) (x.getD 0 0))).addPair ptrS 1) wait

/-- The accumulator of BMAC after an element, and whether its addition overflows (15 R666). -/
def bmacStep (acc : Word) (x y : Half) : Word × Bool :=
  let sum := acc.toInt + x.toInt * y.toInt
  (BitVec.ofInt 32 sum, outOfRange 32 sum)

def bmacElem (w : CoreId) (parity : Bool) (d : Device) (k : Core) : Elem :=
  match dataPlace k (k.pair ptrS).toNat 2, dataPlace k (k.pair ptrD).toNat 2 with
  | .error f, _ => .fault f d
  | _, .error f => .fault f d
  | _, _ =>
    elemLoad w ptrS 2 parity d k fun x d w1 => elemLoad w ptrD 2 false d k fun y d w2 =>
      let r := bmacStep (k.quad 0) (BitVec.ofNat 16 (leNat x)) (BitVec.ofNat 16 (leNat y))
      let k := (k.setPair 0 (r.1.setWidth 16)).setPair 1 ((r.1 >>> 16).setWidth 16)
      let k := if r.2 then { k with st := stBit 3 true k.st } else k
      .ok d ((k.addPair ptrS 2).addPair ptrD 2) (w1 + w2)

def bxorElem (w : CoreId) (parity : Bool) (d : Device) (k : Core) : Elem :=
  elemLoadStore w ptrD ptrD parity d k fun a d w1 => elemLoad w ptrS 1 parity d k fun b d w2 =>
    elemStore ptrD (a ^^^ b.getD 0 0) d k (w1 + w2) fun k => (k.addPair ptrS 1).addPair ptrD 1

/-- What a step of each long instruction does. -/
def elemOf (op : LongOp) (w : CoreId) (parity : Bool) : Device → Core → Elem :=
  match op with
  | .bmov => bmovElem w parity
  | .bfil => bfilElem
  | .bcmp => bcmpElem w parity
  | .bcrc => bcrcElem w parity
  | .bmac => bmacElem w parity
  | .bxor => bxorElem w parity

/-- Cycles per element (15 Table 15-10). -/
def elemCycles : LongOp → Nat
  | .bmov => 2 | .bfil => 1 | .bcmp => 2 | .bcrc => 2 | .bmac => 3 | .bxor => 3

/-- What a long instruction leaves at its end. -/
def longEnds : LongOp → Core → Core
  | .bcmp => bcmpEnds
  | _ => id

def runLong (op : LongOp) (w : CoreId) (more : Nat) (parity : Bool) : Device → Core → Issued :=
  longBody (fun n => .long op n parity) (elemOf op w parity) (elemCycles op) (longEnds op) more

/-! ## The end of a freeze (14 R631) -/

/-- The instruction whose access froze a core: its words and what it does. -/
def frozenBody (w : CoreId) (i : FrozenAccess) : Nat × (Device → Core → Issued) :=
  match i with
  | .ld z r p post parity => (1, ldBody w z r p post parity)
  | .st z r p post => (1, stBody z r p post)
  | .ldx z r p off parity => (2, ldxBody w z r p off parity)
  | .stx z r p off => (2, stxBody z r p off)
  | .lda z r a parity => (2, ldaBody w z r a parity)
  | .sta z r a => (2, staBody z r a)
  | .long op n parity => (1, runLong op w n parity)

namespace Device

/-- The waiting access completes, if what it waited for has gone; `cycles`: the core cycles of the freeze. -/
def thaw (w : CoreId) (cycles : Nat) (d : Device) : Device :=
  let k := d.core w
  match k.frozen with
  | none => d
  | some i =>
    let b := frozenBody w i
    if !(d.chip.clk.running && k.running) then d
    else match b.2 d { k with frozen := none, cycle := k.cycle + BitVec.ofNat 32 cycles } with
      | .freeze _ _ _ => d
      | r => finish w b.1 0 r

end Device

end Sys2Proof.Machine
end

