-- ==== Sys2Proof/Machine/PowerOps.lean ====
section
/-! DEFINITION. Supplies, RESET_N and PFW_N (17 R718 to R724; 05 R229; 11 R471), the shelving of a record whose transfer is
refused, a zero crossing for every block that takes it, and requests on the debug port (13 R587 to R592). -/

namespace Sys2Proof.Machine

open Sys2Proof

namespace Chip

/-! ## Supplies and reset pins -/

/-- Every pin takes its reset state and the main domain stops, its ports closed: HRDY low, CAN_STBY high (09 R386). -/
def stopMain (c : Chip) : Chip :=
  (((((c.modClk fun k => { k with running := false, resetDeferred := false, startHeld := false }).modOrd fun o =>
    { o with drive := Vector.replicate 8 .highZ }).modHost fun h => { h with open_ := false, frame := none, driven := [] }).modCan fun n =>
    { n with open_ := false }).modTw fun t => { t with open_ := false }).tagAlone

/-- Power-good rises (17 R718). The start runs unless RESET_N is low; after a brown-out its cause is 0x05 (11 Table
11-1). -/
def powerGood (env : StartEnv) (c : Chip) : Chip :=
  if c.clk.good then c
  else
    let cause := if c.rgr.brownRail.isSome then 5 else 0
    let c := c.modClk fun k => { k with vio := true, good := true }
    if c.clk.resetLow then c else c.ask (.cold cause env)

/-- An operation that a RESET_N reset waits for (17 R721). -/
def resetWaits (c : Chip) : Bool :=
  (match c.cns.run with | some r => opPrograms r.op | none => false) || c.otpBusy

/-- A RESET_N low pulse of `lowNs` (17 R719, R721). Between 0.9 µs and 1 µs it is taken or not (log 13). -/
def resetAsserted (lowNs : Nat) (c : Chip) : Chip :=
  let taken : Bool := 1000 ≤ lowNs || (900 ≤ lowNs && Config.shortReset c.clk.free)
  let c := if 900 ≤ lowNs ∧ lowNs < 1000 then c.spend else c
  if !taken ∨ c.clk.resetLow then c
  else
    let c := c.modClk fun k => { k with resetLow := true }
    if !c.clk.running then c
    else if c.resetWaits then (c.cnsCut false).modClk fun k => { k with resetDeferred := true }
    else (c.cnsCut false).stopMain

/-- The deferred reset takes effect; a pin already released starts the device at once. -/
def deferredReset (c : Chip) : Chip :=
  if !c.clk.resetDeferred ∨ c.resetWaits then c
  else
    let c := c.stopMain
    if c.clk.resetLow then c else c.ask (.cold 1 quietEnv)

/-- RESET_N is released (12 Table 12-1). -/
def resetReleased (env : StartEnv) (c : Chip) : Chip :=
  if !c.clk.resetLow then c
  else
    let c := c.modClk fun k => { k with resetLow := false }
    if c.clk.resetDeferred ∨ !c.clk.good then c else c.ask (.cold 1 env)

/-- VIO, or VCORE, below its brown-out threshold (11 Table 11-1). `off`: the supplies go away, and SRAM and the memory of
the brown-out with them. -/
def brownOut (vcore off : Bool) (c : Chip) : Chip :=
  if !c.clk.good then c
  else
    let c := ((c.otpCut).cnsCut true).stopMain
    let vio : Bool := vcore && !off
    let c := c.modClk fun k => { k with good := false, vio := vio }
    let c := c.modRgr fun r => { r with brownRail := if off then none else some (if vcore then 2 else 0) }
    if !vio && !c.tag.field then { c with tag := {} } else c

/-- PFW_N is asserted (05 R229, 04 R192, 11 Table 11-3, 16 Table 16-1). -/
def pfwAsserted (c : Chip) : Chip :=
  if c.clk.pfw then c
  else
    let c := c.modClk fun k => { k with pfw := true }
    if !c.clk.running then c
    else
      let c := (c.modExc .curator fun e => { e with pfwLatch := true }).modExc .registrar fun e => { e with pfwLatch := true }
      let c := c.powerEvent 0 0 c.freeSlots
      ((c.cnsPfw.catPfw).endAll 0x26).tagServe

/-- PFW_N is deasserted (17 R724, 12 R546): a start that it held goes on; what the Registrar's window refused is repeated, and what the
array held starts, as its turn comes (05 R751, R752). -/
def pfwDeasserted (c : Chip) : Chip :=
  if !c.clk.pfw then c
  else
    let c := c.modClk fun k => { k with pfw := false }
    if !c.clk.running then c
    else if c.clk.startHeld then c.coldRest
    else c.powerEvent 1 0 0

/-! ## Shelving -/

/-- A record's slot keeps what it held; one never written this epoch holds 0xFF (03 R118). -/
def unshelve (old : List (Nat × Shelved)) (e : Nat × Shelved) : Nat × Shelved :=
  if assoc e.1 old = some e.2 then e
  else (e.1, { e.2 with rcd := match assoc e.1 old with | some o => o.rcd | none => Record.ofBytes (List.replicate 32 0xFF) })

/-- The seal lane takes its next record; its shelving is a write of ring SRAM by the accession pipeline, abandoned when
any byte of it is refused (03 R112, R133; 01 R740; 16 R703). -/
def sealStep (parity : Bool) (c : Chip) : Chip :=
  let a := 0x11000000 + 32 * c.ringSlot c.acc.nextSeq
  let s := c.sealNext
  if s.acc.nextSeq = c.acc.nextSeq then s
  else match c.firstRefused 2 .write parity ((List.range 32).map (a + ·)) with
  | none => s
  | some (p, _) => (s.modAcc fun q => { q with ring := q.ring.map (unshelve c.acc.ring) }).refuseTransfer 2 p

/-! ## Entropy -/

/-- A continuous test fails: a run reaches 41, or a window's count 800 (06 R279 to R281). -/
def entropyFails (proportion : Bool) (c : Chip) : Chip :=
  if c.trn.st ≠ .delivering then c
  else if proportion then (c.modTrn fun t => { t with aptMax := max t.aptMax 800 }).trnFail 2
  else (c.modTrn fun t => { t with runMax := max t.runMax 41 }).trnFail 1

/-! ## A zero crossing -/

/-- A crossing reaches the tracker, the order pipeline and the Catalogue (02 R69; 04 R172, R190; 07 R324). -/
def zcCrossing (i : Fin 3) (c : Chip) : Chip :=
  if !c.zcTaken i then c
  else
    let was := (c.phase.ins[i]).locked
    let active : Bool := c.phase.ref = some i
    let c := c.crossing i
    let c := if (c.phase.ins[i]).locked then c.orderCrossing i else if was then c.orderPhaseLost i else c
    c.when active catCrossing

/-- No crossing comes (02 R73; 04 R190). -/
def zcMissing (i : Fin 3) (c : Chip) : Chip :=
  let was := (c.phase.ins[i]).locked
  let c := c.missingCrossing i
  c.when (was && !(c.phase.ins[i]).locked) (orderPhaseLost i)

/-! ## The debug port (13 R588 to R591) -/

def anyRight (c : Chip) (l : List Nat) : Bool := l.any c.right

/-- The right that a debug write of a byte at an offset of the DBG_ page needs is in force. -/
def dbgPageMay (c : Chip) (o : Nat) (v : Byte) : Bool :=
  if o = 1 then v = 1 || v = 2 || (v = 3 && c.anyRight [rOtpCustomer, rOtpLock, rKeyRevoke]) || (v = 4 && c.anyRight [rLcReturn, rLcScrap])
  else if o = 0x14 ∨ within 0x100 176 o then true
  else if within 0x18 8 o then c.anyRight [rOtpCustomer, rOtpLock, rKeyRevoke]
  else if o = 0x30 then c.right rHalt
  else if o = 0x31 ∨ within 0x34 4 o then c.right rCoreReg
  else if within 0x38 9 o then c.right rBreak
  else if o = 0x50 ∧ v = 1 then c.right rCatRead
  else if within 0x50 10 o ∨ within 0x200 256 o then c.anyRight [rCatRead, rCatWrite]
  else false

/-- The right for a debug access of a byte (13 R591, Table 13-5). -/
def debugMay (c : Chip) (write : Bool) (a : Nat) (v : Byte) : Bool :=
  if c.dead then false
  else if inPeriph a ∧ (a - 0x40000000) / 4096 = pgDbg then !write || c.dbgPageMay (a % 4096) v
  else if inPeriph a then c.right (if write then rPeriphWrite else rPeriphRead)
  else c.right (if write then rMemWrite else rMemRead)

/-- An initiator's rights at a register. -/
def may (c : Chip) (i : Init) (write : Bool) (a : Nat) (v : Byte) : Bool := i ≠ .debug || c.debugMay write a v

/-- The port answers: a status, data when it is OK, and their CRC (13 R590). -/
def dbgRespond (status : Byte) (data : Bytes) (c : Chip) : Chip :=
  let b := status :: (if status = 0 then data else [])
  c.modDbg fun d => { d with resp := b ++ [byteOf (crc8 b)] }

def debugId (crcOk : Bool) (c : Chip) : Chip :=
  if crcOk then
    c.dbgRespond 0 (leBytes 2 0x2630 ++ [Config.siliconRev, byteOf (lifeCode c.start.life)] ++ leBytes 2 Config.romRev.toNat ++ [1, 0])
  else c.dbgRespond 2 []

/-- What keeps a debug access of `n` bytes from running: its status, and the address that is refused. -/
def debugRefused (c : Chip) (write : Bool) (a : Nat) (data : Bytes) (n : Nat) (parity : Bool) : Option (Byte × Option Nat) :=
  if n = 0 ∨ 64 < n then some (5, none)
  else if !((List.range n).all fun i => c.debugMay write (a + i) (data.getD i 0)) then some (3, none)
  else match c.firstRefused byDebug (if write then .write else .read) parity ((List.range n).map (a + ·)) with
  | some (p, _) => some (4, some p)
  | none => none

/-- A refused debug access. -/
def debugDenied (x : Byte × Option Nat) (c : Chip) : Chip :=
  (match x.2 with | some p => c.refuseTransfer byDebug p | none => c).dbgRespond x.1 []

def debugRd (addr : Word) (n : Nat) (crcOk parity : Bool) (cur : Core) (c : Chip) : Chip :=
  if !crcOk then c.dbgRespond 2 []
  else match c.debugRefused false addr.toNat [] n parity with
  | some x => c.debugDenied x
  | none =>
    let r := ((List.range n).foldl (fun (c : Chip) i => c.touchRead (addr.toNat + i) 1) c).busRead .debug cur n addr.toNat
    r.2.dbgRespond 0 r.1

def debugWr (addr : Word) (data : Bytes) (crcOk parity : Bool) (cur : Core) (c : Chip) : Chip :=
  if !crcOk then c.dbgRespond 2 []
  else match c.debugRefused true addr.toNat data data.length parity with
  | some x => c.debugDenied x
  | none => (c.busWrite .debug false cur addr.toNat data).dbgRespond 0 []

/-- A read of byte 0 of a status or counter of several bytes (01 R35). -/
def latchRead (i : Init) (a : Nat) (cur : Core) (c : Chip) : Chip :=
  if inPeriph a ∧ (dataAt ((a - 0x40000000) / 4096) (a % 4096)).isNone ∧ !(regAt ((a - 0x40000000) / 4096) (a % 4096)).ctl
      ∧ c.may i false a 0 then
    (c.regRead i a cur).2
  else c

/-- A write of one byte of a register (01 R37, R38). -/
def registerWrite (i : Init) (a : Nat) (v : Byte) (cur : Core) (c : Chip) : Chip :=
  if inPeriph a ∧ c.may i true a v then c.regWrite i false a v cur else c

/-- A write of a Catalogue object by a port, once the engine serves (07 R302). -/
def objectWrite (p : Port) (idx sub : Nat) (data : Bytes) (c : Chip) : Chip :=
  if c.cat.loaded then c.writeNow p idx sub data else c

/-- The same for a retry, whose Cold start meets what the world brings (12 R541). -/
def retryWrite (p : Port) (v : Byte) (env : StartEnv) (c : Chip) : Chip :=
  let c := c.objectWrite p 0x1010 7 [v]
  let met : Ask → Ask
    | .cold 4 _ => .cold 4 env
    | a => a
  let word : FlashOp → FlashOp
    | .startWord v s (some a) => .startWord v s (some (met a))
    | o => o
  { c.modCns fun k => { k with rjobs := k.rjobs.map word } with asks := c.asks.map met }

end Chip

/-! ## Encodings (15 R641 to R645, Tables 15-1 to 15-9) -/

/-- A register field of loads and stores, with its pointer. -/
def legalAccess (z r p : Nat) (postLoad : Bool) : Bool :=
  match z with
  | 0 => !(postLoad && r / 2 == p)
  | 1 => r < 8 && !(postLoad && r == p)
  | 2 => r < 8 && r % 2 == 0 && !(postLoad && (r == p || r + 1 == p))
  | _ => false

/-- The words of a first word `a` and what follows it are a listed encoding. -/
def legalWords (a b : Nat) : Bool :=
  let f := bitsOf a 11 8
  let z := bitsOf a 11 10
  let r := bitsOf a 9 6
  match bitsOf a 15 12 with
  | 0x0 => f != 0xF
  | 0x1 => !tb a 7 && !tb a 3 && (f != 0xD || !tb a 4) && ((f != 0xE && f != 0xF) || bitsOf a 2 0 = 0)
  | 0x2 | 0x3 | 0x4 | 0x5 => true
  | 0x6 => bitsOf a 3 0 = 0 && f != 7 && (if f < 7 then bitsOf b 15 8 = 0 else !tb a 7)
  | 0x7 => (f < 5 && !tb a 3) || (8 ≤ f && f < 0xD && !tb a 7)
  | 0x8 => bitsOf a 1 0 = 0 && legalAccess z r (bitsOf a 5 3) (tb a 2)
  | 0x9 => bitsOf a 1 0 = 0 && legalAccess z r 0 false
  | 0xA => bitsOf a 1 0 = 0 && legalAccess z r 0 false
  | 0xB => bitsOf a 1 0 = 0 && bitsOf a 5 3 = 0 && legalAccess z r 0 false
  | 0xC => f != 0xF
  | 0xD => !tb a 7 && bitsOf a 3 0 = 0 && (((f = 0 || f = 1) && bitsOf a 6 4 = 0 && !tb b 0) || f = 2 || f = 3)
  | 0xE => !tb a 11 && bitsOf a 7 0 = 0 && f ≤ 5
  | _ => (0xF000 ≤ a && a ≤ 0xF005) || (0xF100 ≤ a && a ≤ 0xF107) || (0xF180 ≤ a && a ≤ 0xF187) || (0xF200 ≤ a && a ≤ 0xF207)

end Sys2Proof.Machine
end

