-- ==== Sys2Proof/Machine/Accession.lean ====
section
/-! DEFINITION. The accession pipeline. -/

namespace Sys2Proof.Machine

open Sys2Proof

/-- BI_TRANSITION (03 R94). -/
def execBiTransition (n : Fin 24) (s : State) : Host.Outcome State Fault Refusal := .next (s.onChip (Chip.biTransition n))

/-- DEBOUNCE_EXPIRY (03 R95). -/
def execDebounceExpiry (n : Fin 24) (s : State) : Host.Outcome State Fault Refusal := .next (s.onRun fun c => c.debounceExpiry n)

/-- CANDIDATE_ABANDON (03 R96). -/
def execCandidateAbandon (n : Fin 24) (s : State) : Host.Outcome State Fault Refusal := .next (s.onRun fun c => c.candidateAbandon n)

/-- CHATTER_WINDOW_CLOSE (03 R99). -/
def execChatterWindowClose (n : Fin 24) (s : State) : Host.Outcome State Fault Refusal := .next (s.onRun fun c => c.chatterClose n)

/-- QUIET_TIME_EXPIRY (03 R102). -/
def execQuietTimeExpiry (n : Fin 24) (s : State) : Host.Outcome State Fault Refusal := .next (s.onRun fun c => c.quietExpiry n)

/-- SEAL (03 R112). -/
def execSeal (parity : Bool) (s : State) : Host.Outcome State Fault Refusal := .next (s.onRun fun c => c.sealStep parity)

/-- CHECKPOINT_TRIGGER (03 R119). -/
def execCheckpointTrigger (s : State) : Host.Outcome State Fault Refusal := .next (s.onRun fun c => c.checkpointTrigger)

/-- CHECKPOINT_SIGNED (03 R121). -/
def execCheckpointSigned (faults : Nat) (s : State) : Host.Outcome State Fault Refusal := .next (s.onRun fun c => c.checkpointSigned faults)

/-- FIRMWARE_POST (03 R138): a write of byte 3 of ACC_POSTDAT. -/
def execFirmwarePost (i : Init) (value : Byte) (s : State) : Host.Outcome State Fault Refusal := .next (s.onRun fun c => if i = .curator then c.regWrite i false 0x40002027 value s.dev.cur else c)

end Sys2Proof.Machine
end

