-- ==== Sys2Proof/Machine/CanPorts.lean ====
section
/-! DEFINITION. The CAN FD ports. -/

namespace Sys2Proof.Machine

open Sys2Proof

/-- A CAP frame that the controller receives belongs to the row of its command byte; one without a command of the table, and a frame
that the controller only acknowledges, may come as any of them. -/
def capRow (n : Nat) (bus : Bool) (head : CanHead) (data : Bytes) (c : Chip) : Chip :=
  let k := (data.getD 0 0).toNat
  if c.isRequest head ∧ head.fd ∧ 8 ≤ data.length ∧ 1 ≤ k ∧ k ≤ 6 ∧ k ≠ n then c else c.capFrame bus head data

/-- CAP_READ (09 R392). -/
def execCapRead (bus : Bool) (head : CanHead) (data : Bytes) (s : State) : Host.Outcome State Fault Refusal := .next (s.onRun fun c => capRow 1 bus head data c)

/-- CAP_WRITE (09 R396). -/
def execCapWrite (bus : Bool) (head : CanHead) (data : Bytes) (s : State) : Host.Outcome State Fault Refusal := .next (s.onRun fun c => capRow 2 bus head data c)

/-- CAP_WRITE_INIT (09 R394). -/
def execCapWriteInit (bus : Bool) (head : CanHead) (data : Bytes) (s : State) : Host.Outcome State Fault Refusal := .next (s.onRun fun c => capRow 3 bus head data c)

/-- CAP_WRITE_SEG (09 R393). -/
def execCapWriteSeg (bus : Bool) (head : CanHead) (data : Bytes) (s : State) : Host.Outcome State Fault Refusal := .next (s.onRun fun c => capRow 4 bus head data c)

/-- CAP_READ_SEG (09 R394). -/
def execCapReadSeg (bus : Bool) (head : CanHead) (data : Bytes) (s : State) : Host.Outcome State Fault Refusal := .next (s.onRun fun c => capRow 5 bus head data c)

/-- CAP_END_TRANSFER (09 R394). -/
def execCapEndTransfer (bus : Bool) (head : CanHead) (data : Bytes) (s : State) : Host.Outcome State Fault Refusal := .next (s.onRun fun c => capRow 6 bus head data c)

/-- SEGMENT_TIMEOUT (09 R394). -/
def execSegmentTimeout (s : State) : Host.Outcome State Fault Refusal := .next (s.onRun fun c => c.segmentTimeout)

/-- CAN_TIME_FRAME (09 R405). -/
def execCanTimeFrame (bus : Bool) (frame : CanHead × Bytes) (s : State) : Host.Outcome State Fault Refusal := .next (s.onRun fun c => c.canTimeFrame bus frame.1 frame.2)

/-- CAN_FRAME_SENT (09 R398). -/
def execCanFrameSent (bus : Bool) (s : State) : Host.Outcome State Fault Refusal := .next (s.onRun fun c => c.canFrameSent bus)

/-- BUS_OFF_RECOVERY (09 R382). -/
def execBusOffRecovery (bus : Bool) (s : State) : Host.Outcome State Fault Refusal := .next (s.onRun fun c => c.busOffRecover bus)

/-- CAN_BUS_ERROR (09 R382). -/
def execCanBusError (bus transmit : Bool) (code : Fin 8) (s : State) : Host.Outcome State Fault Refusal := .next (s.onRun fun c => c.canError bus transmit code.val)

/-- PROTOCOL_EXCEPTION_EVENT (09 R382). -/
def execProtocolExceptionEvent (bus : Bool) (s : State) : Host.Outcome State Fault Refusal := .next (s.onRun fun c => c.protocolException bus)

/-- BUS_INTEGRATION_END (09 R382). -/
def execBusIntegrationEnd (bus : Bool) (s : State) : Host.Outcome State Fault Refusal := .next (s.onRun fun c => c.integrationEnd bus)

end Sys2Proof.Machine
end

