-- ==== Sys2Proof/Machine/Catalogue.lean ====
section
/-! DEFINITION. The Catalogue. -/

namespace Sys2Proof.Machine

open Sys2Proof

/-- ARBITER_WINDOW_CLOSE (07 R311). -/
def execArbiterWindowClose (s : State) : Host.Outcome State Fault Refusal := .next (s.onRun fun c => c.arbiterClose)

/-- BEGIN (07 R316). -/
def execBegin (port : Port) (s : State) : Host.Outcome State Fault Refusal := .next (s.onRun fun c => c.objectWrite port 0x1F00 1 [1])

/-- COMMIT (07 R322). -/
def execCommit (port : Port) (s : State) : Host.Outcome State Fault Refusal := .next (s.onRun fun c => c.objectWrite port 0x1F00 1 [2])

/-- ROLLBACK (07 R316). -/
def execRollback (port : Port) (s : State) : Host.Outcome State Fault Refusal := .next (s.onRun fun c => c.objectWrite port 0x1F00 1 [3])

/-- COMMIT_AT_ZERO_CROSSING (07 R324). -/
def execCommitAtZeroCrossing (port : Port) (s : State) : Host.Outcome State Fault Refusal := .next (s.onRun fun c => c.objectWrite port 0x1F00 1 [4])

/-- CROSSING_APPLY_TIMEOUT (07 R324). -/
def execCrossingApplyTimeout (s : State) : Host.Outcome State Fault Refusal := .next (s.onRun fun c => c.crossTimeout)

/-- TRANSACTION_TIMEOUT (07 R326). -/
def execTransactionTimeout (s : State) : Host.Outcome State Fault Refusal := .next (s.onRun fun c => c.txTimeout)

/-- STORE_IMAGE_VERIFIED (07 R337). -/
def execStoreImageVerified (ok : Bool) (s : State) : Host.Outcome State Fault Refusal := .next (s.onRun fun c => (c.storeVerified ok).imageProgress)

/-- INTERNAL_IMAGE_TIMER (07 R304). -/
def execInternalImageTimer (s : State) : Host.Outcome State Fault Refusal := .next (s.onRun fun c => c.internalImage)

/-- FIRMWARE_REQUEST_TIMEOUT (07 R306). -/
def execFirmwareRequestTimeout (s : State) : Host.Outcome State Fault Refusal := .next (s.onRun fun c => c.mailTimeout)

/-- CAT_CHANNEL_READ (07 R347). -/
def execCatChannelRead (i : Init) (ch : CoreId) (s : State) : Host.Outcome State Fault Refusal := .next (s.onRun fun c => c.catCommand i ch 1)

/-- CAT_CHANNEL_WRITE (07 R302). -/
def execCatChannelWrite (i : Init) (ch : CoreId) (s : State) : Host.Outcome State Fault Refusal := .next (s.onRun fun c => c.catCommand i ch 2)

end Sys2Proof.Machine
end

