-- ==== Sys2Proof/Machine/Conservator.lean ====
section
/-! DEFINITION. The Conservator. -/

namespace Sys2Proof.Machine

open Sys2Proof

/-- PROGRAM (05 R754). -/
def execProgram (i : Init) (w : CoreId) (s : State) : Host.Outcome State Fault Refusal := .next (s.onRun fun c => c.windowCommand i w 1)

/-- ERASE (05 R754). -/
def execErase (i : Init) (w : CoreId) (s : State) : Host.Outcome State Fault Refusal := .next (s.onRun fun c => c.windowCommand i w 2)

/-- CANCEL (05 R245). -/
def execCancel (i : Init) (w : CoreId) (s : State) : Host.Outcome State Fault Refusal := .next (s.onRun fun c => c.windowCommand i w 0x0F)

/-- FLASH_OPERATION_START (05 R216). -/
def execFlashOperationStart (s : State) : Host.Outcome State Fault Refusal := .next (s.onRun fun c => c.flashStart)

/-- PROGRAM_DONE (05 R208). -/
def execProgramDone (unverified : List Nat) (s : State) : Host.Outcome State Fault Refusal := .next (s.onRun fun c => (c.programDone unverified).imageProgress.tagServe)

/-- ERASE_DONE (05 R209). -/
def execEraseDone (ok : Bool) (s : State) : Host.Outcome State Fault Refusal := .next (s.onRun fun c => (c.eraseDone ok).imageProgress.tagServe)

/-- INFO_PAGE_ERASE_DONE (05 R750). -/
def execInfoPageEraseDone (ok : Bool) (s : State) : Host.Outcome State Fault Refusal := .next (s.onRun fun c => (c.infoEraseDone ok).imageProgress.tagServe)

/-- ERASE_RESUME (05 R219). -/
def execEraseResume (s : State) : Host.Outcome State Fault Refusal := .next (s.onRun fun c => c.eraseResume)

/-- JOURNAL_PAGE_TIMEOUT (05 R225). -/
def execJournalPageTimeout (s : State) : Host.Outcome State Fault Refusal := .next (s.onRun fun c => c.journalTimeout)

/-- PASS_DUE (05 R234). -/
def execPassDue (s : State) : Host.Outcome State Fault Refusal := .next (s.onRun fun c => c.passDue)

/-- PASS_BLOCK_INTERVAL (05 R235). -/
def execPassBlockInterval (weak : List Nat) (s : State) : Host.Outcome State Fault Refusal := .next (s.onRun fun c => c.passInterval weak)

end Sys2Proof.Machine
end

