-- ==== Sys2Proof/Machine/Contactless.lean ====
section
/-! DEFINITION. The contactless port. -/

namespace Sys2Proof.Machine

open Sys2Proof

/-- REQA (10 R437). -/
def execReqa (s : State) : Host.Outcome State Fault Refusal := .next (s.onChip (Chip.tagReqa false))

/-- WUPA (10 R437). -/
def execWupa (s : State) : Host.Outcome State Fault Refusal := .next (s.onChip (Chip.tagReqa true))

/-- HLTA (10 R437). -/
def execHlta (s : State) : Host.Outcome State Fault Refusal := .next (s.onChip (Chip.tagHalt))

/-- ANTICOLLISION (10 R438). -/
def execAnticollision (level : Fin 2) (bits : List Bool) (s : State) : Host.Outcome State Fault Refusal := .next (s.onChip (Chip.tagAnticollision level bits))

/-- SELECT (10 R438). -/
def execSelect (level : Fin 2) (uidBytes : Bytes) (s : State) : Host.Outcome State Fault Refusal := .next (s.onChip (Chip.tagSelect level uidBytes))

/-- RATS (10 R439). -/
def execRats (param : Byte) (s : State) : Host.Outcome State Fault Refusal := .next (s.onChip (Chip.tagRats param))

/-- PPS (10 R437). -/
def execPps (pps0 pps1 : Byte) (s : State) : Host.Outcome State Fault Refusal := .next (s.onChip (Chip.tagPps pps0 pps1))

/-- S_DESELECT (10 R440). -/
def execSDeselect (s : State) : Host.Outcome State Fault Refusal := .next (s.onChip (Chip.tagDeselect))

/-- S_WTX_RESPONSE (10 R457). -/
def execSWtxResponse (wtxm : Nat) (s : State) : Host.Outcome State Fault Refusal := .next (s.onChip (Chip.tagWtxResponse wtxm))

/-- WTX_TIMER (10 R457). -/
def execWtxTimer (ahead : Nat) (s : State) : Host.Outcome State Fault Refusal := .next (s.onChip (Chip.tagWtx ahead))

/-- SELECT_APP (10 R441). -/
def execSelectApp (a : Apdu) (s : State) : Host.Outcome State Fault Refusal := .next (s.onChip (Chip.tagCommand 0xA4 a Chip.bodySelectApp))

/-- VERIFY_PASSWORD (10 R442). -/
def execVerifyPassword (a : Apdu) (s : State) : Host.Outcome State Fault Refusal := .next (s.onChip (Chip.tagCommand 0x20 a Chip.bodyPassword))

/-- AUTH_1 (10 R446). -/
def execAuth1 (a : Apdu) (s : State) : Host.Outcome State Fault Refusal := .next (s.onChip (Chip.tagCommand 0xA1 a Chip.bodyAuth1))

/-- AUTH_2 (10 R446). -/
def execAuth2 (a : Apdu) (s : State) : Host.Outcome State Fault Refusal := .next (s.onChip (Chip.tagCommand 0xA2 a Chip.bodyAuth2))

/-- GET_PLACARD (10 R450). -/
def execGetPlacard (a : Apdu) (s : State) : Host.Outcome State Fault Refusal := .next (s.onChip (Chip.tagCommand 0x30 a Chip.bodyPlacard))

/-- READ_JOURNAL (10 R452). -/
def execReadJournal (a : Apdu) (s : State) : Host.Outcome State Fault Refusal := .next (s.onChip (Chip.tagCommand 0x32 a Chip.bodyJournal))

/-- READ_OBJECT (10 R454). -/
def execReadObject (a : Apdu) (s : State) : Host.Outcome State Fault Refusal := .next (s.onChip (Chip.tagCommand 0x34 a Chip.bodyObject))

/-- WRITE_MEMO (10 R456). -/
def execWriteMemo (a : Apdu) (s : State) : Host.Outcome State Fault Refusal := .next (s.onChip (Chip.tagCommand 0x40 a Chip.bodyMemo))

/-- FAILURE_ANSWER_DELAY (10 R444). -/
def execFailureAnswerDelay (s : State) : Host.Outcome State Fault Refusal := .next (s.onChip (Chip.tagDelayed))

/-- FIELD_CLEAR_TIMEOUT (10 R443). -/
def execFieldClearTimeout (s : State) : Host.Outcome State Fault Refusal := .next (s.onChip (Chip.fieldClear))

/-- PLACARD_WRITE (10 R462). -/
def execPlacardWrite (s : State) : Host.Outcome State Fault Refusal := .next (s.onRun fun c => c.placardWrite)

end Sys2Proof.Machine
end

