-- ==== Sys2Proof/Machine/Debug.lean ====
section
/-! DEFINITION. The debug port, OTP programs and transitions, and register accesses without a row of their own. -/

namespace Sys2Proof.Machine

open Sys2Proof

/-- DEBUG_ID (13 R590). -/
def execDebugId (crcOk : Bool) (s : State) : Host.Outcome State Fault Refusal := .next (s.onRun fun c => c.debugId crcOk)

/-- DEBUG_RD (01 R740, 13 R590). -/
def execDebugRd (addr : Word) (len : Nat) (crcOk parity : Bool) (s : State) : Host.Outcome State Fault Refusal := .next (s.onRun fun c => c.debugRd addr len crcOk parity s.dev.cur)

/-- DEBUG_WR (01 R740, 13 R590). -/
def execDebugWr (addr : Word) (data : Bytes) (crcOk parity : Bool) (s : State) : Host.Outcome State Fault Refusal := .next (s.onRun fun c => c.debugWr addr data crcOk parity s.dev.cur)

/-- DEBUG_PORT_IDLE (13 R588): an answer under way is given up. -/
def execDebugPortIdle (s : State) : Host.Outcome State Fault Refusal := .next (s.onRun fun c => c.modDbg fun d => { d with resp := [] })

/-- CHALLENGE (13 R583): DBG_CMD 0x01. -/
def execChallenge (i : Init) (s : State) : Host.Outcome State Fault Refusal := .next (s.onRun fun c => if i = .debug ∧ c.debugMay true 0x40011001 1 then c.dbgCommand 1 else c)

/-- PRESENT_LOAN (13 R579): DBG_CMD 0x02. -/
def execPresentLoan (i : Init) (s : State) : Host.Outcome State Fault Refusal := .next (s.onRun fun c => if i = .debug ∧ c.debugMay true 0x40011001 2 then c.dbgCommand 2 else c)

/-- OTP_PROGRAM (13 R560): DBG_CMD 0x03. -/
def execOtpProgram (i : Init) (s : State) : Host.Outcome State Fault Refusal := .next (s.onRun fun c => if i = .debug ∧ c.debugMay true 0x40011001 3 then c.dbgCommand 3 else c)

/-- OTP_PROGRAM_DONE (13 R561). -/
def execOtpProgramDone (verified : Bool) (sensing : Sensing) (s : State) : Host.Outcome State Fault Refusal := .next (s.onRun fun c => c.otpDone verified sensing)

/-- TRANSITION (13 R571): DBG_CMD 0x04. -/
def execTransition (i : Init) (s : State) : Host.Outcome State Fault Refusal := .next (s.onRun fun c => if i = .debug ∧ c.debugMay true 0x40011001 4 then c.dbgCommand 4 else c)

/-- TRANSITION_DONE (13 R572). -/
def execTransitionDone (ok1 ok2 : Bool) (sensing : Sensing) (s : State) : Host.Outcome State Fault Refusal := .next (s.onRun fun c => c.transDone ok1 ok2 sensing)

/-- HALT (13 R592): DBG_CCTRL 0x01. -/
def execHalt (i : Init) (s : State) : Host.Outcome State Fault Refusal := .next (s.onRun fun c => if i = .debug ∧ c.debugMay true 0x40011030 1 then c.coreControl 1 else c)

/-- RESUME (13 R592): DBG_CCTRL 0x02. -/
def execResume (i : Init) (s : State) : Host.Outcome State Fault Refusal := .next (s.onRun fun c => if i = .debug ∧ c.debugMay true 0x40011030 2 then c.coreControl 2 else c)

/-- STEP (13 R592): DBG_CCTRL 0x03. -/
def execStep (i : Init) (s : State) : Host.Outcome State Fault Refusal := .next (s.onRun fun c => if i = .debug ∧ c.debugMay true 0x40011030 3 then c.coreControl 3 else c)

/-- DBG_CAT_READ (07 R300): DBG_KCMD 0x01. -/
def execDbgCatRead (i : Init) (s : State) : Host.Outcome State Fault Refusal := .next (s.onRun fun c => if i = .debug ∧ c.debugMay true 0x40011050 1 then c.dbgCatCommand 1 else c)

/-- DBG_CAT_WRITE (07 R300): DBG_KCMD 0x02. -/
def execDbgCatWrite (i : Init) (s : State) : Host.Outcome State Fault Refusal := .next (s.onRun fun c => if i = .debug ∧ c.debugMay true 0x40011050 2 then c.dbgCatCommand 2 else c)

/-- LATCH_READ (01 R35). -/
def execLatchRead (i : Init) (addr : Word) (s : State) : Host.Outcome State Fault Refusal := .next (s.onRun fun c => c.latchRead i addr.toNat s.dev.cur)

/-- REGISTER_WRITE (01 R38). -/
def execRegisterWrite (i : Init) (addr : Word) (value : Byte) (s : State) : Host.Outcome State Fault Refusal := .next (s.onRun fun c => c.registerWrite i addr.toNat value s.dev.cur)

end Sys2Proof.Machine
end

