-- ==== Sys2Proof/Machine/Host.lean ====
section
/-! DEFINITION. The host port. -/

namespace Sys2Proof.Machine

open Sys2Proof

/-- STATUS (08 R378). -/
def execStatus (a1 a2 a3 : Byte) (payload : Bytes) (s : State) : Host.Outcome State Fault Refusal := .next (s.onRun fun c => c.hostFrame cmdStatus a1 a2 a3 payload Chip.hostStatus)

/-- CAT_READ (08 R368). -/
def execCatRead (a1 a2 a3 : Byte) (payload : Bytes) (s : State) : Host.Outcome State Fault Refusal := .next (s.onRun fun c => c.hostFrame cmdCatRead a1 a2 a3 payload fun c => c.request .host false (leNat [a1, a2]) a3.toNat [] .host)

/-- CAT_WRITE (08 R368). -/
def execCatWrite (a1 a2 a3 : Byte) (payload : Bytes) (s : State) : Host.Outcome State Fault Refusal := .next (s.onRun fun c => c.hostFrame cmdCatWrite a1 a2 a3 payload fun c => c.request .host true (leNat [a1, a2]) a3.toNat payload .host)

/-- REC_READ (08 R371). -/
def execRecRead (a1 a2 a3 : Byte) (payload : Bytes) (s : State) : Host.Outcome State Fault Refusal := .next (s.onRun fun c => c.hostFrame cmdRecRead a1 a2 a3 payload fun c => c.hostRecRead a1.toNat (leNat payload))

/-- REC_STATUS (08 R367). -/
def execRecStatus (a1 a2 a3 : Byte) (payload : Bytes) (s : State) : Host.Outcome State Fault Refusal := .next (s.onRun fun c => c.hostFrame cmdRecStatus a1 a2 a3 payload Chip.hostRecStatus)

/-- TOD_SET (08 R369). -/
def execTodSet (a1 a2 a3 : Byte) (payload : Bytes) (s : State) : Host.Outcome State Fault Refusal := .next (s.onRun fun c => c.hostFrame cmdTodSet a1 a2 a3 payload fun c => c.hostTodSet (BitVec.ofNat 64 (leNat payload)))

/-- LOAN with A1 = 1 (13 R586). -/
def execLoanGetChallenge (a1 a2 a3 : Byte) (payload : Bytes) (s : State) : Host.Outcome State Fault Refusal := .next (s.onRun fun c => c.hostFrame cmdLoan a1 a2 a3 payload fun c => c.hostLoan a1 payload)

/-- LOAN with A1 = 2 (13 R586). -/
def execLoanPresent (a1 a2 a3 : Byte) (payload : Bytes) (s : State) : Host.Outcome State Fault Refusal := .next (s.onRun fun c => c.hostFrame cmdLoan a1 a2 a3 payload fun c => c.hostLoan a1 payload)

/-- IMAGE_BLOCK (11 R497). -/
def execImageBlock (a1 a2 a3 : Byte) (payload : Bytes) (s : State) : Host.Outcome State Fault Refusal := .next (s.onRun fun c => c.hostFrame cmdImageBlock a1 a2 a3 payload fun c => c.takeDeferred (.image (leNat [a1, a2, a3]) payload))

/-- RESP_FETCH (08 R363). -/
def execRespFetch (a1 a2 a3 : Byte) (crcOk : Bool) (clocks : Nat) (s : State) : Host.Outcome State Fault Refusal := .next (s.onRun fun c => c.respFetch a1 a2 a3 crcOk clocks)

/-- DEFERRED_COMPLETE (08 R360). -/
def execDeferredComplete (s : State) : Host.Outcome State Fault Refusal := .next (s.onRun fun c => c.deferredComplete)

/-- HCS_N_FALL (08 R376). -/
def execHcsNFall (s : State) : Host.Outcome State Fault Refusal := .next (s.onRun fun c => c.hcsFall)

/-- ATTENTION_PULSE (08 R375). -/
def execAttentionPulse (s : State) : Host.Outcome State Fault Refusal := .next (s.onRun fun c => c.attentionPulse)

/-- ATTENTION_PULSE_END (08 R375). -/
def execAttentionPulseEnd (s : State) : Host.Outcome State Fault Refusal := .next (s.onRun fun c => c.attentionEnd)

/-- FAILED_FRAME (08 R354). -/
def execFailedFrame (wholeBytes : Bool) (bytes : Bytes) (s : State) : Host.Outcome State Fault Refusal := .next (s.onRun fun c => c.failedFrame wholeBytes bytes)

end Sys2Proof.Machine
end

