-- ==== Sys2Proof/Machine/AluOps.lean ====
section
/-! DEFINITION. Issue of instructions that act on their core alone. -/

namespace Sys2Proof.Machine

open Sys2Proof

/-- A one-word or two-word instruction whose effect is on its core alone. -/
def State.alu (w : CoreId) (words : Nat) (f : Core → Core) (s : State) : State :=
  s.issue w words false fun d k => .done d (f k) .seq 1

/-- The same for an encoding that may be illegal (15 R641). -/
def State.aluIf (w : CoreId) (words : Nat) (legal : Bool) (f : Core → Core) (s : State) : State :=
  s.issue w words false fun d k => if legal then .done d (f k) .seq 1 else .fault illegalFault d k

end Sys2Proof.Machine
end

