-- ==== Sys2Proof/Machine/JarleyByte.lean ====
section
/-! DEFINITION. Jarley: byte ALU on registers (15 R648, R649). -/

namespace Sys2Proof.Machine

open Sys2Proof

/-- MOV (15 R648). -/
def execMov (c : CoreId) (d s : Fin 16) (st : State) : Host.Outcome State Fault Refusal :=
  .next (st.alu c 1 fun k => k.fly (k.landByte 2 d (k.byte s)))

/-- ADD (15 R647, R648). -/
def execAdd (c : CoreId) (d s : Fin 16) (st : State) : Host.Outcome State Fault Refusal :=
  .next (st.alu c 1 fun k => k.aluByte d (aluAdd (k.byte d) (k.byte s) false) true)

/-- ADC (15 R647, R648). -/
def execAdc (c : CoreId) (d s : Fin 16) (st : State) : Host.Outcome State Fault Refusal :=
  .next (st.alu c 1 fun k => k.aluByte d (aluAdd (k.byte d) (k.byte s) (flagC k.st)) true)

/-- SUB (15 R647, R648). -/
def execSub (c : CoreId) (d s : Fin 16) (st : State) : Host.Outcome State Fault Refusal :=
  .next (st.alu c 1 fun k => k.aluByte d (aluSub (k.byte d) (k.byte s) false) true)

/-- SBC (15 R647, R648). -/
def execSbc (c : CoreId) (d s : Fin 16) (st : State) : Host.Outcome State Fault Refusal :=
  .next (st.alu c 1 fun k => k.aluByte d (aluSub (k.byte d) (k.byte s) (flagC k.st)) true)

/-- AND (15 R647, R648). -/
def execAnd (c : CoreId) (d s : Fin 16) (st : State) : Host.Outcome State Fault Refusal :=
  .next (st.alu c 1 fun k => k.aluByte d (aluLogic (k.byte d &&& k.byte s)) true)

/-- OR (15 R647, R648). -/
def execOr (c : CoreId) (d s : Fin 16) (st : State) : Host.Outcome State Fault Refusal :=
  .next (st.alu c 1 fun k => k.aluByte d (aluLogic (k.byte d ||| k.byte s)) true)

/-- XOR (15 R647, R648). -/
def execXor (c : CoreId) (d s : Fin 16) (st : State) : Host.Outcome State Fault Refusal :=
  .next (st.alu c 1 fun k => k.aluByte d (aluLogic (k.byte d ^^^ k.byte s)) true)

/-- CMP (15 R647, R648). -/
def execCmp (c : CoreId) (d s : Fin 16) (st : State) : Host.Outcome State Fault Refusal :=
  .next (st.alu c 1 fun k => k.aluByte d (aluSub (k.byte d) (k.byte s) false) false)

/-- TST (15 R647, R648). -/
def execTst (c : CoreId) (d s : Fin 16) (st : State) : Host.Outcome State Fault Refusal :=
  .next (st.alu c 1 fun k => k.aluByte d (aluLogic (k.byte d &&& k.byte s)) false)

/-- SHL (15 R649): by bits 2:0 of bs. -/
def execShl (c : CoreId) (d s : Fin 16) (st : State) : Host.Outcome State Fault Refusal :=
  .next (st.alu c 1 fun k => k.aluByte d (aluShl (k.byte d) ((k.byte s).toNat % 8)) true)

/-- SHR (15 R649): by bits 2:0 of bs. -/
def execShr (c : CoreId) (d s : Fin 16) (st : State) : Host.Outcome State Fault Refusal :=
  .next (st.alu c 1 fun k => k.aluByte d (aluShr (k.byte d) ((k.byte s).toNat % 8)) true)

/-- ASR (15 R649): by bits 2:0 of bs. -/
def execAsr (c : CoreId) (d s : Fin 16) (st : State) : Host.Outcome State Fault Refusal :=
  .next (st.alu c 1 fun k => k.aluByte d (aluAsr (k.byte d) ((k.byte s).toNat % 8)) true)

/-- ROL (15 R649): by bits 2:0 of bs. -/
def execRol (c : CoreId) (d s : Fin 16) (st : State) : Host.Outcome State Fault Refusal :=
  .next (st.alu c 1 fun k => k.aluByte d (aluRol (k.byte d) ((k.byte s).toNat % 8)) true)

/-- ROR (15 R649): by bits 2:0 of bs. -/
def execRor (c : CoreId) (d s : Fin 16) (st : State) : Host.Outcome State Fault Refusal :=
  .next (st.alu c 1 fun k => k.aluByte d (aluRor (k.byte d) ((k.byte s).toNat % 8)) true)

end Sys2Proof.Machine
end

