-- ==== Sys2Proof/Machine/JarleyFlow.lean ====
section
/-! DEFINITION. Jarley: branches, jumps, calls and returns (14 R615 to R623; 15 R654 to R656). -/

namespace Sys2Proof.Machine

open Sys2Proof

/-- CALL and CALLR push the address after the second delay slot, and ST as it stands (14 R616, R619). -/
def callBody (words : Nat) (wide : Fin 3) (target : Half) (d : Device) (k : Core) : Issued :=
  match Device.pushed { pc := k.pc + BitVec.ofNat 16 (2 * words + 4 + 2 * wide.val), st := k.st, exc := false } k with
  | some k => .done d k (.delayed (some target)) 1
  | none => .fault overflowFault d k

/-- Bcc (15 R654): displacement in words from the branch's address. -/
def bccBody (cond : Fin 16) (disp : Byte) (d : Device) (k : Core) : Issued :=
  if cond.val = 15 then .fault illegalFault d k
  else
    let taken := condHolds cond.val (flagC k.st) (flagZ k.st) (flagN k.st) (flagV k.st)
    .done d k (.delayed (if taken then some (k.pc + disp.signExtend 16 + disp.signExtend 16) else none)) 1

/-- RET (14 R617, R618). -/
def retBody (d : Device) (k : Core) : Issued :=
  match k.stack.getLast? with
  | none => .fault underflowFault d k
  | some e => if e.exc then .fault kindFault d k else .done d { k with stack := k.stack.dropLast } (.delayed (some e.pc)) 1

/-- RETX restores an entry: producers complete first, and the fetch side takes its copy (14 R607, R623). -/
def restore (e : StackEntry) (d : Device) (k : Core) : Issued :=
  .done d { k.complete with pc := e.pc, st := e.st, fwt := k.complete.wt, longMid := false } .here (1 + min 2 k.waitSlots)

/-- RETX (14 R617, R618). -/
def retxBody (d : Device) (k : Core) : Issued :=
  match k.alarm with
  | some e => restore e d { k with alarm := none }
  | none =>
    match k.stack.getLast? with
    | none => .fault underflowFault d k
    | some e => if e.exc then restore e d { k with stack := k.stack.dropLast } else .fault kindFault d k

/-- BCC (15 R654). -/
def execBcc (c : CoreId) (cond : Fin 16) (disp : Byte) (st : State) : Host.Outcome State Fault Refusal :=
  .next (st.issue c 1 true (bccBody cond disp))

/-- JMP (15 R655, R656). -/
def execJmp (c : CoreId) (addr : Half) (st : State) : Host.Outcome State Fault Refusal :=
  .next (st.issue c 2 true fun d k =>
    if addr.getLsbD 0 then .fault illegalFault d k else .done d k (.delayed (some addr)) 1)

/-- CALL (14 R616; 15 R655, R656). -/
def execCall (c : CoreId) (addr : Half) (wide : Fin 3) (st : State) : Host.Outcome State Fault Refusal :=
  .next (st.issue c 2 true fun d k => if addr.getLsbD 0 then .fault illegalFault d k else callBody 2 wide addr d k)

/-- JR (15 R655, R656). -/
def execJr (c : CoreId) (p : Fin 8) (st : State) : Host.Outcome State Fault Refusal :=
  .next (st.issue c 1 true fun d k =>
    if (k.pair p).getLsbD 0 then .fault (alignFault (k.pair p).toNat) d k else .done d k (.delayed (some (k.pair p))) 1)

/-- CALLR (14 R616; 15 R655, R656). -/
def execCallr (c : CoreId) (p : Fin 8) (wide : Fin 3) (st : State) : Host.Outcome State Fault Refusal :=
  .next (st.issue c 1 true fun d k =>
    if (k.pair p).getLsbD 0 then .fault (alignFault (k.pair p).toNat) d k else callBody 1 wide (k.pair p) d k)

/-- RET (14 R617, R618). -/
def execRet (c : CoreId) (st : State) : Host.Outcome State Fault Refusal :=
  .next (st.issue c 1 true retBody)

/-- RETX (14 R617; 16 R684). -/
def execRetx (c : CoreId) (st : State) : Host.Outcome State Fault Refusal :=
  .next (st.issue c 1 true retxBody)

end Sys2Proof.Machine
end

