-- ==== Sys2Proof/Machine/JarleyImm.lean ====
section
/-! DEFINITION. Jarley: immediates and shifts by immediate (15 R652, Table 15-4). -/

namespace Sys2Proof.Machine

open Sys2Proof

/-- MOVI (15 R652). -/
def execMovi (c : CoreId) (d : Fin 16) (imm : Byte) (st : State) : Host.Outcome State Fault Refusal :=
  .next (st.alu c 1 fun k => k.fly (k.landByte 2 d imm))

/-- ADDI (15 R652). -/
def execAddi (c : CoreId) (d : Fin 16) (imm : Byte) (st : State) : Host.Outcome State Fault Refusal :=
  .next (st.alu c 1 fun k => k.aluByte d (aluAdd (k.byte d) imm false) true)

/-- CMPI (15 R652). -/
def execCmpi (c : CoreId) (d : Fin 16) (imm : Byte) (st : State) : Host.Outcome State Fault Refusal :=
  .next (st.alu c 1 fun k => k.aluByte d (aluSub (k.byte d) imm false) false)

/-- SUBI (15 R652). -/
def execSubi (c : CoreId) (d : Fin 16) (imm : Byte) (st : State) : Host.Outcome State Fault Refusal :=
  .next (st.alu c 2 fun k => k.aluByte d (aluSub (k.byte d) imm false) true)

/-- ANDI (15 R652). -/
def execAndi (c : CoreId) (d : Fin 16) (imm : Byte) (st : State) : Host.Outcome State Fault Refusal :=
  .next (st.alu c 2 fun k => k.aluByte d (aluLogic (k.byte d &&& imm)) true)

/-- ORI (15 R652). -/
def execOri (c : CoreId) (d : Fin 16) (imm : Byte) (st : State) : Host.Outcome State Fault Refusal :=
  .next (st.alu c 2 fun k => k.aluByte d (aluLogic (k.byte d ||| imm)) true)

/-- XORI (15 R652). -/
def execXori (c : CoreId) (d : Fin 16) (imm : Byte) (st : State) : Host.Outcome State Fault Refusal :=
  .next (st.alu c 2 fun k => k.aluByte d (aluLogic (k.byte d ^^^ imm)) true)

/-- TSTI (15 R652). -/
def execTsti (c : CoreId) (d : Fin 16) (imm : Byte) (st : State) : Host.Outcome State Fault Refusal :=
  .next (st.alu c 2 fun k => k.aluByte d (aluLogic (k.byte d &&& imm)) false)

/-- ADCI (15 R652). -/
def execAdci (c : CoreId) (d : Fin 16) (imm : Byte) (st : State) : Host.Outcome State Fault Refusal :=
  .next (st.alu c 2 fun k => k.aluByte d (aluAdd (k.byte d) imm (flagC k.st)) true)

/-- SBCI (15 R652). -/
def execSbci (c : CoreId) (d : Fin 16) (imm : Byte) (st : State) : Host.Outcome State Fault Refusal :=
  .next (st.alu c 2 fun k => k.aluByte d (aluSub (k.byte d) imm (flagC k.st)) true)

/-- MOVWI (15 R652). -/
def execMovwi (c : CoreId) (d : Fin 8) (imm : Half) (st : State) : Host.Outcome State Fault Refusal :=
  .next (st.alu c 2 fun k => k.fly (k.landPair 2 d imm))

/-- ADDWI (15 R652). -/
def execAddwi (c : CoreId) (d : Fin 8) (imm : Half) (st : State) : Host.Outcome State Fault Refusal :=
  .next (st.alu c 2 fun k => k.aluPair d (aluAdd (k.pair d) imm false) true)

/-- SUBWI (15 R652). -/
def execSubwi (c : CoreId) (d : Fin 8) (imm : Half) (st : State) : Host.Outcome State Fault Refusal :=
  .next (st.alu c 2 fun k => k.aluPair d (aluSub (k.pair d) imm false) true)

/-- CMPWI (15 R652). -/
def execCmpwi (c : CoreId) (d : Fin 8) (imm : Half) (st : State) : Host.Outcome State Fault Refusal :=
  .next (st.alu c 2 fun k => k.aluPair d (aluSub (k.pair d) imm false) false)

/-- ANDWI (15 R652). -/
def execAndwi (c : CoreId) (d : Fin 8) (imm : Half) (st : State) : Host.Outcome State Fault Refusal :=
  .next (st.alu c 2 fun k => k.aluPair d (aluLogic (k.pair d &&& imm)) true)

/-- ORWI (15 R652). -/
def execOrwi (c : CoreId) (d : Fin 8) (imm : Half) (st : State) : Host.Outcome State Fault Refusal :=
  .next (st.alu c 2 fun k => k.aluPair d (aluLogic (k.pair d ||| imm)) true)

/-- XORWI (15 R652). -/
def execXorwi (c : CoreId) (d : Fin 8) (imm : Half) (st : State) : Host.Outcome State Fault Refusal :=
  .next (st.alu c 2 fun k => k.aluPair d (aluLogic (k.pair d ^^^ imm)) true)

/-- TSTWI (15 R652). -/
def execTstwi (c : CoreId) (d : Fin 8) (imm : Half) (st : State) : Host.Outcome State Fault Refusal :=
  .next (st.alu c 2 fun k => k.aluPair d (aluLogic (k.pair d &&& imm)) false)

/-- SHLI (15 R652). -/
def execShli (c : CoreId) (d : Fin 16) (n : Fin 8) (st : State) : Host.Outcome State Fault Refusal :=
  .next (st.alu c 1 fun k => k.aluByte d (aluShl (k.byte d) n.val) true)

/-- SHRI (15 R652). -/
def execShri (c : CoreId) (d : Fin 16) (n : Fin 8) (st : State) : Host.Outcome State Fault Refusal :=
  .next (st.alu c 1 fun k => k.aluByte d (aluShr (k.byte d) n.val) true)

/-- ASRI (15 R652). -/
def execAsri (c : CoreId) (d : Fin 16) (n : Fin 8) (st : State) : Host.Outcome State Fault Refusal :=
  .next (st.alu c 1 fun k => k.aluByte d (aluAsr (k.byte d) n.val) true)

/-- ROLI (15 R652). -/
def execRoli (c : CoreId) (d : Fin 16) (n : Fin 8) (st : State) : Host.Outcome State Fault Refusal :=
  .next (st.alu c 1 fun k => k.aluByte d (aluRol (k.byte d) n.val) true)

/-- RORI (15 R652). -/
def execRori (c : CoreId) (d : Fin 16) (n : Fin 8) (st : State) : Host.Outcome State Fault Refusal :=
  .next (st.alu c 1 fun k => k.aluByte d (aluRor (k.byte d) n.val) true)

/-- SHLWI (15 R652). -/
def execShlwi (c : CoreId) (d : Fin 8) (n : Fin 16) (st : State) : Host.Outcome State Fault Refusal :=
  .next (st.alu c 1 fun k => k.aluPair d (aluShl (k.pair d) n.val) true)

/-- SHRWI (15 R652). -/
def execShrwi (c : CoreId) (d : Fin 8) (n : Fin 16) (st : State) : Host.Outcome State Fault Refusal :=
  .next (st.alu c 1 fun k => k.aluPair d (aluShr (k.pair d) n.val) true)

/-- ASRWI (15 R652). -/
def execAsrwi (c : CoreId) (d : Fin 8) (n : Fin 16) (st : State) : Host.Outcome State Fault Refusal :=
  .next (st.alu c 1 fun k => k.aluPair d (aluAsr (k.pair d) n.val) true)

/-- ROLWI (15 R652). -/
def execRolwi (c : CoreId) (d : Fin 8) (n : Fin 16) (st : State) : Host.Outcome State Fault Refusal :=
  .next (st.alu c 1 fun k => k.aluPair d (aluRol (k.pair d) n.val) true)

/-- RORWI (15 R652). -/
def execRorwi (c : CoreId) (d : Fin 8) (n : Fin 16) (st : State) : Host.Outcome State Fault Refusal :=
  .next (st.alu c 1 fun k => k.aluPair d (aluRor (k.pair d) n.val) true)

end Sys2Proof.Machine
end

