-- ==== Sys2Proof/Machine/JarleyMem.lean ====
section
/-! DEFINITION. Jarley: loads, stores and the long instructions (15 R653, R661 to R672). -/

namespace Sys2Proof.Machine

open Sys2Proof

/-- LD (15 R653). -/
def execLd (c : CoreId) (z : Size) (r : Fin 16) (p : Fin 8) (post parity : Bool) (st : State) : Host.Outcome State Fault Refusal :=
  .next (st.issue c 1 false (ldBody c z r p post parity))

/-- ST (15 R653). -/
def execSt (c : CoreId) (z : Size) (r : Fin 16) (p : Fin 8) (post : Bool) (st : State) : Host.Outcome State Fault Refusal :=
  .next (st.issue c 1 false (stBody z r p post))

/-- LDX (15 R653). -/
def execLdx (c : CoreId) (z : Size) (r : Fin 16) (p : Fin 8) (off : Half) (parity : Bool) (st : State) : Host.Outcome State Fault Refusal :=
  .next (st.issue c 2 false (ldxBody c z r p off parity))

/-- STX (15 R653). -/
def execStx (c : CoreId) (z : Size) (r : Fin 16) (p : Fin 8) (off : Half) (st : State) : Host.Outcome State Fault Refusal :=
  .next (st.issue c 2 false (stxBody z r p off))

/-- LDA (15 R653). -/
def execLda (c : CoreId) (z : Size) (r : Fin 16) (addr : Half) (parity : Bool) (st : State) : Host.Outcome State Fault Refusal :=
  .next (st.issue c 2 false (ldaBody c z r addr parity))

/-- STA (15 R653). -/
def execSta (c : CoreId) (z : Size) (r : Fin 16) (addr : Half) (st : State) : Host.Outcome State Fault Refusal :=
  .next (st.issue c 2 false (staBody z r addr))

/-- BMOV (15 R661). -/
def execBmov (c : CoreId) (more : Nat) (parity : Bool) (st : State) : Host.Outcome State Fault Refusal :=
  .next (st.issue c 1 true (runLong .bmov c more parity))

/-- BFIL (15 R661). -/
def execBfil (c : CoreId) (more : Nat) (st : State) : Host.Outcome State Fault Refusal :=
  .next (st.issue c 1 true (runLong .bfil c more false))

/-- BCMP (15 R661). -/
def execBcmp (c : CoreId) (more : Nat) (parity : Bool) (st : State) : Host.Outcome State Fault Refusal :=
  .next (st.issue c 1 true (runLong .bcmp c more parity))

/-- BCRC (15 R661). -/
def execBcrc (c : CoreId) (more : Nat) (parity : Bool) (st : State) : Host.Outcome State Fault Refusal :=
  .next (st.issue c 1 true (runLong .bcrc c more parity))

/-- BMAC (15 R661). -/
def execBmac (c : CoreId) (more : Nat) (parity : Bool) (st : State) : Host.Outcome State Fault Refusal :=
  .next (st.issue c 1 true (runLong .bmac c more parity))

/-- BXOR (15 R661). -/
def execBxor (c : CoreId) (more : Nat) (parity : Bool) (st : State) : Host.Outcome State Fault Refusal :=
  .next (st.issue c 1 true (runLong .bxor c more parity))

end Sys2Proof.Machine
end

