-- ==== Sys2Proof/Machine/JarleyPair.lean ====
section
/-! DEFINITION. Jarley: pair ALU on registers, and the multiplications (15 R648 to R651). -/

namespace Sys2Proof.Machine

open Sys2Proof

/-- MOVW (15 R648). -/
def execMovw (c : CoreId) (d s : Fin 8) (st : State) : Host.Outcome State Fault Refusal :=
  .next (st.alu c 1 fun k => k.fly (k.landPair 2 d (k.pair s)))

/-- ADDW (15 R647, R648). -/
def execAddw (c : CoreId) (d s : Fin 8) (st : State) : Host.Outcome State Fault Refusal :=
  .next (st.alu c 1 fun k => k.aluPair d (aluAdd (k.pair d) (k.pair s) false) true)

/-- ADCW (15 R647, R648). -/
def execAdcw (c : CoreId) (d s : Fin 8) (st : State) : Host.Outcome State Fault Refusal :=
  .next (st.alu c 1 fun k => k.aluPair d (aluAdd (k.pair d) (k.pair s) (flagC k.st)) true)

/-- SUBW (15 R647, R648). -/
def execSubw (c : CoreId) (d s : Fin 8) (st : State) : Host.Outcome State Fault Refusal :=
  .next (st.alu c 1 fun k => k.aluPair d (aluSub (k.pair d) (k.pair s) false) true)

/-- SBCW (15 R647, R648). -/
def execSbcw (c : CoreId) (d s : Fin 8) (st : State) : Host.Outcome State Fault Refusal :=
  .next (st.alu c 1 fun k => k.aluPair d (aluSub (k.pair d) (k.pair s) (flagC k.st)) true)

/-- ANDW (15 R647, R648). -/
def execAndw (c : CoreId) (d s : Fin 8) (st : State) : Host.Outcome State Fault Refusal :=
  .next (st.alu c 1 fun k => k.aluPair d (aluLogic (k.pair d &&& k.pair s)) true)

/-- ORW (15 R647, R648). -/
def execOrw (c : CoreId) (d s : Fin 8) (st : State) : Host.Outcome State Fault Refusal :=
  .next (st.alu c 1 fun k => k.aluPair d (aluLogic (k.pair d ||| k.pair s)) true)

/-- XORW (15 R647, R648). -/
def execXorw (c : CoreId) (d s : Fin 8) (st : State) : Host.Outcome State Fault Refusal :=
  .next (st.alu c 1 fun k => k.aluPair d (aluLogic (k.pair d ^^^ k.pair s)) true)

/-- CMPW (15 R647, R648). -/
def execCmpw (c : CoreId) (d s : Fin 8) (st : State) : Host.Outcome State Fault Refusal :=
  .next (st.alu c 1 fun k => k.aluPair d (aluSub (k.pair d) (k.pair s) false) false)

/-- TSTW (15 R647, R648). -/
def execTstw (c : CoreId) (d s : Fin 8) (st : State) : Host.Outcome State Fault Refusal :=
  .next (st.alu c 1 fun k => k.aluPair d (aluLogic (k.pair d &&& k.pair s)) false)

/-- SHLW (15 R649): by bits 3:0 of b(2s). -/
def execShlw (c : CoreId) (d s : Fin 8) (st : State) : Host.Outcome State Fault Refusal :=
  .next (st.alu c 1 fun k => k.aluPair d (aluShl (k.pair d) ((k.pair s).toNat % 16)) true)

/-- SHRW (15 R649): by bits 3:0 of b(2s). -/
def execShrw (c : CoreId) (d s : Fin 8) (st : State) : Host.Outcome State Fault Refusal :=
  .next (st.alu c 1 fun k => k.aluPair d (aluShr (k.pair d) ((k.pair s).toNat % 16)) true)

/-- ASRW (15 R649): by bits 3:0 of b(2s). -/
def execAsrw (c : CoreId) (d s : Fin 8) (st : State) : Host.Outcome State Fault Refusal :=
  .next (st.alu c 1 fun k => k.aluPair d (aluAsr (k.pair d) ((k.pair s).toNat % 16)) true)

/-- MULW (15 R648, R650): unsigned, into an even pair's quad, distance 3. -/
def execMulw (c : CoreId) (d s : Fin 8) (st : State) : Host.Outcome State Fault Refusal :=
  .next (st.aluIf c 1 (d.val % 2 == 0) fun k =>
    k.fly (k.landQuad 3 d ((k.pair d).setWidth 32 * (k.pair s).setWidth 32)))

/-- SXT (15 R648): the high byte from bit 7 of the low one. -/
def execSxt (c : CoreId) (d s : Fin 8) (st : State) : Host.Outcome State Fault Refusal :=
  .next (st.aluIf c 1 (s.val == 0) fun k =>
    k.fly (k.landByte 2 (hiReg d) (if (k.byte (loReg d)).msb then 0xFF else 0)))

/-- ZXT (15 R648). -/
def execZxt (c : CoreId) (d s : Fin 8) (st : State) : Host.Outcome State Fault Refusal :=
  .next (st.aluIf c 1 (s.val == 0) fun k => k.fly (k.landByte 2 (hiReg d) 0))

/-- MUL (15 R651): distance 3. -/
def execMul (c : CoreId) (signed : Bool) (d : Fin 8) (x y : Fin 16) (st : State) : Host.Outcome State Fault Refusal :=
  .next (st.alu c 1 fun k =>
    k.fly (k.landPair 3 d (if signed then (k.byte x).signExtend 16 * (k.byte y).signExtend 16
      else (k.byte x).setWidth 16 * (k.byte y).setWidth 16)))

end Sys2Proof.Machine
end

