-- ==== Sys2Proof/Machine/JarleySys.lean ====
section
/-! DEFINITION. Jarley: system instructions, freezes, interrupts and the write buffer (15 R657 to R660; 16 R674 to R691). -/

namespace Sys2Proof.Machine

open Sys2Proof

/-- GETST reads ST with its reserved bits 0; PUTST writes the flags at distance 2 and ML at distance 4 (15 R657, R658). -/
def putst (v : Half) (k : Core) : Core :=
  k.fly [k.land 2 .flagC (Core.bitWord (v.getLsbD 0)), k.land 2 .flagZ (Core.bitWord (v.getLsbD 1)),
    k.land 2 .flagN (Core.bitWord (v.getLsbD 2)), k.land 2 .flagV (Core.bitWord (v.getLsbD 3)),
    k.land 4 .ml (BitVec.ofNat 32 (mlOf v))]

/-- FENCE drains the buffer (16 R691). -/
def fenceBody (w : CoreId) (parity : List Bool) (d : Device) (k : Core) : Issued :=
  let n := if k.wbuf.isEmpty then 0 else Config.waitCycles d.chip.clk.free
  let d := ((d.setCore w k).drainAll w parity).modChip Chip.spend
  .done d (d.core w) .seq (1 + n)

/-- NOP (15 Table 15-9). -/
def execNop (c : CoreId) (st : State) : Host.Outcome State Fault Refusal :=
  .next (st.alu c 1 id)

/-- WSYNC (14 R607, R608). -/
def execWsync (c : CoreId) (st : State) : Host.Outcome State Fault Refusal :=
  .next (st.issue c 1 true fun d k =>
    .done d { k.complete with fwt := k.complete.wt } .seq (1 + min 2 k.waitSlots))

/-- FENCE (16 R691); `parity`: whose drains' parity fails. -/
def execFence (c : CoreId) (parity : List Bool) (st : State) : Host.Outcome State Fault Refusal :=
  .next (st.issue c 1 false (fenceBody c parity))

/-- WAIT (15 R659, R660). -/
def execWait (c : CoreId) (st : State) : Host.Outcome State Fault Refusal :=
  .next (st.issue c 1 true fun d k => .done d { k with waiting := true } .seq 1)

/-- GETST (15 R657). -/
def execGetst (c : CoreId) (d : Fin 8) (st : State) : Host.Outcome State Fault Refusal :=
  .next (st.alu c 1 fun k => k.fly (k.landPair 2 d (k.st &&& 0x01FF)))

/-- PUTST (15 R658). -/
def execPutst (c : CoreId) (d : Fin 8) (st : State) : Host.Outcome State Fault Refusal :=
  .next (st.alu c 1 fun k => putst (k.pair d) k)

/-- MLSET (15 R657): distance 4. -/
def execMlset (c : CoreId) (n : Fin 8) (st : State) : Host.Outcome State Fault Refusal :=
  .next (st.alu c 1 fun k => k.fly [k.land 4 .ml (BitVec.ofNat 32 n.val)])

/-- FREEZE_END (14 R631). -/
def execFreezeEnd (c : CoreId) (cycles : Nat) (st : State) : Host.Outcome State Fault Refusal :=
  .next (st.onDevice (Device.thaw c cycles))

/-- INTERRUPT_ENTRY (16 R674, R680). -/
def execInterruptEntry (c : CoreId) (parity : Bool) (st : State) : Host.Outcome State Fault Refusal :=
  .next (st.onDevice (Device.interrupt c parity))

/-- BUFFER_DRAIN (16 R689). -/
def execBufferDrain (c : CoreId) (parity : Bool) (st : State) : Host.Outcome State Fault Refusal :=
  .next (st.onDevice fun d => if d.chip.clk.running then d.drainOne c parity else d)

/-- ILLEGAL_INSTRUCTION (15 R641). -/
def execIllegalInstruction (c : CoreId) (w1 w2 : Half) (st : State) : Host.Outcome State Fault Refusal :=
  .next (if legalWords w1.toNat w2.toNat then st else st.issue c 1 false fun d k => .fault illegalFault d k)

end Sys2Proof.Machine
end

