-- ==== Sys2Proof/Machine/Orders.lean ====
section
/-! DEFINITION. The order pipeline. -/

namespace Sys2Proof.Machine

open Sys2Proof

/-- ORDER (08 R368, 04 R187). -/
def execHostOrder (a1 a2 a3 : Byte) (msg : Bytes) (s : State) : Host.Outcome State Fault Refusal := .next (s.onRun fun c => c.hostFrame cmdOrder a1 a2 a3 msg fun c => c.request .host true 0x4200 1 msg .host)

/-- VERIFY (04 R164): the next message is judged, and its result goes back to its port. -/
def execVerify (s : State) : Host.Outcome State Fault Refusal := .next (s.onRun fun c => match c.verifyNext with
    | (some (m, r), c) => c.deliver m.reply true (.ok r)
    | (none, c) => c)

/-- RELEASE_INSTANT (04 R177). -/
def execReleaseInstant (s : State) : Host.Outcome State Fault Refusal := .next (s.onRun fun c => c.releaseInstant)

/-- PULSE_END (04 R179). -/
def execPulseEnd (s : State) : Host.Outcome State Fault Refusal := .next (s.onRun fun c => c.pulseEnd)

/-- CONFIRM_READBACK (04 R180). -/
def execConfirmReadback (pads : Byte) (s : State) : Host.Outcome State Fault Refusal := .next (s.onRun fun c => c.confirmReadback pads)

/-- ARM_N_LOW (04 R176). -/
def execArmNLow (s : State) : Host.Outcome State Fault Refusal := .next (s.onChip Chip.armLow)

/-- ARM_N_ARMED (04 R176). -/
def execArmNArmed (s : State) : Host.Outcome State Fault Refusal := .next (s.onRun fun c => c.armArmed)

/-- ARM_N_DISARM (04 R191). -/
def execArmNDisarm (highNs : Nat) (s : State) : Host.Outcome State Fault Refusal := .next (s.onChip (Chip.armDisarm highNs))

/-- LATCH_CLEAR (04 R181): 0xA5 written to object 0x4100+n.06. -/
def execLatchClear (port : Port) (co : Fin 8) (s : State) : Host.Outcome State Fault Refusal := .next (s.onRun fun c => c.objectWrite port (0x4100 + co.val) 6 [0xA5])

end Sys2Proof.Machine
end

