-- ==== Sys2Proof/Machine/Registrar.lean ====
section
/-! DEFINITION. The Registrar: sensors, alerts, the watchdog, the mailbox, the ledger and images. -/

namespace Sys2Proof.Machine

open Sys2Proof

/-- TEMPERATURE_SAMPLE (11 R471). -/
def execTemperatureSample (t1 t2 : Int) (s : State) : Host.Outcome State Fault Refusal := .next (s.onRun fun c => c.temperatureSample t1 t2)

/-- TEMPERATURE_DISAGREEMENT (11 R471). -/
def execTemperatureDisagreement (s : State) : Host.Outcome State Fault Refusal := .next (s.onRun fun c => c.temperatureDisagreement)

/-- EXTERNAL_SENSOR_POLL (11 R509). -/
def execExternalSensorPoll (r : SensorRead) (s : State) : Host.Outcome State Fault Refusal := .next (s.onRun fun c => c.externalSensorPoll r)

/-- SUPPLY_OUT_OF_RANGE (11 R471). -/
def execSupplyOutOfRange (rail : Fin 3) (mV : Nat) (s : State) : Host.Outcome State Fault Refusal := .next (s.onRun fun c => c.supplyOut rail mV)

/-- SUPPLY_BACK_IN_RANGE (11 R471). -/
def execSupplyBackInRange (rail : Fin 3) (mV : Nat) (s : State) : Host.Outcome State Fault Refusal := .next (s.onRun fun c => c.supplyBack rail mV)

/-- VCORE_GLITCH (11 R474). -/
def execVcoreGlitch (ns : Nat) (s : State) : Host.Outcome State Fault Refusal := .next (s.onRun fun c => c.vcoreGlitch ns)

/-- BI_BURST_WINDOW (11 R471). -/
def execBiBurstWindow (n : Fin 24) (s : State) : Host.Outcome State Fault Refusal := .next (s.onRun fun c => c.biBurst n)

/-- SHADOW_COMPARE (13 R555). -/
def execShadowCompare (sensing : Sensing) (s : State) : Host.Outcome State Fault Refusal := .next (s.onRun fun c => c.shadowCompare sensing)

/-- ALERT_CLEAR (11 R475): a write of object 0x8000.03. -/
def execAlertClear (port : Port) (bits : Byte) (s : State) : Host.Outcome State Fault Refusal := .next (s.onRun fun c => c.objectWrite port 0x8000 3 [bits])

/-- WATCHDOG_KICK (11 R479). -/
def execWatchdogKick (i : Init) (first second : Byte) (s : State) : Host.Outcome State Fault Refusal := .next (s.onRun fun c => c.wdKick i first second)

/-- WATCHDOG_EXPIRY (11 R481). -/
def execWatchdogExpiry (s : State) : Host.Outcome State Fault Refusal := .next (s.onRun fun c => c.wdTimeout)

/-- ANSWER_SEND (11 R505): a write of RMB_ANSEND. -/
def execAnswerSend (i : Init) (value : Byte) (s : State) : Host.Outcome State Fault Refusal := .next (s.onRun fun c => if i = .curator ∧ value = 1 then c.answerSend else c)

/-- LEDGER_PAGE_TIMEOUT (11 R488). -/
def execLedgerPageTimeout (s : State) : Host.Outcome State Fault Refusal := .next (s.onRun fun c => c.ledgerTimeout)

/-- LEDGER_HOUR (11 R490). -/
def execLedgerHour (s : State) : Host.Outcome State Fault Refusal := .next (s.onRun fun c => c.ledgerHour)

/-- OPEN_CURATOR_IMAGE (11 R494): control 1 of object 0x1F50.01. -/
def execOpenCuratorImage (port : Port) (s : State) : Host.Outcome State Fault Refusal := .next (s.onRun fun c => c.objectWrite port 0x1F50 1 [1])

/-- OPEN_REGISTRAR_IMAGE (11 R494): control 2 of object 0x1F50.01. -/
def execOpenRegistrarImage (port : Port) (s : State) : Host.Outcome State Fault Refusal := .next (s.onRun fun c => c.objectWrite port 0x1F50 1 [2])

/-- VERIFY_IMAGE (11 R499): control 3 of object 0x1F50.01. -/
def execVerifyImage (port : Port) (s : State) : Host.Outcome State Fault Refusal := .next (s.onRun fun c => c.objectWrite port 0x1F50 1 [3])

/-- ACTIVATE_AT_NEXT_START (11 R500): control 4 of object 0x1F50.01. -/
def execActivateAtNextStart (port : Port) (s : State) : Host.Outcome State Fault Refusal := .next (s.onRun fun c => c.objectWrite port 0x1F50 1 [4])

/-- ACTIVATE_NOW (11 R500): control 5 of object 0x1F50.01. -/
def execActivateNow (port : Port) (s : State) : Host.Outcome State Fault Refusal := .next (s.onRun fun c => c.objectWrite port 0x1F50 1 [5])

/-- ABORT_TRANSFER (11 R502): control 6 of object 0x1F50.01. -/
def execAbortTransfer (port : Port) (s : State) : Host.Outcome State Fault Refusal := .next (s.onRun fun c => c.objectWrite port 0x1F50 1 [6])

/-- ROLL_BACK_CURATOR (11 R501): control 7 of object 0x1F50.01. -/
def execRollBackCurator (port : Port) (s : State) : Host.Outcome State Fault Refusal := .next (s.onRun fun c => c.objectWrite port 0x1F50 1 [7])

/-- ROLL_BACK_REGISTRAR (11 R501): control 8 of object 0x1F50.01. -/
def execRollBackRegistrar (port : Port) (s : State) : Host.Outcome State Fault Refusal := .next (s.onRun fun c => c.objectWrite port 0x1F50 1 [8])

/-- BLOCK_DATA (11 R497): a write of object 0x1F50.03. -/
def execBlockData (port : Port) (data : Bytes) (s : State) : Host.Outcome State Fault Refusal := .next (s.onRun fun c => c.objectWrite port 0x1F50 3 data)

/-- IMAGE_TRANSFER_TIMEOUT (11 R498). -/
def execImageTransferTimeout (s : State) : Host.Outcome State Fault Refusal := .next (s.onRun fun c => c.imageTimeout)

end Sys2Proof.Machine
end

