-- ==== Sys2Proof/Machine/Resets.lean ====
section
/-! DEFINITION. Resets and supplies, and the reader field as a supply. -/

namespace Sys2Proof.Machine

open Sys2Proof

/-- POWER_GOOD (17 R718). -/
def execPowerGood (env : StartEnv) (s : State) : Host.Outcome State Fault Refusal := .next (s.onAll (Chip.powerGood env))

/-- RESET_N_ASSERTED (17 R719, R721). -/
def execResetNAsserted (lowNs : Nat) (s : State) : Host.Outcome State Fault Refusal := .next (s.onAll (Chip.resetAsserted lowNs))

/-- DEFERRED_RESET (17 R721). -/
def execDeferredReset (s : State) : Host.Outcome State Fault Refusal := .next (s.onAll Chip.deferredReset)

/-- RESET_N_RELEASED (12 R511). -/
def execResetNReleased (env : StartEnv) (s : State) : Host.Outcome State Fault Refusal := .next (s.onAll (Chip.resetReleased env))

/-- BROWN_OUT (11 R471, Table 11-1). -/
def execBrownOut (vcore off : Bool) (s : State) : Host.Outcome State Fault Refusal := .next (s.onAll (Chip.brownOut vcore off))

/-- PFW_N_ASSERTED (05 R229, 04 R192). -/
def execPfwNAsserted (s : State) : Host.Outcome State Fault Refusal := .next (s.onAll Chip.pfwAsserted)

/-- PFW_N_DEASSERTED (17 R724, 12 R546). -/
def execPfwNDeasserted (s : State) : Host.Outcome State Fault Refusal := .next (s.onAll Chip.pfwDeasserted)

/-- FIELD_ON (13 R556). -/
def execFieldOn (senses : SenseErr × SenseErr) (faults : List Nat) (s : State) : Host.Outcome State Fault Refusal :=
  .next (s.onChip (Chip.fieldOn senses.1 senses.2 faults))

/-- FIELD_OFF (17 R725). -/
def execFieldOff (s : State) : Host.Outcome State Fault Refusal := .next (s.onChip Chip.fieldOff)

/-- FIELD_LOSS (10 R440). -/
def execFieldLoss (s : State) : Host.Outcome State Fault Refusal := .next (s.onChip Chip.fieldLoss)

end Sys2Proof.Machine
end

