-- ==== Sys2Proof/Machine/Starts.lean ====
section
/-! DEFINITION. Starts of the two images. -/

namespace Sys2Proof.Machine

open Sys2Proof

/-- CURREL (12 R524). -/
def execCurrel (s : State) : Host.Outcome State Fault Refusal := .next (s.onRun fun c => c.currel)

/-- START_TIMER_EXPIRY (12 R514). -/
def execStartTimerExpiry (env : StartEnv) (s : State) : Host.Outcome State Fault Refusal := .next (s.onRun fun c => c.startExpiry env)

/-- CONFIRM (12 R529): a write of SYS_CONFIRM. -/
def execConfirm (i : Init) (value : Byte) (s : State) : Host.Outcome State Fault Refusal := .next (s.onRun fun c => c.confirm i value)

/-- CONFIRM_WINDOW_CLOSE (12 R530). -/
def execConfirmWindowClose (s : State) : Host.Outcome State Fault Refusal := .next (s.onRun fun c => c.confirmClose)

/-- RETRY (12 R541). -/
def execRetry (port : Port) (env : StartEnv) (s : State) : Host.Outcome State Fault Refusal := .next (s.onRun fun c => c.retryWrite port 1 env)

/-- RETRY_WITH_OVERRIDE (12 R541). -/
def execRetryWithOverride (port : Port) (env : StartEnv) (s : State) : Host.Outcome State Fault Refusal := .next (s.onRun fun c => c.retryWrite port 2 env)

end Sys2Proof.Machine
end

