-- ==== Sys2Proof/Machine/Time.lean ====
section
/-! DEFINITION. Time base and mains phase. -/

namespace Sys2Proof.Machine

open Sys2Proof

/-- PPS_EDGE (02 R50 to R55). -/
def execPpsEdge (highNs : Nat) (s : State) : Host.Outcome State Fault Refusal := .next (s.onRun fun c => c.ppsEdge highNs)

/-- IRIG_FRAME (02 R59). -/
def execIrigFrame (format : Fin 8) (elements : List Nat) (s : State) : Host.Outcome State Fault Refusal := .next (s.onRun fun c => c.irigFrame format elements)

/-- IRIG_ON_TIME_EDGE (02 R60). -/
def execIrigOnTimeEdge (s : State) : Host.Outcome State Fault Refusal := .next (s.onRun fun c => c.irigOnTimeEdge)

/-- SOURCE_TIMEOUT (02 R53). -/
def execSourceTimeout (s : State) : Host.Outcome State Fault Refusal := .next (s.onRun fun c => c.sourceTimeout)

/-- HOLDOVER_LIMIT_EXPIRY (02 R53). -/
def execHoldoverLimitExpiry (s : State) : Host.Outcome State Fault Refusal := .next (s.onRun fun c => c.holdoverExpiry)

/-- LEAP_APPLY (02 R66). -/
def execLeapApply (s : State) : Host.Outcome State Fault Refusal := .next (s.onRun fun c => c.leapApply)

/-- ZC_CROSSING (02 R69). -/
def execZcCrossing (input : Fin 3) (s : State) : Host.Outcome State Fault Refusal := .next (s.onRun fun c => c.zcCrossing input)

/-- MISSING_CROSSING (02 R73). -/
def execMissingCrossing (input : Fin 3) (s : State) : Host.Outcome State Fault Refusal := .next (s.onRun fun c => c.zcMissing input)

/-- PHASE_SUPPRESSION_END (02 R82). -/
def execPhaseSuppressionEnd (input : Fin 3) (s : State) : Host.Outcome State Fault Refusal := .next (s.onRun fun c => c.suppressionEnd input)

/-- PPS_OUT_START (02 R83). -/
def execPpsOutStart (s : State) : Host.Outcome State Fault Refusal := .next (s.onRun fun c => c.ppsOutStart)

/-- PPS_OUT_END (02 R83). -/
def execPpsOutEnd (s : State) : Host.Outcome State Fault Refusal := .next (s.onRun fun c => c.ppsOutEnd)

/-- CLOCK_MONITOR_WINDOW (11 R471, R472). -/
def execClockMonitorWindow (deviation : Int) (locked : Bool) (s : State) : Host.Outcome State Fault Refusal := .next (s.onRun fun c => c.clockWindow deviation locked)

/-- PLL_RESTORE (11 R473). -/
def execPllRestore (s : State) : Host.Outcome State Fault Refusal := .next (s.onRun fun c => c.pllRestore)

end Sys2Proof.Machine
end

