-- ==== Sys2Proof/Machine/TwoWirePorts.lean ====
section
/-! DEFINITION. The two-wire port and the management bus. -/

namespace Sys2Proof.Machine

open Sys2Proof

/-- TW_WRITE_TRANSACTION (09 R409). -/
def execTwWriteTransaction (head : TwHead) (data : Bytes) (s : State) : Host.Outcome State Fault Refusal := .next (s.onRun fun c => c.twWrite head.addr data head.stop)

/-- TW_READ_TRANSACTION (09 R411). -/
def execTwReadTransaction (head : TwHead) (count : Nat) (s : State) : Host.Outcome State Fault Refusal := .next (s.onRun fun c => c.twRead head.addr count head.stop)

/-- PROXY_READ (09 R413). -/
def execProxyRead (s : State) : Host.Outcome State Fault Refusal := .next (s.onRun fun c => c.proxyStart false)

/-- PROXY_WRITE (09 R414). -/
def execProxyWrite (s : State) : Host.Outcome State Fault Refusal := .next (s.onRun fun c => c.proxyStart true)

/-- TWM_START (09 R429): a write of TWM_CMD. -/
def execTwmStart (i : Init) (value : Byte) (s : State) : Host.Outcome State Fault Refusal := .next (s.onRun fun c => if i = .registrar then c.twmCommand value else c)

/-- TWM_TRANSFER_DONE (09 R422). -/
def execTwmTransferDone (sdaLow : Fin 11) (addressAck dataAck : Bool) (read : Bytes) (s : State) : Host.Outcome State Fault Refusal := .next (s.onRun fun c => c.twmDone sdaLow.val addressAck dataAck read)

/-- TWM_RETRY_GAP (09 R423). -/
def execTwmRetryGap (s : State) : Host.Outcome State Fault Refusal := .next (s.onRun fun c => c.twmGap)

/-- TWM_CLOCK_HELD_TIMEOUT (09 R424). -/
def execTwmClockHeldTimeout (s : State) : Host.Outcome State Fault Refusal := .next (s.onRun fun c => c.twmHeld)

end Sys2Proof.Machine
end

