-- ==== Sys2Proof/Machine/Vault.lean ====
section
/-! DEFINITION. The Vault and the entropy source. -/

namespace Sys2Proof.Machine

open Sys2Proof

/-- ECB_ENCRYPT (06 R275). -/
def execEcbEncrypt (i : Init) (ch : CoreId) (s : State) : Host.Outcome State Fault Refusal := .next (s.onRun fun c => c.vaultCommand i ch 0x01)

/-- ECB_DECRYPT (06 R275). -/
def execEcbDecrypt (i : Init) (ch : CoreId) (s : State) : Host.Outcome State Fault Refusal := .next (s.onRun fun c => c.vaultCommand i ch 0x02)

/-- CBC_ENCRYPT (06 R275). -/
def execCbcEncrypt (i : Init) (ch : CoreId) (s : State) : Host.Outcome State Fault Refusal := .next (s.onRun fun c => c.vaultCommand i ch 0x03)

/-- CBC_DECRYPT (06 R275). -/
def execCbcDecrypt (i : Init) (ch : CoreId) (s : State) : Host.Outcome State Fault Refusal := .next (s.onRun fun c => c.vaultCommand i ch 0x04)

/-- CTR (06 R269). -/
def execCtr (i : Init) (ch : CoreId) (s : State) : Host.Outcome State Fault Refusal := .next (s.onRun fun c => c.vaultCommand i ch 0x05)

/-- CMAC (06 R276). -/
def execCmac (i : Init) (ch : CoreId) (s : State) : Host.Outcome State Fault Refusal := .next (s.onRun fun c => c.vaultCommand i ch 0x06)

/-- SHA_256 (06 R276). -/
def execSha256 (i : Init) (ch : CoreId) (s : State) : Host.Outcome State Fault Refusal := .next (s.onRun fun c => c.vaultCommand i ch 0x08)

/-- HMAC (06 R269). -/
def execHmac (i : Init) (ch : CoreId) (s : State) : Host.Outcome State Fault Refusal := .next (s.onRun fun c => c.vaultCommand i ch 0x09)

/-- ECDSA_SIGN (06 R272). -/
def execEcdsaSign (i : Init) (ch : CoreId) (s : State) : Host.Outcome State Fault Refusal := .next (s.onRun fun c => c.vaultCommand i ch 0x0A)

/-- ECDSA_VERIFY (06 R269). -/
def execEcdsaVerify (i : Init) (ch : CoreId) (s : State) : Host.Outcome State Fault Refusal := .next (s.onRun fun c => c.vaultCommand i ch 0x0B)

/-- ECDH (06 R269). -/
def execEcdh (i : Init) (ch : CoreId) (s : State) : Host.Outcome State Fault Refusal := .next (s.onRun fun c => c.vaultCommand i ch 0x0C)

/-- PUBLIC_KEY (06 R288). -/
def execPublicKey (i : Init) (ch : CoreId) (s : State) : Host.Outcome State Fault Refusal := .next (s.onRun fun c => c.vaultCommand i ch 0x0D)

/-- LOAD_KEY (06 R258). -/
def execLoadKey (i : Init) (ch : CoreId) (s : State) : Host.Outcome State Fault Refusal := .next (s.onRun fun c => c.vaultCommand i ch 0x10)

/-- CLEAR_KEY (06 R288). -/
def execClearKey (i : Init) (ch : CoreId) (s : State) : Host.Outcome State Fault Refusal := .next (s.onRun fun c => c.vaultCommand i ch 0x11)

/-- VAULT_COMMAND_DONE (06 R275). -/
def execVaultCommandDone (done : EngineEnd) (s : State) : Host.Outcome State Fault Refusal := .next (s.onRun fun c => c.vaultDone done.engine done.faults)

/-- WRAPPED_KEY_WRITE_DONE (06 R264). -/
def execWrappedKeyWriteDone (ok : Bool) (s : State) : Host.Outcome State Fault Refusal := .next (s.onRun fun c => (c.wkDone ok).imageProgress)

/-- ENTROPY_STARTUP_TEST_DONE (06 R278). -/
def execEntropyStartupTestDone (samples : List Bool) (s : State) : Host.Outcome State Fault Refusal := .next (s.onRun fun c => c.trnStartup samples)

/-- TRN_RESTART (06 R282): a write of TRN_CTRL. -/
def execTrnRestart (i : Init) (value : Byte) (s : State) : Host.Outcome State Fault Refusal := .next (s.onRun fun c => if c.may i true 0x40006008 value then c.trnCtrl value else c)

/-- TRN_DATA_READ (06 R289). -/
def execTrnDataRead (i : Init) (s : State) : Host.Outcome State Fault Refusal := .next (s.onRun fun c => if c.may i false 0x40006004 0 then c.trnRead.2 else c)

/-- ENTROPY_TEST_FAILURE (06 R281). -/
def execEntropyTestFailure (proportion : Bool) (s : State) : Host.Outcome State Fault Refusal := .next (s.onRun fun c => c.entropyFails proportion)

/-- DELIVERED_BYTE (06 R277). -/
def execDeliveredByte (b : Byte) (s : State) : Host.Outcome State Fault Refusal := .next (s.onRun fun c => c.trnByte b)

end Sys2Proof.Machine
end

