-- ==== Sys2Proof/Machine/Dispatch.lean ====
section
/-! DEFINITION. One arm per command: the meaning of every row of the table. -/

namespace Sys2Proof.Machine

open Sys2Proof

def exec (i : Instr) (s : State) : Host.Outcome State Fault Refusal :=
  match i with
  | .powerGood env => Sys2Proof.Machine.execPowerGood env s
  | .resetNAsserted lowNs => Sys2Proof.Machine.execResetNAsserted lowNs s
  | .deferredReset => Sys2Proof.Machine.execDeferredReset s
  | .resetNReleased env => Sys2Proof.Machine.execResetNReleased env s
  | .brownOut vcore off => Sys2Proof.Machine.execBrownOut vcore off s
  | .pfwNAsserted => Sys2Proof.Machine.execPfwNAsserted s
  | .pfwNDeasserted => Sys2Proof.Machine.execPfwNDeasserted s
  | .fieldOn senses faults => Sys2Proof.Machine.execFieldOn senses faults s
  | .fieldOff => Sys2Proof.Machine.execFieldOff s
  | .ppsEdge highNs => Sys2Proof.Machine.execPpsEdge highNs s
  | .irigFrame format elements => Sys2Proof.Machine.execIrigFrame format elements s
  | .irigOnTimeEdge => Sys2Proof.Machine.execIrigOnTimeEdge s
  | .sourceTimeout => Sys2Proof.Machine.execSourceTimeout s
  | .holdoverLimitExpiry => Sys2Proof.Machine.execHoldoverLimitExpiry s
  | .leapApply => Sys2Proof.Machine.execLeapApply s
  | .zcCrossing input => Sys2Proof.Machine.execZcCrossing input s
  | .missingCrossing input => Sys2Proof.Machine.execMissingCrossing input s
  | .phaseSuppressionEnd input => Sys2Proof.Machine.execPhaseSuppressionEnd input s
  | .ppsOutStart => Sys2Proof.Machine.execPpsOutStart s
  | .ppsOutEnd => Sys2Proof.Machine.execPpsOutEnd s
  | .clockMonitorWindow deviation locked => Sys2Proof.Machine.execClockMonitorWindow deviation locked s
  | .pllRestore => Sys2Proof.Machine.execPllRestore s
  | .biTransition n => Sys2Proof.Machine.execBiTransition n s
  | .debounceExpiry n => Sys2Proof.Machine.execDebounceExpiry n s
  | .candidateAbandon n => Sys2Proof.Machine.execCandidateAbandon n s
  | .chatterWindowClose n => Sys2Proof.Machine.execChatterWindowClose n s
  | .quietTimeExpiry n => Sys2Proof.Machine.execQuietTimeExpiry n s
  | .seal parity => Sys2Proof.Machine.execSeal parity s
  | .checkpointTrigger => Sys2Proof.Machine.execCheckpointTrigger s
  | .checkpointSigned faults => Sys2Proof.Machine.execCheckpointSigned faults s
  | .firmwarePost ini value => Sys2Proof.Machine.execFirmwarePost ini value s
  | .hostOrder a1 a2 a3 msg => Sys2Proof.Machine.execHostOrder a1 a2 a3 msg s
  | .verify => Sys2Proof.Machine.execVerify s
  | .releaseInstant => Sys2Proof.Machine.execReleaseInstant s
  | .pulseEnd => Sys2Proof.Machine.execPulseEnd s
  | .confirmReadback pads => Sys2Proof.Machine.execConfirmReadback pads s
  | .armNLow => Sys2Proof.Machine.execArmNLow s
  | .armNArmed => Sys2Proof.Machine.execArmNArmed s
  | .armNDisarm highNs => Sys2Proof.Machine.execArmNDisarm highNs s
  | .latchClear port co => Sys2Proof.Machine.execLatchClear port co s
  | .program ini w => Sys2Proof.Machine.execProgram ini w s
  | .erase ini w => Sys2Proof.Machine.execErase ini w s
  | .cancel ini w => Sys2Proof.Machine.execCancel ini w s
  | .flashOperationStart => Sys2Proof.Machine.execFlashOperationStart s
  | .programDone unverified => Sys2Proof.Machine.execProgramDone unverified s
  | .eraseDone ok => Sys2Proof.Machine.execEraseDone ok s
  | .infoPageEraseDone ok => Sys2Proof.Machine.execInfoPageEraseDone ok s
  | .eraseResume => Sys2Proof.Machine.execEraseResume s
  | .journalPageTimeout => Sys2Proof.Machine.execJournalPageTimeout s
  | .passDue => Sys2Proof.Machine.execPassDue s
  | .passBlockInterval weak => Sys2Proof.Machine.execPassBlockInterval weak s
  | .ecbEncrypt ini ch => Sys2Proof.Machine.execEcbEncrypt ini ch s
  | .ecbDecrypt ini ch => Sys2Proof.Machine.execEcbDecrypt ini ch s
  | .cbcEncrypt ini ch => Sys2Proof.Machine.execCbcEncrypt ini ch s
  | .cbcDecrypt ini ch => Sys2Proof.Machine.execCbcDecrypt ini ch s
  | .ctr ini ch => Sys2Proof.Machine.execCtr ini ch s
  | .cmac ini ch => Sys2Proof.Machine.execCmac ini ch s
  | .sha256 ini ch => Sys2Proof.Machine.execSha256 ini ch s
  | .hmac ini ch => Sys2Proof.Machine.execHmac ini ch s
  | .ecdsaSign ini ch => Sys2Proof.Machine.execEcdsaSign ini ch s
  | .ecdsaVerify ini ch => Sys2Proof.Machine.execEcdsaVerify ini ch s
  | .ecdh ini ch => Sys2Proof.Machine.execEcdh ini ch s
  | .publicKey ini ch => Sys2Proof.Machine.execPublicKey ini ch s
  | .loadKey ini ch => Sys2Proof.Machine.execLoadKey ini ch s
  | .clearKey ini ch => Sys2Proof.Machine.execClearKey ini ch s
  | .vaultCommandDone done => Sys2Proof.Machine.execVaultCommandDone done s
  | .wrappedKeyWriteDone ok => Sys2Proof.Machine.execWrappedKeyWriteDone ok s
  | .entropyStartupTestDone samples => Sys2Proof.Machine.execEntropyStartupTestDone samples s
  | .trnRestart ini value => Sys2Proof.Machine.execTrnRestart ini value s
  | .trnDataRead ini => Sys2Proof.Machine.execTrnDataRead ini s
  | .arbiterWindowClose => Sys2Proof.Machine.execArbiterWindowClose s
  | .begin port => Sys2Proof.Machine.execBegin port s
  | .commit port => Sys2Proof.Machine.execCommit port s
  | .rollback port => Sys2Proof.Machine.execRollback port s
  | .commitAtZeroCrossing port => Sys2Proof.Machine.execCommitAtZeroCrossing port s
  | .crossingApplyTimeout => Sys2Proof.Machine.execCrossingApplyTimeout s
  | .transactionTimeout => Sys2Proof.Machine.execTransactionTimeout s
  | .storeImageVerified ok => Sys2Proof.Machine.execStoreImageVerified ok s
  | .internalImageTimer => Sys2Proof.Machine.execInternalImageTimer s
  | .firmwareRequestTimeout => Sys2Proof.Machine.execFirmwareRequestTimeout s
  | .catChannelRead ini ch => Sys2Proof.Machine.execCatChannelRead ini ch s
  | .catChannelWrite ini ch => Sys2Proof.Machine.execCatChannelWrite ini ch s
  | .status a1 a2 a3 payload => Sys2Proof.Machine.execStatus a1 a2 a3 payload s
  | .catRead a1 a2 a3 payload => Sys2Proof.Machine.execCatRead a1 a2 a3 payload s
  | .catWrite a1 a2 a3 payload => Sys2Proof.Machine.execCatWrite a1 a2 a3 payload s
  | .recRead a1 a2 a3 payload => Sys2Proof.Machine.execRecRead a1 a2 a3 payload s
  | .recStatus a1 a2 a3 payload => Sys2Proof.Machine.execRecStatus a1 a2 a3 payload s
  | .todSet a1 a2 a3 payload => Sys2Proof.Machine.execTodSet a1 a2 a3 payload s
  | .loanGetChallenge a1 a2 a3 payload => Sys2Proof.Machine.execLoanGetChallenge a1 a2 a3 payload s
  | .loanPresent a1 a2 a3 payload => Sys2Proof.Machine.execLoanPresent a1 a2 a3 payload s
  | .imageBlock a1 a2 a3 payload => Sys2Proof.Machine.execImageBlock a1 a2 a3 payload s
  | .respFetch a1 a2 a3 crcOk clocks => Sys2Proof.Machine.execRespFetch a1 a2 a3 crcOk clocks s
  | .deferredComplete => Sys2Proof.Machine.execDeferredComplete s
  | .hcsNFall => Sys2Proof.Machine.execHcsNFall s
  | .attentionPulse => Sys2Proof.Machine.execAttentionPulse s
  | .attentionPulseEnd => Sys2Proof.Machine.execAttentionPulseEnd s
  | .capRead bus head data => Sys2Proof.Machine.execCapRead bus head data s
  | .capWrite bus head data => Sys2Proof.Machine.execCapWrite bus head data s
  | .capWriteInit bus head data => Sys2Proof.Machine.execCapWriteInit bus head data s
  | .capWriteSeg bus head data => Sys2Proof.Machine.execCapWriteSeg bus head data s
  | .capReadSeg bus head data => Sys2Proof.Machine.execCapReadSeg bus head data s
  | .capEndTransfer bus head data => Sys2Proof.Machine.execCapEndTransfer bus head data s
  | .segmentTimeout => Sys2Proof.Machine.execSegmentTimeout s
  | .canTimeFrame bus frame => Sys2Proof.Machine.execCanTimeFrame bus frame s
  | .canFrameSent bus => Sys2Proof.Machine.execCanFrameSent bus s
  | .busOffRecovery bus => Sys2Proof.Machine.execBusOffRecovery bus s
  | .twWriteTransaction head data => Sys2Proof.Machine.execTwWriteTransaction head data s
  | .twReadTransaction head count => Sys2Proof.Machine.execTwReadTransaction head count s
  | .proxyRead => Sys2Proof.Machine.execProxyRead s
  | .proxyWrite => Sys2Proof.Machine.execProxyWrite s
  | .twmStart ini value => Sys2Proof.Machine.execTwmStart ini value s
  | .twmTransferDone sdaLow addressAck dataAck read => Sys2Proof.Machine.execTwmTransferDone sdaLow addressAck dataAck read s
  | .twmRetryGap => Sys2Proof.Machine.execTwmRetryGap s
  | .twmClockHeldTimeout => Sys2Proof.Machine.execTwmClockHeldTimeout s
  | .reqa => Sys2Proof.Machine.execReqa s
  | .wupa => Sys2Proof.Machine.execWupa s
  | .hlta => Sys2Proof.Machine.execHlta s
  | .anticollision level bits => Sys2Proof.Machine.execAnticollision level bits s
  | .select level uidBytes => Sys2Proof.Machine.execSelect level uidBytes s
  | .rats param => Sys2Proof.Machine.execRats param s
  | .pps pps0 pps1 => Sys2Proof.Machine.execPps pps0 pps1 s
  | .sDeselect => Sys2Proof.Machine.execSDeselect s
  | .sWtxResponse wtxm => Sys2Proof.Machine.execSWtxResponse wtxm s
  | .wtxTimer ahead => Sys2Proof.Machine.execWtxTimer ahead s
  | .selectApp a => Sys2Proof.Machine.execSelectApp a s
  | .verifyPassword a => Sys2Proof.Machine.execVerifyPassword a s
  | .auth1 a => Sys2Proof.Machine.execAuth1 a s
  | .auth2 a => Sys2Proof.Machine.execAuth2 a s
  | .getPlacard a => Sys2Proof.Machine.execGetPlacard a s
  | .readJournal a => Sys2Proof.Machine.execReadJournal a s
  | .readObject a => Sys2Proof.Machine.execReadObject a s
  | .writeMemo a => Sys2Proof.Machine.execWriteMemo a s
  | .failureAnswerDelay => Sys2Proof.Machine.execFailureAnswerDelay s
  | .fieldClearTimeout => Sys2Proof.Machine.execFieldClearTimeout s
  | .placardWrite => Sys2Proof.Machine.execPlacardWrite s
  | .temperatureSample t1 t2 => Sys2Proof.Machine.execTemperatureSample t1 t2 s
  | .temperatureDisagreement => Sys2Proof.Machine.execTemperatureDisagreement s
  | .externalSensorPoll r => Sys2Proof.Machine.execExternalSensorPoll r s
  | .supplyOutOfRange rail mV => Sys2Proof.Machine.execSupplyOutOfRange rail mV s
  | .supplyBackInRange rail mV => Sys2Proof.Machine.execSupplyBackInRange rail mV s
  | .vcoreGlitch ns => Sys2Proof.Machine.execVcoreGlitch ns s
  | .biBurstWindow n => Sys2Proof.Machine.execBiBurstWindow n s
  | .shadowCompare sensing => Sys2Proof.Machine.execShadowCompare sensing s
  | .alertClear port bits => Sys2Proof.Machine.execAlertClear port bits s
  | .watchdogKick ini first second => Sys2Proof.Machine.execWatchdogKick ini first second s
  | .watchdogExpiry => Sys2Proof.Machine.execWatchdogExpiry s
  | .answerSend ini value => Sys2Proof.Machine.execAnswerSend ini value s
  | .ledgerPageTimeout => Sys2Proof.Machine.execLedgerPageTimeout s
  | .ledgerHour => Sys2Proof.Machine.execLedgerHour s
  | .openCuratorImage port => Sys2Proof.Machine.execOpenCuratorImage port s
  | .openRegistrarImage port => Sys2Proof.Machine.execOpenRegistrarImage port s
  | .blockData port data => Sys2Proof.Machine.execBlockData port data s
  | .verifyImage port => Sys2Proof.Machine.execVerifyImage port s
  | .activateAtNextStart port => Sys2Proof.Machine.execActivateAtNextStart port s
  | .activateNow port => Sys2Proof.Machine.execActivateNow port s
  | .abortTransfer port => Sys2Proof.Machine.execAbortTransfer port s
  | .rollBackCurator port => Sys2Proof.Machine.execRollBackCurator port s
  | .rollBackRegistrar port => Sys2Proof.Machine.execRollBackRegistrar port s
  | .imageTransferTimeout => Sys2Proof.Machine.execImageTransferTimeout s
  | .currel => Sys2Proof.Machine.execCurrel s
  | .startTimerExpiry env => Sys2Proof.Machine.execStartTimerExpiry env s
  | .confirm ini value => Sys2Proof.Machine.execConfirm ini value s
  | .confirmWindowClose => Sys2Proof.Machine.execConfirmWindowClose s
  | .retry port env => Sys2Proof.Machine.execRetry port env s
  | .retryWithOverride port env => Sys2Proof.Machine.execRetryWithOverride port env s
  | .debugId crcOk => Sys2Proof.Machine.execDebugId crcOk s
  | .debugRd addr len crcOk parity => Sys2Proof.Machine.execDebugRd addr len crcOk parity s
  | .debugWr addr data crcOk parity => Sys2Proof.Machine.execDebugWr addr data crcOk parity s
  | .challenge ini => Sys2Proof.Machine.execChallenge ini s
  | .presentLoan ini => Sys2Proof.Machine.execPresentLoan ini s
  | .otpProgram ini => Sys2Proof.Machine.execOtpProgram ini s
  | .otpProgramDone verified sensing => Sys2Proof.Machine.execOtpProgramDone verified sensing s
  | .transition ini => Sys2Proof.Machine.execTransition ini s
  | .transitionDone ok1 ok2 sensing => Sys2Proof.Machine.execTransitionDone ok1 ok2 sensing s
  | .halt ini => Sys2Proof.Machine.execHalt ini s
  | .resume ini => Sys2Proof.Machine.execResume ini s
  | .step ini => Sys2Proof.Machine.execStep ini s
  | .dbgCatRead ini => Sys2Proof.Machine.execDbgCatRead ini s
  | .dbgCatWrite ini => Sys2Proof.Machine.execDbgCatWrite ini s
  | .latchRead ini addr => Sys2Proof.Machine.execLatchRead ini addr s
  | .registerWrite ini addr value => Sys2Proof.Machine.execRegisterWrite ini addr value s
  | .mov c d src => Sys2Proof.Machine.execMov c d src s
  | .add c d src => Sys2Proof.Machine.execAdd c d src s
  | .adc c d src => Sys2Proof.Machine.execAdc c d src s
  | .sub c d src => Sys2Proof.Machine.execSub c d src s
  | .sbc c d src => Sys2Proof.Machine.execSbc c d src s
  | .and c d src => Sys2Proof.Machine.execAnd c d src s
  | .or c d src => Sys2Proof.Machine.execOr c d src s
  | .xor c d src => Sys2Proof.Machine.execXor c d src s
  | .cmp c d src => Sys2Proof.Machine.execCmp c d src s
  | .tst c d src => Sys2Proof.Machine.execTst c d src s
  | .shl c d src => Sys2Proof.Machine.execShl c d src s
  | .shr c d src => Sys2Proof.Machine.execShr c d src s
  | .asr c d src => Sys2Proof.Machine.execAsr c d src s
  | .rol c d src => Sys2Proof.Machine.execRol c d src s
  | .ror c d src => Sys2Proof.Machine.execRor c d src s
  | .movw c d src => Sys2Proof.Machine.execMovw c d src s
  | .addw c d src => Sys2Proof.Machine.execAddw c d src s
  | .adcw c d src => Sys2Proof.Machine.execAdcw c d src s
  | .subw c d src => Sys2Proof.Machine.execSubw c d src s
  | .sbcw c d src => Sys2Proof.Machine.execSbcw c d src s
  | .andw c d src => Sys2Proof.Machine.execAndw c d src s
  | .orw c d src => Sys2Proof.Machine.execOrw c d src s
  | .xorw c d src => Sys2Proof.Machine.execXorw c d src s
  | .cmpw c d src => Sys2Proof.Machine.execCmpw c d src s
  | .tstw c d src => Sys2Proof.Machine.execTstw c d src s
  | .shlw c d src => Sys2Proof.Machine.execShlw c d src s
  | .shrw c d src => Sys2Proof.Machine.execShrw c d src s
  | .asrw c d src => Sys2Proof.Machine.execAsrw c d src s
  | .mulw c d src => Sys2Proof.Machine.execMulw c d src s
  | .sxt c d src => Sys2Proof.Machine.execSxt c d src s
  | .zxt c d src => Sys2Proof.Machine.execZxt c d src s
  | .mul c signed d x y => Sys2Proof.Machine.execMul c signed d x y s
  | .movi c d imm => Sys2Proof.Machine.execMovi c d imm s
  | .addi c d imm => Sys2Proof.Machine.execAddi c d imm s
  | .cmpi c d imm => Sys2Proof.Machine.execCmpi c d imm s
  | .subi c d imm => Sys2Proof.Machine.execSubi c d imm s
  | .andi c d imm => Sys2Proof.Machine.execAndi c d imm s
  | .ori c d imm => Sys2Proof.Machine.execOri c d imm s
  | .xori c d imm => Sys2Proof.Machine.execXori c d imm s
  | .tsti c d imm => Sys2Proof.Machine.execTsti c d imm s
  | .adci c d imm => Sys2Proof.Machine.execAdci c d imm s
  | .sbci c d imm => Sys2Proof.Machine.execSbci c d imm s
  | .movwi c d imm => Sys2Proof.Machine.execMovwi c d imm s
  | .addwi c d imm => Sys2Proof.Machine.execAddwi c d imm s
  | .subwi c d imm => Sys2Proof.Machine.execSubwi c d imm s
  | .cmpwi c d imm => Sys2Proof.Machine.execCmpwi c d imm s
  | .andwi c d imm => Sys2Proof.Machine.execAndwi c d imm s
  | .orwi c d imm => Sys2Proof.Machine.execOrwi c d imm s
  | .xorwi c d imm => Sys2Proof.Machine.execXorwi c d imm s
  | .tstwi c d imm => Sys2Proof.Machine.execTstwi c d imm s
  | .shli c d n => Sys2Proof.Machine.execShli c d n s
  | .shri c d n => Sys2Proof.Machine.execShri c d n s
  | .asri c d n => Sys2Proof.Machine.execAsri c d n s
  | .roli c d n => Sys2Proof.Machine.execRoli c d n s
  | .rori c d n => Sys2Proof.Machine.execRori c d n s
  | .shlwi c d n => Sys2Proof.Machine.execShlwi c d n s
  | .shrwi c d n => Sys2Proof.Machine.execShrwi c d n s
  | .asrwi c d n => Sys2Proof.Machine.execAsrwi c d n s
  | .rolwi c d n => Sys2Proof.Machine.execRolwi c d n s
  | .rorwi c d n => Sys2Proof.Machine.execRorwi c d n s
  | .ld c z r p post parity => Sys2Proof.Machine.execLd c z r p post parity s
  | .st c z r p post => Sys2Proof.Machine.execSt c z r p post s
  | .ldx c z r p off parity => Sys2Proof.Machine.execLdx c z r p off parity s
  | .stx c z r p off => Sys2Proof.Machine.execStx c z r p off s
  | .lda c z r addr parity => Sys2Proof.Machine.execLda c z r addr parity s
  | .sta c z r addr => Sys2Proof.Machine.execSta c z r addr s
  | .bcc c cond disp => Sys2Proof.Machine.execBcc c cond disp s
  | .jmp c addr => Sys2Proof.Machine.execJmp c addr s
  | .call c addr wide => Sys2Proof.Machine.execCall c addr wide s
  | .jr c p => Sys2Proof.Machine.execJr c p s
  | .callr c p wide => Sys2Proof.Machine.execCallr c p wide s
  | .bmov c more parity => Sys2Proof.Machine.execBmov c more parity s
  | .bfil c more => Sys2Proof.Machine.execBfil c more s
  | .bcmp c more parity => Sys2Proof.Machine.execBcmp c more parity s
  | .bcrc c more parity => Sys2Proof.Machine.execBcrc c more parity s
  | .bmac c more parity => Sys2Proof.Machine.execBmac c more parity s
  | .bxor c more parity => Sys2Proof.Machine.execBxor c more parity s
  | .nop c => Sys2Proof.Machine.execNop c s
  | .ret c => Sys2Proof.Machine.execRet c s
  | .retx c => Sys2Proof.Machine.execRetx c s
  | .wsync c => Sys2Proof.Machine.execWsync c s
  | .fence c parity => Sys2Proof.Machine.execFence c parity s
  | .wait c => Sys2Proof.Machine.execWait c s
  | .getst c d => Sys2Proof.Machine.execGetst c d s
  | .putst c d => Sys2Proof.Machine.execPutst c d s
  | .mlset c n => Sys2Proof.Machine.execMlset c n s
  | .freezeEnd c cycles => Sys2Proof.Machine.execFreezeEnd c cycles s
  | .interruptEntry c parity => Sys2Proof.Machine.execInterruptEntry c parity s
  | .bufferDrain c parity => Sys2Proof.Machine.execBufferDrain c parity s
  | .failedFrame wholeBytes bytes => Sys2Proof.Machine.execFailedFrame wholeBytes bytes s
  | .entropyTestFailure proportion => Sys2Proof.Machine.execEntropyTestFailure proportion s
  | .deliveredByte b => Sys2Proof.Machine.execDeliveredByte b s
  | .debugPortIdle => Sys2Proof.Machine.execDebugPortIdle s
  | .canBusError bus transmit code => Sys2Proof.Machine.execCanBusError bus transmit code s
  | .protocolExceptionEvent bus => Sys2Proof.Machine.execProtocolExceptionEvent bus s
  | .busIntegrationEnd bus => Sys2Proof.Machine.execBusIntegrationEnd bus s
  | .fieldLoss => Sys2Proof.Machine.execFieldLoss s
  | .illegalInstruction c w1 w2 => Sys2Proof.Machine.execIllegalInstruction c w1 w2 s

end Sys2Proof.Machine
end

