-- ==== Sys2Proof/Machine/Step.lean ====
section
/-! DEFINITION. One step of the block: the command at the front of the queue, or one stamp tick when none waits. -/

namespace Sys2Proof.Machine

open Sys2Proof

/-- The front command runs against the state whose queue is the rest; an empty queue lets one stamp tick of 2.5 ns
pass (log 1). -/
def step (s : State) : Host.Outcome State Fault Refusal :=
  match s.pending with
  | [] => .next (s.onChip Chip.tick)
  | i :: rest => exec i { s with pending := rest }

/-- `s` with the command a word spells at the front of its queue. -/
def State.withFetchWord (s : State) (nbits w : Nat) : State :=
  match decodeTableWord nbits w with
  | none => s
  | some i => { s with pending := i :: s.pending }

end Sys2Proof.Machine
end

