-- ==== Sys2Proof/Safety.lean ====
section
/-! DEFINITION. What claims about the VQ-2630 are stated in: which blocks a command leaves alone, when a command reaches a
running device, what a Jarley instruction leaves, and the invariant of the cores. -/

namespace Sys2Proof.Machine

open Sys2Proof

/-! ## Frames over the chip -/

/-- The blocks of the chip, one for each field of `Chip` but the requests. -/
inductive Block where
  | clk | mem | otp | time | phase | acc | ord | cns | vlt | trn | cat | host | can | tw | twm | tag | rgr | start | dbg | vit
  | bus | gpio
  deriving DecidableEq, Repr

/-- Two chips agree on a block. -/
def sameOn (b : Block) (c d : Chip) : Prop :=
  match b with
  | .clk => c.clk = d.clk
  | .mem => c.mem = d.mem
  | .otp => c.otp = d.otp
  | .time => c.time = d.time
  | .phase => c.phase = d.phase
  | .acc => c.acc = d.acc
  | .ord => c.ord = d.ord
  | .cns => c.cns = d.cns
  | .vlt => c.vlt = d.vlt
  | .trn => c.trn = d.trn
  | .cat => c.cat = d.cat
  | .host => c.host = d.host
  | .can => c.can = d.can
  | .tw => c.tw = d.tw
  | .twm => c.twm = d.twm
  | .tag => c.tag = d.tag
  | .rgr => c.rgr = d.rgr
  | .start => c.start = d.start
  | .dbg => c.dbg = d.dbg
  | .vit => c.vit = d.vit
  | .bus => c.bus = d.bus
  | .gpio => c.gpio = d.gpio

/-- Nothing but the blocks of `bs` differs between two chips. -/
def ChipOnly (bs : List Block) (c d : Chip) : Prop := d.asks = c.asks ∧ ∀ b, b ∉ bs → sameOn b c d

/-- Nothing but the blocks of `bs` differs between two states: the queue, both cores and every other block stay. -/
def OnlyBlocks (bs : List Block) (s t : State) : Prop :=
  t.pending = s.pending ∧ t.dev.cur = s.dev.cur ∧ t.dev.reg = s.dev.reg ∧ ChipOnly bs s.dev.chip t.dev.chip

/-- A command of the main domain reaches a device that runs, and nothing is still asked of it. -/
def Live (s : State) : Prop := s.dev.chip.clk.running = true ∧ s.dev.chip.asks = []

/-- `i` changes the chip as `f` says, and nothing else: the queue and both cores stay. -/
def Becomes (s : State) (i : Instr) (f : Chip → Chip) : Prop := exec i s = .next (s.onChip f)

/-- `i` completes, and `P` holds of the chip it leaves; only the blocks of `bs` differ. -/
def Leaves (s : State) (i : Instr) (bs : List Block) (P : Chip → Prop) : Prop :=
  ∃ t, exec i s = .next t ∧ OnlyBlocks bs s t ∧ P t.dev.chip

/-! ## Records -/

/-- The record `a` has arisen: it waits in the seal lane, in the order of 01 R30, or for the epoch start (03 R744); with 64
records in the lane already it is lost (the model's choice, log 72). -/
def arose (a : Arisen) (p : Acc) : Acc :=
  if p.en then
    if p.queue.length < 64 then { p with queue := laneInsert a p.queue }
    else { p with
      losing := true, lost := some (addLost a.rcd p.lost), lostCount := p.lostCount + 1
      irq := if p.losing then p.irq else p.irq ||| 2 }
  else { p with held := p.held ++ [a] }

/-- A record of this instant with its place in the seal order (03 R105, R106). -/
def recordNow (c : Chip) (cls kind src data : Nat) : Arisen :=
  { rcd := c.mkRecord kind src data, tick := c.clk.raw, cls := cls, t0 := 0 }

/-- The chip with one more record: kind, Source and data as given, everything else of this instant. -/
def logs (cls kind src data : Nat) (c : Chip) : Chip := { c with acc := arose (recordNow c cls kind src data) c.acc }

/-- Alert bits latched (11 R475). -/
def alerted (m : Byte) (c : Chip) : Chip := { c with rgr := { c.rgr with alerts := c.rgr.alerts ||| m } }

/-- A Catalogue value put in force (07 R303): the stored form lists no Default. -/
def withValue (idx sub : Nat) (v : Bytes) (c : Chip) : Chip :=
  { c with cat := { c.cat with vals := assocPut (256 * idx + sub) (if v = objDefault idx sub then none else some v) c.cat.vals } }

/-! ## Resets -/

/-- Every pin at its reset state, the ports closed and the main domain stopped (17 R719, R721; 09 R386). -/
def stopped (c : Chip) : Chip :=
  { c with
    clk := { c.clk with running := false, resetDeferred := false, startHeld := false }
    ord := { c.ord with drive := Vector.replicate 8 .highZ }
    host := { c.host with open_ := false, frame := none, driven := [] }
    can := { c.can with open_ := false }
    tw := { c.tw with open_ := false } }

/-- No order has an output to release or a pulse that runs. -/
def NoOrders (c : Chip) : Prop := (∀ e : Fin 16, c.ord.hold[e] = none) ∧ c.ord.loose = []

/-- The contactless engine waits neither for the Catalogue nor for the array. -/
def TagIdle (c : Chip) : Prop := c.tag.waitCat = none ∧ c.tag.waitRead = none

/-- The flash array is idle and no OTP programming runs. -/
def ArrayIdle (c : Chip) : Prop := c.cns.run = none ∧ c.cns.susp = none ∧ c.dbg.otpRun = none ∧ c.dbg.transRun = none

/-- The device after a Cold start with a cause, on a chip as it stands before it. -/
def restarted (cause : Nat) (env : StartEnv) (c : Chip) : Device :=
  Device.settle { chip := { c with asks := [.cold cause env] }, cur := {}, reg := {} }

/-- `i` begins a Cold start, on the chip as `f` leaves it. -/
def Restarts (s : State) (i : Instr) (cause : Nat) (env : StartEnv) (f : Chip → Chip) : Prop :=
  exec i s = .next { s with dev := restarted cause env (f s.dev.chip) }

/-- The life-cycle state that the fuses decode to. -/
def fuseLife (c : Chip) : Life := Chip.decodeLife { c with otp := { fuses := c.otp.fuses, shadowA := c.otp.fuses, shadowB := c.otp.fuses } }

/-- A chip whose Cold start waits for PFW_N before step 5 (12 R546): every field has its Cold value but for what no reset
touches, which is flash, OTP, the pins, the field domain, the measurements of the Registrar and, unless power has come up, SRAM. -/
def coldHeld (cause : Nat) (env : StartEnv) (c : Chip) : Chip :=
  let fresh : Chip := {}
  { fresh with
    clk := { c.clk with raw := 0, running := true, startHeld := true, resetDeferred := false }
    mem := if cause = 0 then { c.mem with curSram := [], regSram := [] } else c.mem
    otp := { fuses := c.otp.fuses, shadowA := c.otp.fuses, shadowB := c.otp.fuses }
    acc := { fresh.acc with rawBi := c.acc.rawBi }
    ord := { fresh.ord with pads := c.ord.pads, armLowSince := c.ord.armLowSince.map fun _ => 0 }
    cns := { fresh.cns with epochFaults := env.epochFaults }
    vlt := { fresh.vlt with keyFaults := env.keyFaults, heldCeil := env.heldCeilings }
    vit := { fresh.vit with parityFaults := env.busFaults }
    tag := { c.tag with
      sessions := 0, auths := 0, failed := 0, wtxs := 0, irq := 0, irqen := 0, waitCat := none, placard := none, placardTick := 0
      placardDue := false }
    gpio := { fresh.gpio with pins := c.gpio.pins }
    rgr := { fresh.rgr with t1 := c.rgr.t1, t2 := c.rgr.t2, supply := c.rgr.supply }
    start := { fresh.start with cause, life := fuseLife c } }

/-- What a Curator reset with a cause leaves (01 R32, R40; 12 Table 12-1; 11 R477): the Curator core and the interrupt and channel
registers at their Warm values, the confirm window and the watchdog stopped. The time base, the phase tracker, memory and
OTP stay. -/
def CuratorReset (cause : Nat) (s t : State) : Prop :=
  let c := s.dev.chip
  let d := t.dev.chip
  t.pending = s.pending ∧ t.dev.cur = {} ∧ t.dev.reg = s.dev.reg ∧ d.asks = [] ∧
  (∀ b : Block, b ∉ [Block.acc, .ord, .cns, .vlt, .trn, .cat, .host, .can, .tw, .tag, .rgr, .start, .dbg, .vit, .bus] → sameOn b c d) ∧
  d.start = { c.start with cause := cause, found := 0, resetTick := c.clk.raw, timer := some c.rcNow, confirmed := false } ∧
  d.vit = { c.vit with cur := { ncount := c.vit.cur.ncount } } ∧ d.cat.mbox = [] ∧ d.cat.fwReady = false ∧ d.cat.cch = {} ∧
  d.vlt.cch = {} ∧ d.rgr.win = none ∧ d.rgr.winPaused = none ∧ d.rgr.wdRun = false ∧
  d.rgr.wdo = (c.rgr.wdo || decide (cause = 2 ∨ cause = 3)) ∧ d.dbg.loaned = 0 ∧ d.dbg.busyHid = true ∧ d.dbg.entHid = true ∧
  d.acc.queue = c.acc.queue ∧
  d.acc.irq = 0 ∧ d.ord.irq = 0 ∧ d.cns.irq = 0 ∧ d.vlt.irq = 0 ∧ d.trn.irq = 0 ∧ d.cat.irq = 0 ∧ d.host.irq = 0 ∧ d.can.a.irq = 0 ∧
  d.can.b.irq = 0 ∧ d.tw.irq = 0 ∧ d.tag.irq = 0

/-! ## Start-attempt words and Catalogue writes -/

/-- The value of the next start-attempt word: the fields `w`, the next serial (12 R516). -/
def nextWord (c : Chip) (w : StartWord) : Nat := startValue { w with serial := c.startWord.serial + 1 }

/-- A start-attempt word with the fields `w` has been written, or waits for the array or PFW_N, or finds the store exhausted (12 R518,
R519). -/
def WordIs (c : Chip) (w : StartWord) (d : Chip) : Prop :=
  if c.startWord.serial = 0x7FFFF then d.start.word = c.start.word ∧ d.start.wordsHeld = c.start.wordsHeld
  else if c.wordNow = true ∧ c.clk.pfw = false then
    d.start.word = nextWord c w ∧ d.start.wordsHeld = c.start.wordsHeld.erase (nextWord c w)
  else d.start.word = c.start.word ∧ d.start.wordsHeld = c.start.wordsHeld ++ [nextWord c w]

/-- The Catalogue serves: its store is loaded, nothing is open, and no write of this arbitration window has been taken. -/
def CatReady (c : Chip) : Prop := c.cat.loaded = true ∧ c.cat.taken = [] ∧ c.cat.txState ≠ 1 ∧ c.cat.txState ≠ 2

/-- The arbiter has taken a write of an object by a port (07 R310). -/
def tookWrite (p : Port) (idx sub : Nat) (c : Chip) : Chip :=
  { c with cat := { c.cat with taken := (c.cat.taken.filter fun e => e.1 = c.clk.raw / 400) ++ [(c.clk.raw / 400, 256 * idx + sub, p)] } }

/-! ## The time base -/

/-- Table 02-2 for a valid edge of ranks 1 to 3 with the phase error `e`, from the chip before it to the chip after it. -/
def ServoMoves (e : Int) (c d : Chip) : Prop :=
  let small : Bool := decide (e.natAbs ≤ 200)
  let steps (n : Nat) : Prop := d.time.steps = c.time.steps + n
  let stepped : Prop := d.time.sync = .acquiring ∧ steps 1 ∧ d.time.count = 0
  let trimmed : Prop := -200000 ≤ d.time.fcorr ∧ d.time.fcorr ≤ 200000
  d.time.pherr = e ∧ d.time.lastEdge = some c.clk.raw ∧
  match c.time.sync with
  | .free =>
    if 1000 ≤ e.natAbs then stepped
    else d.time.sync = .acquiring ∧ steps 0 ∧ d.time.count = (if small then 1 else 0) ∧ d.time.fcorr = c.time.fcorr
  | .acquiring =>
    let n := if small then c.time.count + 1 else 0
    if 1000000 ≤ e.natAbs then stepped
    else d.time.sync = (if 8 ≤ n then .locked else .acquiring) ∧ steps 0 ∧ d.time.slew = 2 * e ∧ d.time.count = n ∧ trimmed
  | .locked =>
    if 1000000 ≤ e.natAbs then stepped else d.time.sync = .locked ∧ steps 0 ∧ d.time.slew = 2 * e ∧ trimmed
  | .holdover =>
    if 1000000 ≤ e.natAbs then stepped
    else d.time.sync = (if 1 ≤ c.time.count then .locked else .holdover) ∧ steps 0 ∧ d.time.slew = 2 * e ∧
      d.time.count = c.time.count + 1 ∧ d.time.fcorr = c.time.fcorr

/-- The second that ToD, or PPS that carries a count on, names for the edge now (02 R49). -/
def ppsNames (c : Chip) : Option Nat :=
  match c.time.tod, c.time.rank3, c.time.lastPps with
  | some n, _, _ => some n
  | none, some n, some l => some ((n + (c.time.local_ - l + 200000000) / 400000000) % 17179869184)
  | _, _, _ => none

/-- A PPS edge comes 1 s ± 100 µs after the last valid one, or more than 2.5 s after it, or is the first (02 R50). -/
def PpsSpaced (c : Chip) : Prop :=
  ∀ l r, c.time.lastPps = some l → c.time.ppsRaw = some r →
    1000000000 < c.clk.raw - r ∨ ((c.time.local_ : Int) - l - 400000000).natAbs ≤ 40000

/-! ## Binary inputs and sealing -/

/-- The chip with another state of one binary input. -/
def withBi (n : Fin 24) (b : Bi) (c : Chip) : Chip := { c with acc := { c.acc with bis := c.acc.bis.set n b } }

/-- The chip with one more record whose time and phase are a candidate's (03 R95). -/
def logsAt (k : Cand) (kind src data : Nat) (c : Chip) : Chip :=
  let r : Record := { c.mkRecord kind src data with stamp := k.stamp, angle := k.angle, cycle := k.cycle, quality := k.quality }
  { c with acc := arose { rcd := r, tick := c.clk.raw, cls := clsBi, t0 := k.t0 } c.acc }

/-- The record that sealing makes of `r`: the next sequence number, the mark of an untested pairing, and the tag over its first
24 bytes and the tag before it (03 R112, R107). -/
def sealed (c : Chip) (key : Bytes) (mark : Bool) (r : Record) : Record :=
  let r := { r with seq := BitVec.ofNat 32 c.acc.nextSeq, quality := if mark then r.quality ||| 0x80 else r.quality }
  { r with tag := BitVec.ofNat 64 (beNat ((Crypto.cmac key (r.bytes.take 24 ++ beBytes 8 c.acc.prevTag.toNat)).take 8)) }

/-- Slot `n` holds a sound key that nothing strikes. -/
def HasKey (c : Chip) (n : Nat) (k : KeySlot) : Prop :=
  c.slotOf n = some k ∧ k.inv = k.key.map (~~~ ·) ∧ c.vlt.keyFaults.contains (16 + n) = false

/-! ## The host port and orders -/

/-- A host frame that ends now is judged: the port is open and the frame did not begin in busy time (08 R357). -/
def HostTakes (c : Chip) : Prop :=
  c.host.open_ = true ∧ (c.host.frame = some false ∨ (c.host.frame = none ∧ c.host.busy = none))

/-- The host port with one more frame judged; `busy` is the command whose answer is owed (08 R356). -/
def framed (busy : Option Byte) (c : Chip) : Chip :=
  { c with host := { c.host with
    frame := none, driven := [], attention := none, frames := c.host.frames + 1, irq := c.host.irq ||| 1, idleSince := c.clk.raw, busy := busy } }

/-- A frame judged and its command answered at once in the immediate slot. -/
def answered (status : Byte) (cmd : Byte) (payload : Bytes) (c : Chip) : Chip :=
  let d := framed none c
  { d with host := { d.host with imm := some { status, cmd, payload } } }

/-- Entry `e` alone holds an order. -/
def OnlyHeld (c : Chip) (e : Fin 16) (h : Held) : Prop :=
  c.ord.hold[e] = some h ∧ (∀ f : Fin 16, f ≠ e → c.ord.hold[f] = none) ∧ c.ord.loose = []

/-- The policy and the key let a message through to the later checks of 04 Table 04-2: checks 1 to 5. -/
def Authentic (c : Chip) (m : OrderMsg) (k : KeySlot) : Prop :=
  let n := msgKey m.bytes
  let pol := c.cfg 0x4000 (8 + n.val)
  c.start.mode ≠ 2 ∧ c.clk.pfw = false ∧ c.ord.ven = true ∧ c.start.life ≠ .retd ∧ pol.testBit 15 = true ∧
  pol.testBit (8 + orderPort m.port) = true ∧ Chip.keyUnavailable c.ord.keys[n] = false ∧ HasKey c (3 + n.val) k ∧
  (Crypto.cmac k.key (m.bytes.take 32)).take 8 = slice m.bytes 32 8

/-! ## The Conservator -/

/-- The chip with another state of one flash window. -/
def setWin (w : CoreId) (x : FlashWin) (c : Chip) : Chip :=
  { c with cns := match w with | .curator => { c.cns with cwin := x } | .registrar => { c.cns with rwin := x } }

/-- A window command ends with a result, and the Curator's sets CDONE (05 Table 05-11). -/
def winEnds (w : CoreId) (res : Byte) (c : Chip) : Chip :=
  { c with cns := match w with
    | .curator => { c.cns with cwin := { c.cns.cwin with res := res }, irq := c.cns.irq ||| 1 }
    | .registrar => { c.cns with rwin := { c.cns.rwin with res := res } } }

/-- As `winEnds`; the result of a command that a Curator reset orphaned is not kept (05 R248). -/
def winShows (w : CoreId) (res : Byte) (c : Chip) : Chip :=
  if w = .curator ∧ c.cns.cwinOrphan = true then
    { c with cns := { c.cns with cwinOrphan := false, cwin := { c.cns.cwin with res := 0 } } }
  else winEnds w res c

/-- The Registrar has one more command of its own for its window, which shows 0x12 under PFW_N where it has nothing under way (05 R229,
R752). -/
def awaits (o : FlashOp) (c : Chip) : Chip :=
  let d := { c with cns := { c.cns with rjobs := c.cns.rjobs ++ [o] } }
  if c.clk.pfw = true ∧ c.cns.rwin.res ∉ ([1, 2, 3] : List Byte) then winEnds .registrar 0x12 d else d

/-- An image slot can be read at once, and no word of it reports (05 R217 to R220, R237). -/
def SlotReads (c : Chip) (kind slot : Nat) : Prop :=
  let h := c.slotHeader kind slot
  c.cns.run = none ∧ c.slotWaits kind slot = false ∧
  c.markedWords (slotBase kind slot) (if headerOk h = true then min (slotSize kind) (256 + hdrBody h) else 256) = []

/-- The Conservator once the array is free again: a pre-erase that is suspended and guarded resumes (05 R222). -/
def freed (c : Chip) : Cns :=
  match c.cns.susp with
  | some (.preErase b) =>
    if c.cns.ahead = 0 then { c.cns with susp := none, run := some { op := .preErase b, guarded := true, nested := false } }
    else { c.cns with run := none }
  | _ => { c.cns with run := none }

/-- The initiator that owns the window and the channels of a core. -/
def ownerOf : CoreId → Init
  | .curator => .curator
  | .registrar => .registrar

/-- A window takes commands: none is queued, running or suspended, and none outlived a Curator reset. -/
def WinFree (c : Chip) (w : CoreId) : Prop :=
  ((c.win w).res = 0 ∨ 4 ≤ (c.win w).res.toNat) ∧ c.cns.cwinOrphan = false

/-! ## The Vault -/

/-- The chip with another state of one channel. -/
def setChan (ch : CoreId) (x : VaultChan) (c : Chip) : Chip :=
  { c with vlt := match ch with | .curator => { c.vlt with cch := x } | .registrar => { c.vlt with rch := x } }

/-- What a channel's registers and IN buffer ask for. -/
def jobOf (ch : CoreId) (cmd : Nat) (x : VaultChan) : VaultJob :=
  { ch, cmd, slot := x.slot.toNat, flags := x.flags.toNat, len := x.len.toNat
    attr := match ch with | .curator => x.attr.toNat | .registrar => 0
    iv := x.iv.read 0 0 16, key := match ch with | .curator => x.key.read 0 0 32 | .registrar => []
    inp := x.inp.read 0 0 256, orphan := false }

/-- A channel takes a command from its owner alone: free, it queues what it holds in the order of 06 R271, and clears KEY where it was
loaded from; busy, it ignores the command. -/
def TakesJob (s : State) (i : Init → CoreId → Instr) (ch : CoreId) (cmd : Nat) : Prop :=
  let x := s.dev.chip.chan ch
  (x.res ≠ 1 → x.res ≠ 2 → Becomes s (i (ownerOf ch) ch) fun c =>
    let y : VaultChan := { x with res := 1, key := if cmd = 0x10 ∧ ch = .curator then [] else x.key }
    let d := setChan ch y c
    { d with vlt := { d.vlt with jobs := Chip.queueJob c.jobRuns (jobOf ch cmd x) c.vlt.jobs } }) ∧
  ((x.res = 1 ∨ x.res = 2) → Becomes s (i (ownerOf ch) ch) id) ∧
  ∀ a, a ≠ ownerOf ch → Becomes s (i a ch) id

/-- Job `j` leaves its engine: result, OUT and chain of its channel, and the done bit (06 Table 06-7). -/
def jobEnds (j : VaultJob) (res : Byte) (out : Bytes) (chain : Option Chain) (c : Chip) : Chip :=
  let d := setChan j.ch { c.chan j.ch with res := res, out := Cells.write 0 [] 0 out, chain := chain } c
  { d with vlt := { d.vlt with
    jobs := c.vlt.jobs.erase j, irq := c.vlt.irq ||| (match j.ch with | .curator => 1 | .registrar => 2) } }

/-- Job `j` is the first of its engine, which checkpoint signing does not hold (06 R271), and its channel is still its owner's. -/
def AtEngine (c : Chip) (j : VaultJob) : Prop :=
  c.vlt.jobs.find? (fun x => Chip.engineOf x.cmd = Chip.engineOf j.cmd) = some j ∧ j.orphan = false ∧
  (Chip.engineOf j.cmd = .ecc → c.acc.ckSign = none ∨ (c.chan j.ch).res = 2)

/-- What a chained command goes on from (06 R276): nothing at FIRST, else what the chain of the same command and slot holds. -/
def GoesOn (c : Chip) (j : VaultJob) (acc : Bytes) : Prop :=
  if j.flags.testBit 0 then acc = [] else (c.chan j.ch).chain = some { cmd := j.cmd, slot := j.slot, acc := acc }

/-- The attribute word of a slot lets a channel use it as `bit` and with one of the types `ts` (06 Table 06-4). -/
def MayUse (ch : CoreId) (k : KeySlot) (bit : Nat) (ts : List Nat) : Prop :=
  k.attr.toNat.testBit bit = true ∧ k.attr.toNat.testBit (match ch with | .curator => 12 | .registrar => 13) = true ∧
  k.attr.toNat.testBit 14 = false ∧ k.attr.toNat / 256 % 4 ∈ ts

/-! ## CAN, two-wire and contactless -/

/-- A data frame in the base format with an identifier (09 R382). -/
def Heads (h : CanHead) (id : Nat) : Prop := h.ext = false ∧ h.rtr = false ∧ h.id = id

/-- A request frame of a bus, FD, with the request identifier and the fields of 09 Table 09-3, and with a TID that no remembered frame
and none still owed its answer has. -/
def CapFrame (c : Chip) (b : Bool) (h : CanHead) (data : Bytes) (cmd : Byte) : Prop :=
  (c.ctl b).live = true ∧ Heads h (c.can.base + c.can.node) ∧ c.can.node ≠ 0 ∧ h.fd = true ∧ 8 ≤ data.length ∧
  Chip.canLength true data.length = true ∧ data.getD 0 0 = cmd ∧
  ∀ e ∈ c.can.dup ++ c.can.owed, e.data.getD 1 0 ≠ data.getD 1 0

/-- A correct frame is acknowledged; one that the controller takes is counted (09 R388). -/
def heard (b counts : Bool) : Chip → Chip :=
  Chip.modCtl b fun k => { k.received with acked := true, rx := if counts then k.rx + 1 else k.rx }

/-- The frame taken: counted, and remembered with the response it has, among the last sixteen; one that gives way and has no answer yet
is owed it (09 R399, R400). -/
def capTaken (b : Bool) (data : Bytes) (resp : Option Bytes) (c : Chip) : Chip :=
  let d := heard b true c
  let l := c.can.dup ++ [{ data := data, bus := b, tick := c.clk.raw, resp := resp, waiting := [] }]
  let first := c.can.dup ++ [{ data := data, bus := b, tick := c.clk.raw, resp := none, waiting := [] }]
  { d with can := { d.can with
    taken := c.can.taken + 1, dup := l.drop (l.length - 16)
    owed := c.can.owed ++ c.can.dup.filter fun e => e.resp.isNone && !(first.drop (l.length - 16)).contains e } }

/-- The frame taken and its response waiting for the bus. -/
def capAnswered (b : Bool) (data resp : Bytes) (c : Chip) : Chip :=
  Chip.modCtl b (fun k => { k with txq := k.txq ++ [resp] }) (capTaken b data (some resp) c)

/-- A response of 09 Table 09-3 to the frame `data`: head 0x80 for a value, 0xC0 for an abort, with its field of bytes 5 and 6. -/
def capReply (data : Bytes) (head field : Nat) (value : Bytes) : Bytes :=
  capResponse head (data.getD 0 0) (data.getD 1 0) (leAt data 2 2) (data.getD 4 0).toNat field (data.getD 7 0).toNat value

/-- The segmented transfer of a CAN frame. -/
def CapOwns (c : Chip) (data : Bytes) (write : Bool) (x : Segment) : Prop :=
  c.can.seg = some x ∧ x.write = write ∧ x.tid = data.getD 1 0 ∧ x.idx = leAt data 2 2 ∧ x.sub = (data.getD 4 0).toNat

/-- The two-wire target with a transaction ended: at a STOP it takes the settings last applied (09 R407, R408, R420). -/
def twServed (stop : Bool) (c : Chip) (t : TwoWire) : TwoWire :=
  if stop && c.cat.loaded then { t with filter := c.cfg 0x7200 3, holdT := c.cfg 0x7200 4, setup := c.cfg 0x7200 5 } else t

/-- Layer 4 at its end: the overlay closed and everything of the session gone (10 R437, R440, R443). -/
def sessionEnds (l : Layer) (t : Tag) : Tag :=
  { t with
    session := t.session + 1, layer := l, level1 := false, overlay := .closed, tx212 := false, rx212 := false, cid := 0, fsd := 0
    ppsOk := false, selected := false, rndR := [], rndT := [], authPend := false, ks := [], n := 0, out := [], delayed := none
    waitCat := none, waitRead := none, wtxm := 1, wtxOut := false, sent := [], blk := true }

/-- A tag command passes the checks of 10 Table 10-6 and R441 down to its own: `data` is its data without the MAC. -/
def TagHears (c : Chip) (a : Apdu) (ins : Byte) (data : Bytes) : Prop :=
  c.tagOpen = true ∧ c.tag.layer = .layer4 ∧ c.tagWaits = false ∧ a.ins = ins ∧ a.cla = (if ins = 0xA4 then 0x00 else 0x80) ∧
  Chip.tagParamsOk a = true ∧ a.lc = a.data.length ∧ data.length = Chip.tagDataLen ins ∧
  (if c.tag.overlay = .securedA then
    ∃ m : Bytes, m.length = 8 ∧ a.data = data ++ m ∧ m = c.cmdMac (c.tag.n + 1) a data
  else a.data = data) ∧
  (ins = 0x20 ∨ ins = 0xA2 → c.tag.fails < 3) ∧ Chip.tagAllowed ins c.tag.overlay = true ∧ (ins ≠ 0xA4 → c.tag.selected = true)

/-- The chip as the body of command `a` finds it: its blocks have arrived, and a session in SECURED-A counts it. -/
def tagHeard (a : Apdu) (c : Chip) : Chip :=
  { c with tag := Chip.tagBlocksIn a.chained { c.tag with
    ppsOk := false, authPend := false, blockEnd := c.tag.clock, sent := []
    n := if c.tag.overlay = .securedA then c.tag.n + 1 else c.tag.n } }

/-- The engine answers, in blocks within the reader's frame size: data, the MAC that a session in SECURED-A owes, and the status word. -/
def tagSays (a : Apdu) (data : Bytes) (sw : Nat) (c : Chip) : Chip :=
  c.tagSend (c.tagBytes a data sw (c.tag.overlay = .securedA))

/-- The engine may read the slots and chunks `l` at once: alone, or beside a main domain that permits them, with the array idle. -/
def TagReadsNow (c : Chip) (l : List (Nat × Nat)) : Prop :=
  c.mainUp = false ∨ (c.tagReads l = none ∧ c.cns.run = none ∧ ∀ b ∈ Chip.tagFlashBlocks l, c.underErase b = false)

/-- The chip with those reads made: beside a main domain, those of flash put off a suspended erase (05 R219) and report the words they
meet. -/
def tagRead (l : List (Nat × Nat)) (c : Chip) : Chip :=
  if c.mainUp then
    let f := l.filter fun x => decide (0x20000000 ≤ x.1)
    f.foldl (fun d x => d.touchFlash (x.1 - 0x20000000) x.2)
      (if f = [] then c else { c with cns := { c.cns with lastRead := c.clk.raw } })
  else c

/-! ## Jarley instructions -/

def otherCore : CoreId → CoreId
  | .curator => .registrar
  | .registrar => .curator

/-- Core `w` issues an instruction of `words` words now: it runs, it can fetch, no breakpoint and no debug halt is due. -/
def CanRun (s : State) (w : CoreId) (words : Nat) : Prop :=
  s.dev.chip.asks = [] ∧ s.dev.canIssue w words = true ∧ s.dev.atBreakpoint w = false ∧ s.dev.fetchFails w words = none ∧
  (s.dev.core w).stepping = false ∧ (s.dev.core w).haltReq = false

/-- The core as its next instruction reads it (14 R622). -/
def operandsOf (s : State) (w : CoreId) : Core := (s.dev.core w).arrive

/-- The address after an instruction of `words` words that does not branch: the next word, or the target of a branch
whose second delay slot it stands in (14 R623). -/
def seqPc (k : Core) (words : Nat) : Half :=
  match k.branch with
  | some (0, some t) => t
  | some (1, some t) => t
  | _ => k.pc + BitVec.ofNat 16 (2 * words)

/-- The delay slots left after such an instruction. -/
def seqSlots (k : Core) : Option (Nat × Option Half) :=
  match k.branch with
  | some (n + 2, t) => some (n + 1, t)
  | _ => none

/-- What no ALU instruction changes of its core: everything but registers, ST, results in flight, and progress. -/
def CoreFrame (k k' : Core) : Prop :=
  k'.complete.wt = k.complete.wt ∧ k'.complete.vbase = k.complete.vbase ∧ k'.fwt = k.fwt ∧ k'.trap = k.trap ∧
  k'.lock = k.lock ∧ k'.rsLost = k.rsLost ∧ k'.stack = k.stack ∧ k'.alarm = k.alarm ∧ k'.wbuf = k.wbuf ∧
  k'.frozen = k.frozen ∧ k'.waiting = k.waiting ∧ k'.halted = k.halted ∧ k'.haltReq = k.haltReq ∧
  k'.stepping = k.stepping ∧ k'.running = k.running

/-- A core has gone on in sequence past an instruction of `words` words. -/
def Advanced (words : Nat) (k k' : Core) : Prop :=
  k'.pc = seqPc k words ∧ k'.branch = seqSlots k ∧ k'.longMid = false ∧ k'.slot = k.slot + 1

/-- What a result does to the flags: C (none: unchanged), Z, N, V. -/
abbrev FlagEffect := Option Bool × Bool × Bool × Bool

/-- ST of `k'` is that of `k` with the flags of `f`; no `f`, no change. -/
def FlagsAre (f : Option FlagEffect) (k k' : Core) : Prop :=
  match f with
  | none => k'.st = k.st
  | some (c, z, n, v) =>
    flagC k'.st = c.getD (flagC k.st) ∧ flagZ k'.st = z ∧ flagN k'.st = n ∧ flagV k'.st = v ∧
    k'.st &&& 0xFFF0 = k.st &&& 0xFFF0

/-- The registers of `k'` are those of `k` but for the listed ones. -/
def RegsAre (l : List (Fin 16 × Byte)) (k k' : Core) : Prop :=
  ∀ r : Fin 16, k'.byte r = ((l.find? fun e => e.1 == r).map Prod.snd).getD (k.byte r)

/-- Instruction `i` completes on core `w` and leaves the chip `c'`: once the producers in flight have landed, the listed
registers and the flags have the given values and everything else is as it would be without the instruction, but for the
stores `stored` that it puts into the buffer. No register and no flag changes at once: what it writes to a register lands for
the instruction `dist` of it slots later, the flags for the second. -/
def ComputesWith (s : State) (i : Instr) (w : CoreId) (words : Nat) (c' : Chip) (dist : Fin 16 → Nat) (regs : List (Fin 16 × Byte))
    (f : Option FlagEffect) (stored : List BufStore) : Prop :=
  ∃ t, exec i s = .next t ∧
    t.pending = s.pending ∧ t.dev.core (otherCore w) = s.dev.core (otherCore w) ∧ t.dev.chip = c' ∧
    (t.dev.core w).regs = (operandsOf s w).regs ∧ (t.dev.core w).st = (operandsOf s w).st ∧
    RegsAre regs (operandsOf s w).complete (t.dev.core w).complete ∧
    FlagsAre f (operandsOf s w).complete (t.dev.core w).complete ∧
    CoreFrame { operandsOf s w with wbuf := (operandsOf s w).wbuf ++ stored } (t.dev.core w) ∧
    Advanced words (s.dev.core w) (t.dev.core w) ∧
    ∀ l ∈ (t.dev.core w).flight, l ∈ (operandsOf s w).flight ∨
      l.due = (s.dev.core w).slot + (match l.target with | .reg r => dist r | _ => 2)

/-- The same for an instruction that only its fetch takes to the bus, with one distance for its registers. -/
def Computes (s : State) (i : Instr) (w : CoreId) (words dist : Nat) (regs : List (Fin 16 × Byte)) (f : Option FlagEffect) : Prop :=
  ComputesWith s i w words (Chip.fetched w (s.dev.core w) words s.dev.chip) (fun _ => dist) regs f []

/-! ### Results as 15 R647 to R652 give them: the value, and C, Z, N and V -/

def sumOf {w : Nat} (a b : BitVec w) (y : Bool) : BitVec w × FlagEffect :=
  let v := BitVec.ofNat w (a.toNat + b.toNat + bit y)
  (v, some (decide (2 ^ w ≤ a.toNat + b.toNat + bit y)), v == 0, v.msb,
    decide (a.toInt + b.toInt + bit y < -(2 : Int) ^ (w - 1) ∨ (2 : Int) ^ (w - 1) ≤ a.toInt + b.toInt + bit y))

/-- C is the borrow. -/
def differenceOf {w : Nat} (a b : BitVec w) (y : Bool) : BitVec w × FlagEffect :=
  let v := BitVec.ofInt w ((a.toNat : Int) - b.toNat - bit y)
  (v, some (decide (a.toNat < b.toNat + bit y)), v == 0, v.msb,
    decide (a.toInt - b.toInt - bit y < -(2 : Int) ^ (w - 1) ∨ (2 : Int) ^ (w - 1) ≤ a.toInt - b.toInt - bit y))

def logicOf {w : Nat} (v : BitVec w) : BitVec w × FlagEffect := (v, some false, v == 0, v.msb, false)

/-- A shift or rotate by `n` with result `v`: C is the last bit moved out, and stays for a count of 0. -/
def shiftedOf {w : Nat} (v : BitVec w) (n : Nat) (last : Bool) : BitVec w × FlagEffect :=
  (v, (if n = 0 then none else some last), v == 0, v.msb, false)

def leftOf {w : Nat} (a : BitVec w) (n : Nat) : BitVec w × FlagEffect :=
  shiftedOf (BitVec.ofNat w (a.toNat * 2 ^ n)) n (a.getLsbD (w - n))
def rightOf {w : Nat} (a : BitVec w) (n : Nat) : BitVec w × FlagEffect :=
  shiftedOf (BitVec.ofNat w (a.toNat / 2 ^ n)) n (a.getLsbD (n - 1))
def arithOf {w : Nat} (a : BitVec w) (n : Nat) : BitVec w × FlagEffect :=
  shiftedOf (BitVec.ofInt w (a.toInt / 2 ^ n)) n (a.getLsbD (n - 1))
def rotLeftOf {w : Nat} (a : BitVec w) (n : Nat) : BitVec w × FlagEffect :=
  shiftedOf (a <<< n ||| a >>> (w - n)) n (a.getLsbD (w - n))
def rotRightOf {w : Nat} (a : BitVec w) (n : Nat) : BitVec w × FlagEffect :=
  shiftedOf (a >>> n ||| a <<< (w - n)) n (a.getLsbD (n - 1))

/-- The bytes of a pair with their registers. -/
def pairBytes (d : Fin 8) (v : Half) : List (Fin 16 × Byte) := [(loReg d, v.setWidth 8), (hiReg d, (v >>> 8).setWidth 8)]

/-- The bytes of a quad. -/
def quadBytes (d : Fin 8) (v : Word) : List (Fin 16 × Byte) :=
  pairBytes (d + 1) ((v >>> 16).setWidth 16) ++ pairBytes d (v.setWidth 16)

/-- `i` writes byte register `d` and the flags. -/
def SetsByte (s : State) (i : Instr) (w : CoreId) (words : Nat) (d : Fin 16) (r : Byte × FlagEffect) : Prop :=
  Computes s i w words 2 [(d, r.1)] (some r.2)

/-- `i` writes pair `d` and the flags. -/
def SetsPair (s : State) (i : Instr) (w : CoreId) (words : Nat) (d : Fin 8) (r : Half × FlagEffect) : Prop :=
  Computes s i w words 2 (pairBytes d r.1) (some r.2)

/-- `i` writes the flags alone. -/
def SetsFlags {n : Nat} (s : State) (i : Instr) (w : CoreId) (words : Nat) (r : BitVec n × FlagEffect) : Prop :=
  Computes s i w words 2 [] (some r.2)

/-! ### Loads, stores and the bytes of SRAM -/

/-- `n` bytes at `p` lie in the core SRAMs. -/
def InSram (p n : Nat) : Prop := ∀ i < n, inCurSram (p + i) = true ∨ inRegSram (p + i) = true

/-- The registers that a load writes: the byte register, the pair, or the quad, least significant byte first (15 R646). -/
def loadedRegs (z : Size) (r : Fin 16) (b : Bytes) : List (Fin 16 × Byte) :=
  match z with
  | .pair => pairBytes (fieldPair r) (BitVec.ofNat 16 (leNat b))
  | .quad => quadBytes (fieldPair r) (BitVec.ofNat 32 (leNat b))
  | _ => [(r, b.getD 0 0)]

/-- The bytes that a store takes, least significant first. -/
def storedBytes (k : Core) (z : Size) (r : Fin 16) : Bytes :=
  match z with
  | .pair => [k.byte (loReg (fieldPair r)), k.byte (hiReg (fieldPair r))]
  | .quad => [k.byte (loReg (fieldPair r)), k.byte (hiReg (fieldPair r)), k.byte (loReg (fieldPair r + 1)), k.byte (hiReg (fieldPair r + 1))]
  | _ => [k.byte r]

/-- The pointer of a post-increment, moved on by the size; no entry without one. -/
def movedPtr (k : Core) (z : Size) (p : Fin 8) (post : Bool) : List (Fin 16 × Byte) :=
  if post then pairBytes p (k.pair p + BitVec.ofNat 16 (sizeBytes z)) else []

/-- Distances of a load: 3 for its result and 2 for the pointer. -/
def loadDist (z : Size) (r : Fin 16) (q : Fin 16) : Nat := if ((loadedRegs z r []).any fun e => e.1 == q) then 3 else 2

/-- The byte that an allowed load from the core's own SRAM gives: the newest buffered store, or what the SRAM holds. -/
def ownByte (c : Chip) (w : CoreId) (k : Core) (a : Half) : Option Byte :=
  match dataPlace k a.toNat 1 with
  | .ok (.phys p) =>
    if ownSram w p ∧ c.judge (coreNo w) .read p false = 0 then some ((bufByte k.wbuf p).getD (c.memByte p)) else none
  | _ => none

/-- The pair of bytes at an even address, in the same way. -/
def ownPair (c : Chip) (w : CoreId) (k : Core) (a : Half) : Option Half :=
  match dataPlace k a.toNat 2 with
  | .ok (.phys p) =>
    if ownSram w p ∧ c.judge (coreNo w) .read p false = 0 then
      some (BitVec.ofNat 16 (((bufByte k.wbuf p).getD (c.memByte p)).toNat + 256 * ((bufByte k.wbuf (p + 1)).getD (c.memByte (p + 1))).toNat))
    else none
  | _ => none

/-- Where a byte store goes that the buffer has room for. -/
def storePlace (k : Core) (a : Half) : Option Nat :=
  match dataPlace k a.toNat 1 with
  | .ok (.phys p) => if k.wbuf.length < 4 then some p else none
  | _ => none

/-- The core with one more buffered byte. -/
def withStore (p : Nat) (b : Byte) (k : Core) : Core := { k with wbuf := k.wbuf ++ [{ addr := p, bytes := [b], fromRom := romFetched k }] }

/-- A long instruction leaves core `w` as `k`, at its end (`last`) or between two elements, where PC stays, LP is set and the
instruction goes on when it issues again (15 R667, R668). -/
def LongLeaves (s : State) (i : Instr) (w : CoreId) (k : Core) (last : Bool) : Prop :=
  ∃ t, exec i s = .next t ∧
    t.pending = s.pending ∧ t.dev.core (otherCore w) = s.dev.core (otherCore w) ∧
    t.dev.chip = Chip.fetched w (s.dev.core w) 1 s.dev.chip ∧
    t.dev.core w = { k with
      pc := if last then (s.dev.core w).pc + 2 else (s.dev.core w).pc, st := stBit 4 (!last) k.st, branch := none, longMid := !last
      slot := (s.dev.core w).slot + 1, pastBp := !last, cycle := (t.dev.core w).cycle }

/-! ### Branches, returns and entries -/

/-- The conditions of 15 Table 15-6 over C, Z, N and V. -/
def Taken (cond : Fin 16) (c z n v : Bool) : Prop :=
  match cond.val with
  | 0 => True
  | 1 => z = true
  | 2 => z = false
  | 3 => c = true
  | 4 => c = false
  | 5 => n = true
  | 6 => n = false
  | 7 => v = true
  | 8 => v = false
  | 9 => c = false ∧ z = false
  | 10 => c = true ∨ z = true
  | 11 => n = v
  | 12 => n ≠ v
  | 13 => z = false ∧ n = v
  | 14 => z = true ∨ n ≠ v
  | _ => False

/-- `i` of `words` words begins two delay slots, after which core `w` goes on at `target` (none: in sequence); the return
stack and RSCTL.LOST become `stack` and `lost`, and nothing else of the core changes but its progress. -/
def Delays (s : State) (i : Instr) (w : CoreId) (words : Nat) (target : Option Half) (stack : List StackEntry) (lost : Bool) : Prop :=
  ∃ t, exec i s = .next t ∧
    t.pending = s.pending ∧ t.dev.core (otherCore w) = s.dev.core (otherCore w) ∧
    t.dev.chip = Chip.fetched w (s.dev.core w) words s.dev.chip ∧
    t.dev.core w = { operandsOf s w with
      pc := (s.dev.core w).pc + BitVec.ofNat 16 (2 * words), branch := some (2, target), longMid := false
      slot := (s.dev.core w).slot + 1, pastBp := false, stack := stack, rsLost := lost, cycle := (t.dev.core w).cycle }

/-- The handler that vector `vec` names, when its place lies in the core's own SRAM, no buffered store waits and the read is
allowed: `k` is the core whose windows and buffer count, `vbase` its vector base. -/
def handlerAt (c : Chip) (w : CoreId) (k : Core) (vbase : Half) (vec : Nat) : Option Half :=
  match dataPlace k ((vbase.toNat + 4 * vec) % 65536) 2 with
  | .ok (.phys p) =>
    if ownSram w p ∧ k.wbuf = [] ∧ c.judge (coreNo w) .read p false = 0 then
      some (BitVec.ofNat 16 ((c.memByte p).toNat + 256 * (c.memByte (p + 1)).toNat))
    else none
  | _ => none

/-- Core `w` enters the handler at `h` at exception mask level `ml`, `exc` telling a fault from an interrupt: the entry
`e` is pushed, the producers in flight have completed, the fetch side has its copy of the windows (14 R607, R629; 16
R680, Table 16-2). -/
def Entered (k k' : Core) (h : Half) (ml : Nat) (fault : Bool) (e : StackEntry) : Prop :=
  k'.pc = h ∧ k'.stack = k.stack ++ [e] ∧ k'.regs = k.complete.regs ∧ k'.wt = k.complete.wt ∧ k'.vbase = k.complete.vbase ∧
  k'.flight = [] ∧ k'.fwt = k.complete.wt ∧ k'.branch = none ∧ k'.longMid = false ∧ k'.waiting = false ∧ k'.frozen = none ∧
  mlOf k'.st = ml ∧ k'.st.getLsbD 8 = fault ∧ k'.st.getLsbD 4 = false ∧ k'.st &&& 0xFE0F = k.complete.st &&& 0xFE0F ∧
  k'.alarm = k.alarm ∧ k'.trap = k.trap ∧ k'.lock = k.lock ∧ k'.rsLost = k.rsLost ∧ k'.wbuf = k.wbuf ∧ k'.running = k.running ∧
  k'.halted = k.halted ∧ k'.haltReq = k.haltReq ∧ k'.stepping = k.stepping

/-- A fault of core `w` can be entered at once: ML is below 6, the return stack has room, and the handler of `vec` is `h`. -/
def CanFault (s : State) (w : CoreId) (vec : Nat) (h : Half) : Prop :=
  mlOf (operandsOf s w).st < 6 ∧ (s.dev.core w).stack.length < 16 ∧ h.getLsbD 0 = false ∧
  handlerAt s.dev.chip w (operandsOf s w).complete (operandsOf s w).vbase vec = some h

/-- `i` raises the fault `f` on core `w`: the interrupted PC and ST are saved, VIT_FCAUSE and VIT_FPC say what and where, with
VIT_FADDR for the vectors that have an address, and the core stands at the handler (16 R674, R680, Table 16-10). -/
def Faults (s : State) (i : Instr) (w : CoreId) (f : FaultInfo) (h : Half) : Prop :=
  ∃ t, exec i s = .next t ∧
    t.pending = s.pending ∧ t.dev.core (otherCore w) = s.dev.core (otherCore w) ∧
    ChipOnly [.clk, .cns, .acc, .rgr, .vit] s.dev.chip t.dev.chip ∧
    Entered (operandsOf s w) (t.dev.core w) h 6 true
      { pc := (s.dev.core w).pc, st := (operandsOf s w).complete.st, exc := true } ∧
    t.dev.chip.excView w = { s.dev.chip.excView w with
      fcause := BitVec.ofNat 8 (f.vec + 64 * bit (s.dev.core w).branch.isSome), fpc := (s.dev.core w).pc
      fsrc := if f.vec = 9 then BitVec.ofNat 8 f.src else (s.dev.chip.excView w).fsrc
      faddr := match f.addr with | some a => BitVec.ofNat 32 a | none => (s.dev.chip.excView w).faddr }

/-! ## The invariant of the cores -/

/-- A return-stack entry as 14 R615 lays it out: an even PC, and ST without its reserved bits. -/
def StackEntry.Wf (e : StackEntry) : Prop := e.pc.getLsbD 0 = false ∧ e.st &&& 0xFE00 = 0

/-- No result for a register lands before an earlier-issued one for the same register (14 R625), and none is further
away than the longest distance of its kind (14 Table 14-5). -/
def FlightWf (k : Core) : Prop :=
  k.flight.Pairwise (fun a b => a.target = b.target → a.due ≤ b.due) ∧
  ∀ l ∈ k.flight, l.due < k.slot + (match l.target with
    | .reg _ => 3 | .flagC | .flagZ | .flagN | .flagV => 2 | .ml | .vbase | .wt _ => 4)

/-- What the spec fixes of a core's registers: PC and branch targets even, reserved bits of ST, VBASE and the window
entries 0, at most sixteen general entries and four buffered stores, results in flight in order. -/
def Core.Wf (k : Core) : Prop :=
  k.pc.getLsbD 0 = false ∧ k.st &&& 0xFE00 = 0 ∧ k.vbase &&& 0x00FF = 0 ∧
  (∀ n : Fin 15, k.wt[n] &&& 0x7FF00000 = 0) ∧ (∀ n : Fin 15, k.fwt[n] &&& 0x7FF00000 = 0) ∧
  k.stack.length ≤ 16 ∧ (∀ e ∈ k.stack, e.Wf) ∧ (∀ e ∈ k.alarm, e.Wf) ∧
  (∀ n a, k.branch = some (n, some a) → a.getLsbD 0 = false) ∧ k.wbuf.length ≤ 4 ∧ FlightWf k

/-- Both cores. -/
def State.CoresWf (s : State) : Prop := s.dev.cur.Wf ∧ s.dev.reg.Wf

end Sys2Proof.Machine
end

