-- ==== Sys2Proof/Certificates/Slice0/Obligations.lean ====
section
/-! DEFINITION. The statements for the provers. -/

open Sys2Proof Sys2Proof.Machine

/-! ## Jarley -/

/-- 15 R647, R648: the byte ALU on two registers writes bd and the flags; CMP and TST write the flags alone; MOV none. -/
def Obligations.ByteArithmetic : Prop :=
  ∀ (s : State) (c : CoreId) (d x : Fin 16), CanRun s c 1 →
    let k := operandsOf s c
    let a := k.byte d
    let b := k.byte x
    let y := flagC k.st
    Computes s (.mov c d x) c 1 2 [(d, b)] none ∧
    SetsByte s (.add c d x) c 1 d (sumOf a b false) ∧
    SetsByte s (.adc c d x) c 1 d (sumOf a b y) ∧
    SetsByte s (.sub c d x) c 1 d (differenceOf a b false) ∧
    SetsByte s (.sbc c d x) c 1 d (differenceOf a b y) ∧
    SetsByte s (.and c d x) c 1 d (logicOf (a &&& b)) ∧
    SetsByte s (.or c d x) c 1 d (logicOf (a ||| b)) ∧
    SetsByte s (.xor c d x) c 1 d (logicOf (a ^^^ b)) ∧
    SetsFlags s (.cmp c d x) c 1 (differenceOf a b false) ∧
    SetsFlags s (.tst c d x) c 1 (logicOf (a &&& b))

/-- 15 R649: the byte shifts and rotates take their count from bits 2:0 of bs. -/
def Obligations.ByteShifts : Prop :=
  ∀ (s : State) (c : CoreId) (d x : Fin 16), CanRun s c 1 →
    let k := operandsOf s c
    let a := k.byte d
    let n := (k.byte x).toNat % 8
    SetsByte s (.shl c d x) c 1 d (leftOf a n) ∧
    SetsByte s (.shr c d x) c 1 d (rightOf a n) ∧
    SetsByte s (.asr c d x) c 1 d (arithOf a n) ∧
    SetsByte s (.rol c d x) c 1 d (rotLeftOf a n) ∧
    SetsByte s (.ror c d x) c 1 d (rotRightOf a n)

/-- 15 R647 to R649: the pair ALU on two pairs. -/
def Obligations.PairArithmetic : Prop :=
  ∀ (s : State) (c : CoreId) (d x : Fin 8), CanRun s c 1 →
    let k := operandsOf s c
    let a := k.pair d
    let b := k.pair x
    let y := flagC k.st
    let n := (k.byte (loReg x)).toNat % 16
    Computes s (.movw c d x) c 1 2 (pairBytes d b) none ∧
    SetsPair s (.addw c d x) c 1 d (sumOf a b false) ∧
    SetsPair s (.adcw c d x) c 1 d (sumOf a b y) ∧
    SetsPair s (.subw c d x) c 1 d (differenceOf a b false) ∧
    SetsPair s (.sbcw c d x) c 1 d (differenceOf a b y) ∧
    SetsPair s (.andw c d x) c 1 d (logicOf (a &&& b)) ∧
    SetsPair s (.orw c d x) c 1 d (logicOf (a ||| b)) ∧
    SetsPair s (.xorw c d x) c 1 d (logicOf (a ^^^ b)) ∧
    SetsFlags s (.cmpw c d x) c 1 (differenceOf a b false) ∧
    SetsFlags s (.tstw c d x) c 1 (logicOf (a &&& b)) ∧
    SetsPair s (.shlw c d x) c 1 d (leftOf a n) ∧
    SetsPair s (.shrw c d x) c 1 d (rightOf a n) ∧
    SetsPair s (.asrw c d x) c 1 d (arithOf a n)

/-- 15 R648, R650, R651: the multiplications land at distance 3 and the extensions at distance 2; none writes a flag. -/
def Obligations.MultiplyAndExtend : Prop :=
  ∀ (s : State) (c : CoreId), CanRun s c 1 →
    let k := operandsOf s c
    (∀ d x : Fin 8, d.val % 2 = 0 →
      Computes s (.mulw c d x) c 1 3 (quadBytes d (BitVec.ofNat 32 ((k.pair d).toNat * (k.pair x).toNat))) none) ∧
    (∀ (d : Fin 8) (x y : Fin 16),
      Computes s (.mul c false d x y) c 1 3 (pairBytes d (BitVec.ofNat 16 ((k.byte x).toNat * (k.byte y).toNat))) none ∧
      Computes s (.mul c true d x y) c 1 3 (pairBytes d (BitVec.ofInt 16 ((k.byte x).toInt * (k.byte y).toInt))) none) ∧
    (∀ d : Fin 8,
      Computes s (.sxt c d 0) c 1 2 [(hiReg d, if (k.byte (loReg d)).getLsbD 7 then 0xFF else 0)] none ∧
      Computes s (.zxt c d 0) c 1 2 [(hiReg d, 0)] none)

/-- 15 R652: the byte immediates; the first three have one word and the others two. -/
def Obligations.ByteImmediates : Prop :=
  ∀ (s : State) (c : CoreId) (d : Fin 16) (b : Byte),
    let k := operandsOf s c
    let a := k.byte d
    let y := flagC k.st
    (CanRun s c 1 →
      Computes s (.movi c d b) c 1 2 [(d, b)] none ∧
      SetsByte s (.addi c d b) c 1 d (sumOf a b false) ∧
      SetsFlags s (.cmpi c d b) c 1 (differenceOf a b false)) ∧
    (CanRun s c 2 →
      SetsByte s (.subi c d b) c 2 d (differenceOf a b false) ∧
      SetsByte s (.andi c d b) c 2 d (logicOf (a &&& b)) ∧
      SetsByte s (.ori c d b) c 2 d (logicOf (a ||| b)) ∧
      SetsByte s (.xori c d b) c 2 d (logicOf (a ^^^ b)) ∧
      SetsFlags s (.tsti c d b) c 2 (logicOf (a &&& b)) ∧
      SetsByte s (.adci c d b) c 2 d (sumOf a b y) ∧
      SetsByte s (.sbci c d b) c 2 d (differenceOf a b y))

/-- 15 R652: the pair immediates, of two words. -/
def Obligations.PairImmediates : Prop :=
  ∀ (s : State) (c : CoreId) (d : Fin 8) (b : Half), CanRun s c 2 →
    let a := (operandsOf s c).pair d
    Computes s (.movwi c d b) c 2 2 (pairBytes d b) none ∧
    SetsPair s (.addwi c d b) c 2 d (sumOf a b false) ∧
    SetsPair s (.subwi c d b) c 2 d (differenceOf a b false) ∧
    SetsFlags s (.cmpwi c d b) c 2 (differenceOf a b false) ∧
    SetsPair s (.andwi c d b) c 2 d (logicOf (a &&& b)) ∧
    SetsPair s (.orwi c d b) c 2 d (logicOf (a ||| b)) ∧
    SetsPair s (.xorwi c d b) c 2 d (logicOf (a ^^^ b)) ∧
    SetsFlags s (.tstwi c d b) c 2 (logicOf (a &&& b))

/-- 15 R649, R652: shifts and rotates by an immediate. -/
def Obligations.ImmediateShifts : Prop :=
  ∀ (s : State) (c : CoreId), CanRun s c 1 →
    (∀ (d : Fin 16) (n : Fin 8),
      let a := (operandsOf s c).byte d
      SetsByte s (.shli c d n) c 1 d (leftOf a n.val) ∧
      SetsByte s (.shri c d n) c 1 d (rightOf a n.val) ∧
      SetsByte s (.asri c d n) c 1 d (arithOf a n.val) ∧
      SetsByte s (.roli c d n) c 1 d (rotLeftOf a n.val) ∧
      SetsByte s (.rori c d n) c 1 d (rotRightOf a n.val)) ∧
    (∀ (d : Fin 8) (n : Fin 16),
      let a := (operandsOf s c).pair d
      SetsPair s (.shlwi c d n) c 1 d (leftOf a n.val) ∧
      SetsPair s (.shrwi c d n) c 1 d (rightOf a n.val) ∧
      SetsPair s (.asrwi c d n) c 1 d (arithOf a n.val) ∧
      SetsPair s (.rolwi c d n) c 1 d (rotLeftOf a n.val) ∧
      SetsPair s (.rorwi c d n) c 1 d (rotRightOf a n.val))

/-- 15 R654 to R656: a branch whose condition holds, a jump and a jump through a pair go on at their target after two delay
slots; a branch whose condition fails goes on in sequence. -/
def Obligations.BranchesAndJumps : Prop :=
  ∀ (s : State) (c : CoreId), (s.dev.core c).branch = none →
    let k := operandsOf s c
    (∀ (cond : Fin 16) (disp : Byte), CanRun s c 1 → cond.val ≠ 15 →
      (Taken cond (flagC k.st) (flagZ k.st) (flagN k.st) (flagV k.st) →
        Delays s (.bcc c cond disp) c 1 (some (BitVec.ofInt 16 (k.pc.toNat + 2 * disp.toInt))) k.stack k.rsLost) ∧
      (¬Taken cond (flagC k.st) (flagZ k.st) (flagN k.st) (flagV k.st) →
        Delays s (.bcc c cond disp) c 1 none k.stack k.rsLost)) ∧
    (∀ addr : Half, CanRun s c 2 → addr.getLsbD 0 = false → Delays s (.jmp c addr) c 2 (some addr) k.stack k.rsLost) ∧
    (∀ p : Fin 8, CanRun s c 1 → (k.pair p).getLsbD 0 = false → Delays s (.jr c p) c 1 (some (k.pair p)) k.stack k.rsLost)

/-- 14 R616, R619: a call pushes the address after its second delay slot with ST; with sixteen entries and RSCTL.TRAP clear
the oldest is lost and RSCTL.LOST set. Rests on the model's choices and readings of log 33. -/
def Obligations.Calls : Prop :=
  ∀ (s : State) (c : CoreId) (wide : Fin 3), (s.dev.core c).branch = none →
    let k := operandsOf s c
    let entry (words : Nat) : StackEntry := { pc := k.pc + BitVec.ofNat 16 (2 * words + 4 + 2 * wide.val), st := k.st, exc := false }
    (∀ addr : Half, CanRun s c 2 → addr.getLsbD 0 = false →
      (k.stack.length < 16 → Delays s (.call c addr wide) c 2 (some addr) (k.stack ++ [entry 2]) k.rsLost) ∧
      (16 ≤ k.stack.length → k.trap = false →
        Delays s (.call c addr wide) c 2 (some addr) (k.stack.drop 1 ++ [entry 2]) true)) ∧
    (∀ p : Fin 8, CanRun s c 1 → (k.pair p).getLsbD 0 = false →
      (k.stack.length < 16 → Delays s (.callr c p wide) c 1 (some (k.pair p)) (k.stack ++ [entry 1]) k.rsLost) ∧
      (16 ≤ k.stack.length → k.trap = false →
        Delays s (.callr c p wide) c 1 (some (k.pair p)) (k.stack.drop 1 ++ [entry 1]) true))

/-- 14 R617, R618, R623: RET pops a call entry and delays its branch; RETX restores PC and ST from the Alarm slot when that is
full, else from an exception entry, without delay slots, after the producers in flight have completed. -/
def Obligations.Returns : Prop :=
  ∀ (s : State) (c : CoreId) (e : StackEntry), CanRun s c 1 → (s.dev.core c).branch = none →
    let k := operandsOf s c
    let back (al : Option StackEntry) (st : List StackEntry) : Prop :=
      ∃ t, exec (.retx c) s = .next t ∧
        t.pending = s.pending ∧ t.dev.core (otherCore c) = s.dev.core (otherCore c) ∧
        t.dev.chip = Chip.fetched c (s.dev.core c) 1 s.dev.chip ∧
        t.dev.core c = { k.complete with
          pc := e.pc, st := e.st, fwt := k.complete.wt, stack := st, alarm := al, branch := none, longMid := false
          slot := k.slot + 1, pastBp := false, cycle := (t.dev.core c).cycle }
    (k.stack.getLast? = some e → e.exc = false → Delays s (.ret c) c 1 (some e.pc) k.stack.dropLast k.rsLost) ∧
    (k.alarm = some e → back none k.stack) ∧
    (k.alarm = none → k.stack.getLast? = some e → e.exc = true → back none k.stack.dropLast)

/-- 15 R643 to R646, R653: a load whose access is answered writes its register at distance 3, and its pointer, post-incremented,
at distance 2. What the bytes are is `SramLoads` for SRAM. -/
def Obligations.Loads : Prop :=
  ∀ (s : State) (c : CoreId) (z : Size) (r : Fin 16) (p : Fin 8) (a : Half) (post parity : Bool) (b : Bytes) (c' : Chip) (wait : Nat),
    let k := operandsOf s c
    let dev (n : Nat) : Device := s.dev.modChip (Chip.fetched c (s.dev.core c) n)
    c'.asks = [] → fieldOk z r = true →
    (CanRun s c 1 → (post && overlapsPtr z r p) = false →
      loadFrom c (dev 1) k (k.pair p).toNat (sizeBytes z) parity = .bytes b c' wait →
      ComputesWith s (.ld c z r p post parity) c 1 c' (loadDist z r) (loadedRegs z r b ++ movedPtr k z p post) none []) ∧
    (CanRun s c 2 → loadFrom c (dev 2) k (k.pair p + a).toNat (sizeBytes z) parity = .bytes b c' wait →
      ComputesWith s (.ldx c z r p a parity) c 2 c' (loadDist z r) (loadedRegs z r b) none []) ∧
    (CanRun s c 2 → loadFrom c (dev 2) k a.toNat (sizeBytes z) parity = .bytes b c' wait →
      ComputesWith s (.lda c z r a parity) c 2 c' (loadDist z r) (loadedRegs z r b) none [])

/-- 14 R601, R633; 01 R39: an allowed load from SRAM through a mapped window answers, byte by byte, the newest buffered store or
what the SRAM holds; it leaves everything as it was, but for the count of free values where the SRAM is not the core's own.
Rests on the model's choices and readings of logs 6, 36. -/
def Obligations.SramLoads : Prop :=
  ∀ (c : CoreId) (d : Device) (k : Core) (a n p : Nat), n = 1 ∨ n = 2 ∨ n = 4 → a % n = 0 → InSram p n →
    (∃ e, tableEntry k.wt a = some e ∧ e.getLsbD 31 = true ∧ p = (e.toNat % 1048576) * 4096 + a % 4096) →
    d.chip.judge (coreNo c) .read p false = 0 →
    ∃ c' wait, loadFrom c d k a n false = .bytes ((List.range n).map fun i => (bufByte k.wbuf (p + i)).getD (d.chip.memByte (p + i))) c' wait ∧
      (c' = d.chip ∨ c' = d.chip.spend)

/-- 14 R633; 15 R643 to R646, R653: an allowed store through a mapped window goes into the write buffer while that has room, least
significant byte first, and changes no memory; its pointer, post-incremented, lands at distance 2. -/
def Obligations.Stores : Prop :=
  ∀ (s : State) (c : CoreId) (z : Size) (r : Fin 16) (p : Fin 8) (a : Half) (post : Bool) (q : Nat),
    let k := operandsOf s c
    let entry : BufStore := { addr := q, bytes := storedBytes k z r, fromRom := romFetched k }
    let after (n : Nat) : Chip := Chip.fetched c (s.dev.core c) n s.dev.chip
    fieldOk z r = true → k.wbuf.length < 4 →
    (CanRun s c 1 → dataPlace k (k.pair p).toNat (sizeBytes z) = .ok (.phys q) →
      ComputesWith s (.st c z r p post) c 1 (after 1) (fun _ => 2) (movedPtr k z p post) none [entry]) ∧
    (CanRun s c 2 → dataPlace k (k.pair p + a).toNat (sizeBytes z) = .ok (.phys q) →
      ComputesWith s (.stx c z r p a) c 2 (after 2) (fun _ => 2) [] none [entry]) ∧
    (CanRun s c 2 → dataPlace k a.toNat (sizeBytes z) = .ok (.phys q) →
      ComputesWith s (.sta c z r a) c 2 (after 2) (fun _ => 2) [] none [entry])

/-- 16 R689; 01 R39: the oldest buffered store drains alone; an allowed one to SRAM writes its bytes and no other byte of any
memory. -/
def Obligations.Drains : Prop :=
  ∀ (s : State) (c : CoreId) (x : BufStore) (rest : List BufStore), Live s → (s.dev.core c).wbuf = x :: rest →
    InSram x.addr x.bytes.length → s.dev.chip.judge (coreNo c) .write x.addr false = 0 →
    ∃ t, exec (.bufferDrain c false) s = .next t ∧
      t.pending = s.pending ∧ t.dev.core (otherCore c) = s.dev.core (otherCore c) ∧
      t.dev.core c = { s.dev.core c with wbuf := rest } ∧ ChipOnly [.mem] s.dev.chip t.dev.chip ∧
      ∀ a, t.dev.chip.memByte a =
        if x.addr ≤ a ∧ a < x.addr + x.bytes.length then x.bytes.getD (a - x.addr) 0 else s.dev.chip.memByte a

/-- 16 R691: FENCE drains the whole buffer, in order; with allowed stores to SRAM every byte of SRAM then reads as the newest
buffered store left it, or as before, and the other memories stay. Rests on the model's choices and readings of log 36. -/
def Obligations.Fence : Prop :=
  ∀ (s : State) (c : CoreId), CanRun s c 1 →
    (∀ x ∈ (s.dev.core c).wbuf, InSram x.addr x.bytes.length ∧ s.dev.chip.judge (coreNo c) .write x.addr false = 0) →
    ∃ t, exec (.fence c []) s = .next t ∧
      t.pending = s.pending ∧ t.dev.core (otherCore c) = s.dev.core (otherCore c) ∧
      (t.dev.core c).wbuf = [] ∧ (t.dev.core c).regs = (operandsOf s c).regs ∧ (t.dev.core c).st = (operandsOf s c).st ∧
      Advanced 1 (s.dev.core c) (t.dev.core c) ∧
      ChipOnly [.clk, .cns, .acc, .rgr, .mem] s.dev.chip t.dev.chip ∧
      t.dev.chip.mem = { s.dev.chip.mem with curSram := t.dev.chip.mem.curSram, regSram := t.dev.chip.mem.regSram } ∧
      ∀ a, InSram a 1 → t.dev.chip.memByte a = (bufByte (s.dev.core c).wbuf a).getD (s.dev.chip.memByte a)

/-- 14 R606, R611, R620, Tables 14-4 and 14-5: a full-width store to a window entry or to VBASE lands at distance 4 with its reserved
bits 0; a store to RSCTL acts at once: LOCK holds TRAP and itself, and a 1 to LOST clears it.
Rests on the model's choices and readings of log 35. -/
def Obligations.SpecialPageStores : Prop :=
  ∀ (s : State) (c : CoreId) (r : Fin 16), CanRun s c 2 →
    let k := operandsOf s c
    let after := Chip.fetched c (s.dev.core c) 2 s.dev.chip
    let fused := s.dev.chip.trapFused
    (∀ n : Fin 15, fieldOk .quad r = true →
      ∃ t, exec (.sta c .quad r (BitVec.ofNat 16 (0xF000 + 4 * n.val))) s = .next t ∧ t.dev.chip = after ∧
        (t.dev.core c).complete = { k.complete with
          wt := k.complete.wt.set n (k.quad (fieldPair r) &&& 0x800FFFFF), pc := seqPc k 2, branch := seqSlots k, longMid := false
          slot := k.slot + 1, pastBp := false, cycle := (t.dev.core c).cycle } ∧
        (t.dev.core c).wt = k.wt ∧
        (t.dev.core c).flight = k.flight ++ [{ due := k.slot + 4, target := .wt n, value := k.quad (fieldPair r) }]) ∧
    (fieldOk .pair r = true →
      ∃ t, exec (.sta c .pair r 0xF040) s = .next t ∧ t.dev.chip = after ∧
        (t.dev.core c).complete = { k.complete with
          vbase := k.pair (fieldPair r) &&& 0xFF00, pc := seqPc k 2, branch := seqSlots k, longMid := false
          slot := k.slot + 1, pastBp := false, cycle := (t.dev.core c).cycle } ∧
        (t.dev.core c).vbase = k.vbase ∧ ∀ l ∈ (t.dev.core c).flight, l ∈ k.flight ∨ l.due = k.slot + 4) ∧
    (∃ t, exec (.sta c .byte r 0xF044) s = .next t ∧ t.dev.chip = after ∧
      t.dev.core c = { k with
        trap := if k.lock then k.trap else fused || (k.byte r).getLsbD 0
        lock := k.lock || (k.byte r).getLsbD 1
        rsLost := k.rsLost && !(k.byte r).getLsbD 2
        pc := seqPc k 2, branch := seqSlots k, longMid := false, slot := k.slot + 1, pastBp := false, cycle := (t.dev.core c).cycle })

/-- 15 R663, R665: a long instruction whose count is 0 is at its end at once, without an access; BCMP then compares equal.
Rests on the model's choices and readings of log 30. -/
def Obligations.LongInstructionsAtZero : Prop :=
  ∀ (s : State) (c : CoreId) (more : Nat) (parity : Bool), CanRun s c 1 → (s.dev.core c).branch = none →
    let k := (operandsOf s c).complete
    k.pair 6 = 0 →
    LongLeaves s (.bmov c more parity) c k true ∧ LongLeaves s (.bfil c more) c k true ∧
    LongLeaves s (.bcrc c more parity) c k true ∧ LongLeaves s (.bmac c more parity) c k true ∧
    LongLeaves s (.bxor c more parity) c k true ∧
    LongLeaves s (.bcmp c more parity) c { k with st := (k.st &&& 0xFFF0) ||| 2 } true

/-- 15 R661, Table 15-10: one element of BMOV, BCMP, BMAC and BXOR over the core's own SRAM. The count falls by one and the pointers
rise by the element's size, but for the unequal pair that ends BCMP. Rests on the model's choices and readings of logs 30, 36. -/
def Obligations.LongInstructionElements : Prop :=
  ∀ (s : State) (c : CoreId) (more : Nat), CanRun s c 1 → (s.dev.core c).branch = none →
    let k := (operandsOf s c).complete
    let last : Bool := decide (k.pair 6 = 1)
    let moved (n : Half) (k' : Core) : Core :=
      ((k'.setPair 4 (k.pair 4 + n)).setPair 5 (k.pair 5 + n)).setPair 6 (k.pair 6 - 1)
    k.pair 6 ≠ 0 → (more = 0 ∨ k.pair 6 = 1) →
    (∀ b p, ownByte s.dev.chip c k (k.pair 4) = some b → storePlace k (k.pair 5) = some p →
      LongLeaves s (.bmov c more false) c (moved 1 (withStore p b k)) last) ∧
    (∀ a b, ownByte s.dev.chip c k (k.pair 4) = some a → ownByte s.dev.chip c k (k.pair 5) = some b →
      (a = b → LongLeaves s (.bcmp c more false) c
        (if last then { moved 1 k with st := (k.st &&& 0xFFF0) ||| 2 } else moved 1 k) last) ∧
      (a ≠ b → ∃ st, flagC st = decide (a.toNat < b.toNat) ∧ flagZ st = false ∧ flagN st = (a - b).msb ∧
        flagV st = (differenceOf a b false).2.2.2.2 ∧ st &&& 0xFFF0 = k.st &&& 0xFFF0 ∧
        LongLeaves s (.bcmp c more false) c { k with st := st } true)) ∧
    (∀ x y, ownPair s.dev.chip c k (k.pair 4) = some x → ownPair s.dev.chip c k (k.pair 5) = some y →
      let sum := (k.quad 0).toInt + x.toInt * y.toInt
      let acc : Word := BitVec.ofInt 32 sum
      let wraps : Bool := decide (sum < -2147483648 ∨ 2147483648 ≤ sum)
      LongLeaves s (.bmac c more false) c
        (moved 2 { (k.setPair 0 (acc.setWidth 16)).setPair 1 ((acc >>> 16).setWidth 16) with
          st := if wraps then k.st ||| 8 else k.st }) last) ∧
    (∀ a b p, ownByte s.dev.chip c k (k.pair 4) = some a → ownByte s.dev.chip c k (k.pair 5) = some b → storePlace k (k.pair 5) = some p →
      LongLeaves s (.bxor c more false) c (moved 1 (withStore p (a ^^^ b) k)) last)

/-- 15 R661, R662, R668: BCRC takes the bytes at S one after the other into the CRC-16 of pair 0, and BFIL stores b0 at D on; `more`
elements beyond the first, as far as the count goes, take place before the boundary.
Rests on the model's choices and readings of log 30. -/
def Obligations.LongInstructionRuns : Prop :=
  ∀ (s : State) (c : CoreId) (more n : Nat), CanRun s c 1 → (s.dev.core c).branch = none →
    let k := (operandsOf s c).complete
    n = min (more + 1) (k.pair 6).toNat → k.pair 6 ≠ 0 →
    let last : Bool := decide (n = (k.pair 6).toNat)
    let counted (k' : Core) : Core := k'.setPair 6 (k.pair 6 - BitVec.ofNat 16 n)
    (∀ b : Bytes, b.length = n →
      (∀ i, (h : i < b.length) → ownByte s.dev.chip c k (k.pair 4 + BitVec.ofNat 16 i) = some b[i]) →
      LongLeaves s (.bcrc c more false) c
        (counted ((k.setPair 0 (b.foldl (fun crc x => BitVec.ofNat 16 (crcByte 16 0x1021 crc.toNat x)) (k.pair 0))).setPair 4
          (k.pair 4 + BitVec.ofNat 16 n))) last) ∧
    (∀ p : List Nat, p.length = n → k.wbuf.length + n ≤ 4 →
      (∀ i, (h : i < p.length) → dataPlace k (k.pair 5 + BitVec.ofNat 16 i).toNat 1 = .ok (.phys p[i])) →
      LongLeaves s (.bfil c more) c
        (counted { k.setPair 5 (k.pair 5 + BitVec.ofNat 16 n) with
          wbuf := k.wbuf ++ p.map fun q => { addr := q, bytes := [k.byte 0], fromRom := romFetched k } }) last)

/-- 14 R607, R608; 15 R657 to R660, Table 15-9: NOP, WSYNC, WAIT, GETST, PUTST and MLSET. -/
def Obligations.SystemInstructions : Prop :=
  ∀ (s : State) (c : CoreId), CanRun s c 1 →
    let k := operandsOf s c
    let goes (i : Instr) (k' : Core) : Prop :=
      ∃ t, exec i s = .next t ∧ t.pending = s.pending ∧ t.dev.core (otherCore c) = s.dev.core (otherCore c) ∧
        t.dev.chip = Chip.fetched c (s.dev.core c) 1 s.dev.chip ∧
        t.dev.core c = { k' with
          pc := seqPc k 1, branch := seqSlots k, longMid := false, slot := k.slot + 1, pastBp := false, cycle := (t.dev.core c).cycle }
    goes (.nop c) k ∧
    ((s.dev.core c).branch = none → goes (.wsync c) { k.complete with fwt := k.complete.wt }) ∧
    ((s.dev.core c).branch = none → goes (.wait c) { k with waiting := true }) ∧
    (∀ d : Fin 8, Computes s (.getst c d) c 1 2 (pairBytes d (k.st &&& 0x01FF)) none) ∧
    (∀ n : Fin 8, goes (.mlset c n) { k with flight := k.flight ++ [{ due := k.slot + 4, target := .ml, value := BitVec.ofNat 32 n.val }] }) ∧
    (∀ d : Fin 8, ∃ t, exec (.putst c d) s = .next t ∧ t.dev.core (otherCore c) = s.dev.core (otherCore c) ∧
      t.dev.chip = Chip.fetched c (s.dev.core c) 1 s.dev.chip ∧
      (t.dev.core c).complete.st = (k.complete.st &&& 0xFF10) ||| (k.pair d &&& 0x00EF) ∧
      (t.dev.core c).complete.regs = k.complete.regs ∧ CoreFrame k (t.dev.core c) ∧ Advanced 1 k (t.dev.core c) ∧
      (t.dev.core c).regs = k.regs ∧ (t.dev.core c).st = k.st ∧
      ∀ l ∈ (t.dev.core c).flight, l ∈ k.flight ∨ l.due = k.slot + (if l.target = .ml then 4 else 2))

/-- 14 R603, R604, R611, R617, R618, R624; 15 R641, R645, R655, R660: what each fault of an instruction is, and its entry: vector 1 for an
encoding that is not legal, 2 for a control transfer in a delay slot, 3 for a misaligned target or access, 4 for an unmapped
window, 5 for the special page's widths, 6 and 7 for the return stack, 9 for a refused load.
Rests on the model's choices and readings of logs 32, 35. -/
def Obligations.InstructionFaults : Prop :=
  ∀ (s : State) (c : CoreId) (h : Half),
    let k := operandsOf s c
    (CanFault s c 1 h → CanRun s c 1 →
      (∀ w1 w2 : Half, legalWords w1.toNat w2.toNat = false → Faults s (.illegalInstruction c w1 w2) c { vec := 1 } h) ∧
      (∀ disp : Byte, k.branch = none → Faults s (.bcc c 15 disp) c { vec := 1 } h) ∧
      (∀ d x : Fin 8, d.val % 2 = 1 → Faults s (.mulw c d x) c { vec := 1 } h) ∧
      (∀ d x : Fin 8, x ≠ 0 → Faults s (.sxt c d x) c { vec := 1 } h ∧ Faults s (.zxt c d x) c { vec := 1 } h) ∧
      (∀ (z : Size) (r : Fin 16) (p : Fin 8) (post parity : Bool), fieldOk z r = false ∨ (post && overlapsPtr z r p) = true →
        Faults s (.ld c z r p post parity) c { vec := 1 } h)) ∧
    (CanFault s c 1 h → CanRun s c 2 → k.branch = none → ∀ addr : Half, addr.getLsbD 0 = true →
      Faults s (.jmp c addr) c { vec := 1 } h ∧ ∀ wide, Faults s (.call c addr wide) c { vec := 1 } h) ∧
    (CanFault s c 2 h → CanRun s c 1 → k.branch ≠ none →
      (∀ cond disp, Faults s (.bcc c cond disp) c { vec := 2 } h) ∧ (∀ p, Faults s (.jr c p) c { vec := 2 } h) ∧
      (∀ p wide, Faults s (.callr c p wide) c { vec := 2 } h) ∧ Faults s (.ret c) c { vec := 2 } h ∧
      Faults s (.retx c) c { vec := 2 } h ∧ Faults s (.wait c) c { vec := 2 } h ∧ Faults s (.wsync c) c { vec := 2 } h ∧
      ∀ more parity, Faults s (.bmov c more parity) c { vec := 2 } h ∧ Faults s (.bcmp c more parity) c { vec := 2 } h) ∧
    (CanFault s c 3 h → CanRun s c 1 → k.branch = none → ∀ p : Fin 8, (k.pair p).getLsbD 0 = true →
      Faults s (.jr c p) c { vec := 3, addr := some (k.pair p).toNat } h ∧
      ∀ wide, Faults s (.callr c p wide) c { vec := 3, addr := some (k.pair p).toNat } h) ∧
    (CanRun s c 2 → ∀ (z : Size) (r : Fin 16) (a : Half) (parity : Bool), fieldOk z r = true →
      (CanFault s c 3 h → a.toNat % sizeBytes z ≠ 0 →
        Faults s (.lda c z r a parity) c { vec := 3, addr := some a.toNat } h ∧ Faults s (.sta c z r a) c { vec := 3, addr := some a.toNat } h) ∧
      (CanFault s c 4 h → a.toNat % sizeBytes z = 0 → ∀ e, tableEntry k.wt a.toNat = some e → e.getLsbD 31 = false →
        Faults s (.lda c z r a parity) c { vec := 4, addr := some a.toNat } h ∧ Faults s (.sta c z r a) c { vec := 4, addr := some a.toNat } h) ∧
      (CanFault s c 5 h → a.toNat % sizeBytes z = 0 → 0xF000 ≤ a.toNat → specialWidthOk (a.toNat % 4096) (sizeBytes z) = false →
        Faults s (.lda c z r a parity) c { vec := 5, addr := some a.toNat } h ∧ Faults s (.sta c z r a) c { vec := 5, addr := some a.toNat } h) ∧
      (CanFault s c 9 h → ∀ p f, dataPlace k a.toNat (sizeBytes z) = .ok (.phys p) → k.wbuf = [] →
        s.dev.chip.judge (coreNo c) .read p parity = f → f ≠ 0 →
        Faults s (.lda c z r a parity) c { vec := 9, src := f, addr := some p } h)) ∧
    (CanRun s c 1 → k.branch = none →
      (CanFault s c 7 h → k.stack = [] → Faults s (.ret c) c { vec := 7 } h ∧ (k.alarm = none → Faults s (.retx c) c { vec := 7 } h)) ∧
      (CanFault s c 6 h → ∀ e, k.stack.getLast? = some e →
        (e.exc = true → Faults s (.ret c) c { vec := 6 } h) ∧
        (e.exc = false → k.alarm = none → Faults s (.retx c) c { vec := 6 } h)))

/-- 14 R619; 16 R674, R680: a fault with ML at 6 or above, and a call that a full return stack refuses under RSCTL.TRAP, enter
Alarm through vector 0: the Alarm slot is written, ML is 7, and VIT_FCAUSE tells the escalation.
Rests on the model's choices and readings of log 32. -/
def Obligations.AlarmEntry : Prop :=
  ∀ (s : State) (c : CoreId) (h : Half), (s.dev.core c).alarm = none → h.getLsbD 0 = false →
    let k := operandsOf s c
    handlerAt s.dev.chip c k.complete k.vbase 0 = some h →
    let enters (i : Instr) (vec : Nat) : Prop :=
      ∃ t, exec i s = .next t ∧ t.pending = s.pending ∧ t.dev.core (otherCore c) = s.dev.core (otherCore c) ∧
        ChipOnly [.clk, .cns, .acc, .rgr, .vit] s.dev.chip t.dev.chip ∧
        (t.dev.core c).pc = h ∧ (t.dev.core c).alarm = some { pc := (s.dev.core c).pc, st := k.complete.st, exc := true } ∧
        (t.dev.core c).stack = k.stack ∧ (t.dev.core c).regs = k.complete.regs ∧ mlOf (t.dev.core c).st = 7 ∧
        (t.dev.core c).st.getLsbD 8 = true ∧ (t.dev.core c).fwt = k.complete.wt ∧ (t.dev.core c).branch = none ∧
        (t.dev.chip.excView c).fcause = BitVec.ofNat 8 (vec + 64 * bit (s.dev.core c).branch.isSome + 128) ∧
        (t.dev.chip.excView c).fpc = (s.dev.core c).pc
    (CanRun s c 1 → 6 ≤ mlOf k.st → ∀ w1 w2 : Half, legalWords w1.toNat w2.toNat = false → enters (.illegalInstruction c w1 w2) 1) ∧
    (CanRun s c 2 → k.branch = none → k.trap = true → k.stack.length = 16 → ∀ (addr : Half) (wide : Fin 3), addr.getLsbD 0 = false →
      enters (.call c addr wide) 8)

/-- 14 R627, R629; 15 R659; 16 R674 to R680: the highest pending source above ML is taken at an issue boundary outside delay slots; a
core in WAIT goes on in its handler. Vector 16 clears its latch. Rests on the model's choices and readings of log 31. -/
def Obligations.InterruptEntry : Prop :=
  ∀ (s : State) (c : CoreId) (h : Half) (vec level : Nat), Live s →
    let k := s.dev.core c
    k.running = true → k.halted = false → k.frozen = none → k.branch = none → k.stack.length < 16 →
    s.dev.chip.takenSource c (mlOf k.st) = some (vec, level) → h.getLsbD 0 = false →
    handlerAt s.dev.chip c k.complete k.vbase vec = some h →
    ∃ t, exec (.interruptEntry c false) s = .next t ∧ t.pending = s.pending ∧ t.dev.core (otherCore c) = s.dev.core (otherCore c) ∧
      ChipOnly [.clk, .vit] s.dev.chip t.dev.chip ∧
      Entered k (t.dev.core c) h level false { pc := k.pc, st := k.complete.st, exc := true } ∧
      t.dev.chip.excView c = { s.dev.chip.excView c with
        pfwLatch := if vec = 16 then false else (s.dev.chip.excView c).pfwLatch }

/-- 14 R631, R633: a frozen access completes once what it waited for has gone: a store finds room in the buffer, a load its answer.
Rests on the model's choices and readings of log 17. -/
def Obligations.FreezeEnds : Prop :=
  ∀ (s : State) (c : CoreId) (cycles : Nat) (z : Size) (r : Fin 16) (p : Fin 8) (post parity : Bool), Live s →
    let k := s.dev.core c
    let after (t : State) (c' : Chip) (b : List BufStore) (regs : List (Fin 16 × Byte)) : Prop :=
      t.pending = s.pending ∧ t.dev.core (otherCore c) = s.dev.core (otherCore c) ∧ t.dev.chip = c' ∧
      CoreFrame { k with frozen := none, wbuf := k.wbuf ++ b } (t.dev.core c) ∧ Advanced 1 k (t.dev.core c) ∧
      RegsAre regs k.complete (t.dev.core c).complete ∧ (t.dev.core c).complete.st = k.complete.st
    k.running = true → k.stepping = false → k.haltReq = false → fieldOk z r = true →
    (∀ q, k.frozen = some (.st z r p post) → k.wbuf.length < 4 → dataPlace k (k.pair p).toNat (sizeBytes z) = .ok (.phys q) →
      ∃ t, exec (.freezeEnd c cycles) s = .next t ∧
        after t s.dev.chip [{ addr := q, bytes := storedBytes k z r, fromRom := romFetched k }] (movedPtr k z p post)) ∧
    (∀ b c' wait, k.frozen = some (.ld z r p post parity) → (post && overlapsPtr z r p) = false → c'.asks = [] →
      loadFrom c s.dev { k with frozen := none, cycle := k.cycle + BitVec.ofNat 32 cycles } (k.pair p).toNat (sizeBytes z) parity
        = .bytes b c' wait →
      ∃ t, exec (.freezeEnd c cycles) s = .next t ∧ after t c' [] (loadedRegs z r b ++ movedPtr k z p post))

/-! ## Time base and mains phase -/

/-- 02 R49 to R56, R64, R741, R742, Table 02-2: a PPS edge that is too short or out of place is counted and refused with its pending
ToD; a valid one is taken, and drives the servo at rank 1 when IRIG names its second, at rank 3 when ToD or the count that
PPS carries on does; one that pairs with no second is measured and reported. Rests on the model's choices and readings of
logs 8, 59. -/
def Obligations.PpsEdge : Prop :=
  ∀ (s : State) (highNs : Nat), Live s →
    let c := s.dev.chip
    let comp := c.cfgI 0x2010 2
    let p : Int := (c.clk.raw : Int) - ticksNs comp
    let e (n : Nat) : Int := (c.nowNs : Int) - comp - (n : Int) * 1000000000
    let irig := if c.irigOk then c.irigPair p else none
    (c.cfgB 0x2010 1 = false → Becomes s (.ppsEdge highNs) id) ∧
    (c.cfgB 0x2010 1 = true → highNs < 50 ∨ ¬PpsSpaced c → Becomes s (.ppsEdge highNs) fun c => { c with time := { c.time with
      refusals := c.time.refusals + (if c.time.tod.isSome then 2 else 1), count := 0, tod := none } }) ∧
    (c.cfgB 0x2010 1 = true → 50 ≤ highNs → PpsSpaced c →
      Leaves s (.ppsEdge highNs) [.time, .acc, .host] fun d =>
        d.time.lastPps = some c.time.local_ ∧ d.time.ppsRaw = some c.clk.raw ∧ d.time.ppsTick = some p ∧ d.time.tod = none ∧
        d.time.rank3 = ppsNames c ∧ d.time.todSeen = (c.time.todSeen || c.time.tod.isSome) ∧ d.time.refusals = c.time.refusals ∧
        (∀ n x, irig = some (some n, x) → d.time.rank = 1 ∧ ServoMoves (e n) c d) ∧
        (∀ x, irig = some (none, x) → d.time.rank = c.time.rank ∧ d.time.sync = c.time.sync ∧ d.time.steps = c.time.steps) ∧
        (∀ n, irig = none → ppsNames c = some n → d.time.rank = 3 ∧ ServoMoves (e n) c d)) ∧
    (c.cfgB 0x2010 1 = true → 50 ≤ highNs → PpsSpaced c → irig = none → ppsNames c = none →
      Becomes s (.ppsEdge highNs) fun c => { c with time := { c.time with
        lastPps := some c.time.local_, ppsRaw := some c.clk.raw, ppsTick := some p, rank3 := none
        pherr := ((c.nowNs : Int) - comp + 500000000) % 1000000000 - 500000000 } })

/-- 02 R58 to R64, Table 02-2: a frame that is not well formed breaks the chain of frames; one that is names its second (by IEEE 1344
with its quality and offset), and the next on-time edge when it follows the frame before; an on-time edge with no name
restarts the counts; a named one is a valid edge, and the second edge of rank 2 when no PPS edge pairs with it.
Rests on the model's choices and readings of logs 14, 59. -/
def Obligations.IrigSignals : Prop :=
  ∀ (s : State), Live s → s.dev.chip.cfgB 0x2010 3 = true →
    let c := s.dev.chip
    let named (u : Int) : Nat := ((u + c.offsetO) % 17179869184).toNat
    let follows (n : Nat) : Bool := c.time.irigPrev == some ((n + 17179869184 - 1) % 17179869184)
    let today : Int := ((c.time.sec : Int) - c.offsetO) / 86400
    (∀ (f : Fin 8) (ws : List Nat), Chip.irigShape (ws.map Chip.irigElement) = false →
      Becomes s (.irigFrame f ws) fun c => { c with time := { c.time with
        irigPrev := none, irigValid := false, irigNext := none, irigFlags := c.time.irigFlags % 4 } }) ∧
    (∀ (f : Fin 8) (ws : List Nat) (u : Int),
      let e := ws.map Chip.irigElement
      let year := 10 * Chip.irigNum e [55, 56, 57, 58] + Chip.irigNum e [50, 51, 52, 53]
      Chip.irigShape e = true →
      ((Chip.irigHasYear f || c.cfgB 0x2010 4) = true → Chip.irigNum e [55, 56, 57, 58] ≤ 9 ∧ Chip.irigNum e [50, 51, 52, 53] ≤ 9) →
      Chip.irigUtc e (if Chip.irigHasYear f || c.cfgB 0x2010 4 then some year else none) today = some u →
      (c.cfgB 0x2010 4 = false →
        let n := named u
        Becomes s (.irigFrame f ws) fun c => { c with time := { c.time with
          irigPrev := some n, irigValid := follows n, irigNext := if follows n then some ((n + 1) % 17179869184) else none
          irigFlags := c.time.irigFlags % 4 + (if follows n then 4 else 0) } }) ∧
      (c.cfgB 0x2010 4 = true → (Chip.irigCf e).parityOk = true → (Chip.irigCf e).tq ≠ 15 → (Chip.irigCf e).tq ≤ c.cfg 0x2010 5 →
        let n := named (u + (Chip.irigCf e).halfHours * 1800)
        Leaves s (.irigFrame f ws) [.time, .acc, .cat] fun d =>
          d.time.irigPrev = some n ∧ d.time.irigValid = follows n ∧ d.time.irigQuality = (Chip.irigCf e).tq ∧
          d.time.irigNext = (if follows n then some ((n + 1) % 17179869184) else none) ∧ d.time.sync = c.time.sync)) ∧
    (c.time.irigNext = none ∨ c.time.irigValid = false → Becomes s .irigOnTimeEdge fun c => { c with time := { c.time with
      irigEdge := none, irigNext := none, refusals := c.time.refusals + 1, count := 0 } }) ∧
    (∀ n, c.time.irigValid = true → c.time.irigNext = some n →
      let comp := c.cfgI 0x2010 6
      let p : Int := (c.clk.raw : Int) - ticksNs comp
      Leaves s .irigOnTimeEdge [.time, .acc, .host] fun d =>
        d.time.irigEdge = some (p, n) ∧ d.time.irigNext = none ∧ d.time.lastEdge = some c.clk.raw ∧
        (c.ppsPairs p = false → d.time.rank = 2 ∧
          (c.time.offsetStep = 0 ∨ 2 < c.time.rank → ServoMoves ((c.nowNs : Int) - comp - (n : Int) * 1000000000) c d)) ∧
        (c.ppsPairs p = true → d.time.rank = c.time.rank ∧ d.time.sync = c.time.sync))

/-- 02 R53, R66, R83, R84, Table 02-2: loss of every source, the holdover limit, the leap, and the PPS_OUT pulse.
Rests on the model's choices and readings of logs 59, 62. -/
def Obligations.TimeLimits : Prop :=
  ∀ (s : State), Live s →
    let c := s.dev.chip
    ((∀ r, c.time.lastEdge = some r → 1000000000 < c.clk.raw - r) →
      (c.time.sync = .locked → Becomes s .sourceTimeout fun c => logs clsTime 4 (3 + 8 * 2) c.time.rank { c with
        time := { c.time with rankDrop := c.time.rank != 4, count := 0, sync := .holdover, holdSince := some c.clk.raw, fint := c.time.fcorr }
        host := { c.host with notices := c.host.notices ||| 16 } }) ∧
      (c.time.sync = .acquiring → Becomes s .sourceTimeout fun c => logs clsTime 4 (0 + 8 * 1) c.time.rank { c with
        time := { c.time with rankDrop := c.time.rank != 4, count := 0, sync := .free, slew := 0, holdSince := none }
        host := { c.host with notices := c.host.notices ||| 16 } })) ∧
    (∀ r, c.time.sync = .holdover → c.time.holdSince = some r → c.cfg 0x2010 8 ≠ 0 →
      400000000 * c.cfg 0x2010 8 < c.clk.raw - r →
      Leaves s .holdoverLimitExpiry [.time, .acc, .host] fun d =>
        d.time = { c.time with sync := .free, slew := 0, holdx := true, holdSince := none } ∧
        d.host = { c.host with notices := c.host.notices ||| 16 } ∧
        d.acc = (logs clsTime 4 (0 + 8 * 3) c.time.rank { c with time := { c.time with sync := .free, slew := 0, holdSince := none } }).acc) ∧
    (c.leapL ≠ 0 → c.cfg 0x2030 3 ≤ c.time.sec →
      let o := encInt 16 (c.offsetO + c.leapL)
      Becomes s .leapApply fun c => logs clsTime 4 (3 * 256 + (if c.leapL = 1 then 1 else 2)) o
        (withValue 0x2030 2 (leBytes (objDefault 0x2030 2).length 0) (withValue 0x2030 1 (leBytes (objDefault 0x2030 1).length o)
          { c with time := { c.time with leapWritten := false } }))) ∧
    (c.cfgB 0x2010 9 = true → c.cfgB 0x2010 0xB = true ∨ c.time.sync ≠ .free → c.ppsOutTick ≤ c.time.tick →
      c.time.tick ≤ c.ppsOutTick + 2 →
      c.time.ppsOutSec ≠ some c.time.sec → c.time.ppsOut = false →
      Becomes s .ppsOutStart fun c => { c with time := { c.time with
        ppsOut := true, ppsOutEnd := c.clk.raw + 400 * c.cfg 0x2010 0xA, ppsOutSec := some c.time.sec } }) ∧
    (c.time.ppsOut = true → c.time.ppsOutEnd ≤ c.clk.raw →
      Becomes s .ppsOutEnd fun c => { c with time := { c.time with ppsOut := false } })

/-- 11 R472, R473, Table 11-1: a good window of the clock monitor keeps the PLL; loss of lock, or the third window in a row beyond ±6 %,
takes the backup clock, with health record 0x2 and the time base in FREE; a good second ends it.
Rests on the model's choices and readings of log 62. -/
def Obligations.ClockMonitor : Prop :=
  ∀ (s : State) (dev : Int), Live s →
    let c := s.dev.chip
    let since (locked : Bool) : Option Nat :=
      if locked = true ∧ dev.natAbs ≤ 600 then some (c.rgr.goodSince.getD c.clk.raw) else none
    let bad : Nat := if 600 < dev.natAbs then c.rgr.pllBad + 1 else 0
    (∀ locked : Bool, c.rgr.backup = true ∨ (locked = true ∧ (dev.natAbs ≤ 600 ∨ c.rgr.pllBad < 2)) →
      Becomes s (.clockMonitorWindow dev locked) fun c => { c with rgr := { c.rgr with
        clkDev := dev, pllBad := bad, goodSince := since locked } }) ∧
    (∀ locked : Bool, c.rgr.backup = false → (locked = false ∨ 600 < dev.natAbs ∧ 2 ≤ c.rgr.pllBad) →
      Leaves s (.clockMonitorWindow dev locked) [.time, .acc, .host, .rgr] fun d =>
        d.rgr = { c.rgr with
          clkDev := dev, pllBad := bad, goodSince := none, backup := true
          pllFaultSeen := true, alerts := c.rgr.alerts ||| 4 } ∧
        d.time.sync = .free ∧ d.time.fcorr = 0 ∧ d.time.fint = 0 ∧ d.time.fAcc = 0 ∧ d.time.count = 0 ∧
        (c.time.sync = .free → d.host = c.host)) ∧
    (∀ t, c.rgr.backup = true → c.rgr.goodSince = some t → t + 400000000 ≤ c.clk.raw →
      Becomes s .pllRestore fun c => logs clsHealth 11 (3 * 256) 0 { c with rgr := { c.rgr with backup := false, pllBad := 0 } })

/-- 02 R69 to R77, R82: a crossing past the blanking time ends a period: a good one on an unlocked input counts, the eighth locks it, a
bad one restarts the count, and each crossing of the active reference counts a cycle; a locked input without a crossing for
one and a half periods loses lock; 100 ms end the suppression of lock records.
Rests on the model's choices and readings of logs 60, 62. -/
def Obligations.PhaseCommands : Prop :=
  ∀ (s : State) (i : Fin 3), Live s →
    let c := s.dev.chip
    let q := c.phase.ins[i]
    let x : Int := (c.clk.raw : Int) - ticksNs (c.cfgI 0x2020 (6 + i.val))
    let quiet : Prop := NoOrders c ∧ c.cat.crossing = []
    (∀ x0 p0, c.zcTaken i = true → quiet → q.gap = false → q.lastX = some x0 → q.period = some p0 →
      (q.locked = false → c.phase.ref ≠ some i → (c.phase.ins[(0 : Fin 3)]).locked = false →
        (periodInRange (x - x0) && periodNear (x - x0) p0) = true → q.valid < 7 →
        Becomes s (.zcCrossing i) fun c => { c with phase := { c.phase with ins := c.phase.ins.set i { q with
          lastX := some x, lastRise := some c.clk.raw, valid := q.valid + 1, period := some (x - x0).toNat, hist := [], freqs := [] } } }) ∧
      (q.locked = false → (periodInRange (x - x0) && periodNear (x - x0) p0) = true → 7 ≤ q.valid →
        Leaves s (.zcCrossing i) [.phase, .acc] fun d =>
          (d.phase.ins[i]).locked = true ∧ (d.phase.ins[i]).valid = q.valid + 1 ∧ (d.phase.ins[i]).period = some (x - x0).toNat ∧
          ∀ j : Fin 3, j ≠ i → d.phase.ins[j] = c.phase.ins[j]) ∧
      (q.locked = false → (periodInRange (x - x0) && periodNear (x - x0) p0) = false →
        Leaves s (.zcCrossing i) [.phase] fun d =>
          (d.phase.ins[i]).valid = 0 ∧ (d.phase.ins[i]).locked = false ∧ (d.phase.ins[i]).period = some (x - x0).toNat) ∧
      (q.locked = true → c.phase.ref = some i → (periodInRange (x - x0) && periodNear (x - x0) p0) = true →
        Leaves s (.zcCrossing i) [.phase, .ord] fun d =>
          d.phase.cycle = c.phase.cycle + 1 ∧ (d.phase.ins[i]).lastX = some x ∧ (d.phase.ins[i]).period = some (x - x0).toNat)) ∧
    (∀ r, q.locked = true → q.lastRise = some r → 600000000000 ≤ (c.clk.raw - r) * c.cfg 0x2020 1 → quiet →
      Leaves s (.missingCrossing i) [.phase, .acc] fun d =>
        (d.phase.ins[i]).locked = false ∧ (d.phase.ins[i]).valid = 0 ∧ (d.phase.ins[i]).period = none ∧
        (d.phase.ins[i]).reason = 1 ∧ d.phase.ref ≠ some i ∧ ∀ j : Fin 3, j ≠ i → d.phase.ins[j] = c.phase.ins[j]) ∧
    (∀ u, q.suppUntil = some u → u ≤ c.clk.raw →
      (q.locked = q.lastRec → Becomes s (.phaseSuppressionEnd i) fun c => { c with phase := { c.phase with
        ins := c.phase.ins.set i { q with suppUntil := none } } }) ∧
      (q.locked = true → q.lastRec = false → Becomes s (.phaseSuppressionEnd i) fun c =>
        logs clsTime 5 i.val (min q.lastFreq 0xFFFFFF) { c with phase := { c.phase with
          ins := c.phase.ins.set i { q with lastRec := true, suppUntil := some (c.clk.raw + 40000000) } } }))

/-! ## Resets, supplies and starts -/

/-- 17 R718 to R725; 05 R229; 11 Table 11-1: the supply and reset pins where they begin no start: power-good under RESET_N, RESET_N low for
less than 0.9 µs, or taken with the array idle, or deferred by a program; the brown-out; PFW_N.
Rests on the model's choices and readings of logs 13, 38. -/
def Obligations.SupplyPins : Prop :=
  ∀ (s : State), s.dev.chip.asks = [] →
    let c := s.dev.chip
    (∀ env, c.clk.good = false → c.clk.resetLow = true →
      Becomes s (.powerGood env) fun c => { c with clk := { c.clk with vio := true, good := true } }) ∧
    (∀ n, n < 900 → Becomes s (.resetNAsserted n) id) ∧
    (∀ n, 1000 ≤ n → c.clk.resetLow = false →
      (c.clk.running = false → Becomes s (.resetNAsserted n) fun c => { c with clk := { c.clk with resetLow := true } }) ∧
      (c.clk.running = true → ArrayIdle c → TagIdle c →
        Becomes s (.resetNAsserted n) fun c => stopped { c with clk := { c.clk with resetLow := true } }) ∧
      (∀ r, c.clk.running = true → c.cns.run = some r → Chip.opPrograms r.op = true → c.cns.susp = none →
        Becomes s (.resetNAsserted n) fun c => { c with clk := { c.clk with resetLow := true, resetDeferred := true } })) ∧
    (c.clk.resetDeferred = true → c.clk.resetLow = true → ArrayIdle c → TagIdle c → Becomes s .deferredReset stopped) ∧
    (∀ env, c.clk.resetLow = true → (c.clk.resetDeferred = true ∨ c.clk.good = false) →
      Becomes s (.resetNReleased env) fun c => { c with clk := { c.clk with resetLow := false } }) ∧
    (∀ vcore off, c.clk.good = true → ArrayIdle c → TagIdle c → Becomes s (.brownOut vcore off) fun c =>
      let vio : Bool := vcore && !off
      { stopped c with
        clk := { (stopped c).clk with good := false, vio := vio }
        rgr := { c.rgr with brownRail := if off then none else some (if vcore then 2 else 0) }
        tag := if vio = false ∧ c.tag.field = false then {} else c.tag }) ∧
    (c.clk.pfw = false → c.clk.running = false → Becomes s .pfwNAsserted fun c => { c with clk := { c.clk with pfw := true } }) ∧
    (c.clk.pfw = false → c.clk.running = true → ArrayIdle c → TagIdle c → c.cns.queue = [] → c.vlt.writes = [] → c.cat.job = none →
      NoOrders c →
      Becomes s .pfwNAsserted fun c => logs clsSec 10 0 c.freeSlots { c with
        clk := { c.clk with pfw := true }
        vit := { c.vit with
          cur := { c.vit.cur with pfwLatch := true }
          reg := { c.vit.reg with pfwLatch := true } } }) ∧
    (c.clk.pfw = true → c.clk.running = true → c.clk.startHeld = false →
      Becomes s .pfwNDeasserted fun c => logs clsSec 10 256 0 { c with clk := { c.clk with pfw := false } })

/-- 12 R511, Table 12-1; 17 R718, R721: power-good, a RESET_N release and the deferred reset begin a Cold start with their causes; a Cold
start under PFW_N gives every field its Cold value and waits before step 5.
Rests on the model's choices and readings of logs 4, 13, 38. -/
def Obligations.ColdStarts : Prop :=
  (∀ (s : State) (env : StartEnv), s.dev.chip.asks = [] →
    let c := s.dev.chip
    (c.clk.good = false → c.clk.resetLow = false →
      Restarts s (.powerGood env) (if c.rgr.brownRail.isSome then 5 else 0) env fun c =>
        { c with clk := { c.clk with vio := true, good := true } }) ∧
    (c.clk.resetLow = true → c.clk.resetDeferred = false → c.clk.good = true →
      Restarts s (.resetNReleased env) 1 env fun c => { c with clk := { c.clk with resetLow := false } }) ∧
    (c.clk.resetDeferred = true → c.clk.resetLow = false → ArrayIdle c → TagIdle c → Restarts s .deferredReset 1 quietEnv stopped)) ∧
  ∀ (cause : Nat) (env : StartEnv) (c : Chip), c.clk.pfw = true → c.clk.testmode = false → c.rgr.brownRail = none → env.pllLocked = true →
    env.sensing = [] → fuseLife c ≠ .lost → fuseLife c ≠ .scrap → c.clk.running = false ∨ ArrayIdle c →
    (restarted cause env c).chip = coldHeld cause env c ∧ (restarted cause env c).cur = {} ∧
    (restarted cause env c).reg.pc = 0 ∧ (restarted cause env c).reg.running = true ∧ (restarted cause env c).reg.stack = []

/-- 12 R514, R524 to R530, R541: CURREL enters the sound, tested image of the slot in force; a confirmation closes the window; the start
timer and the retries begin Cold starts; a window that runs out resets the Curator. A start-attempt word goes into the next
empty place of its area and changes no other. Rests on the model's choices and readings of logs 45, 53, 74. -/
def Obligations.StartCommands : Prop :=
  (∀ (s : State), Live s →
    let c := s.dev.chip
    let w := c.startWord
    let h := c.slotHeader 1 w.cs
    (c.start.regIn = true → c.start.timer.isSome = true → c.start.mode ≠ 2 → w.isOpen = false → w.cf ≠ 3 →
      c.checkSlot 1 w.cs none = 0 → testedPair h (c.slotHeader 2 c.start.slotReg) = true → s.dev.cur.running = false →
      c.wordNow = true ∨ c.clk.pfw = true ∨ w.serial = 0x7FFFF →
      ∃ t, exec .currel s = .next t ∧ t.pending = s.pending ∧
        ChipOnly [.mem, .acc, .cns, .start, .host, .vit, .rgr, .tag] c t.dev.chip ∧
        t.dev.reg = { s.dev.reg with regs := s.dev.reg.regs.set 0 0 } ∧
        t.dev.cur.running = true ∧ t.dev.cur.pc = BitVec.ofNat 16 (0x100 + hdrEntry h) &&& 0xFFFE ∧ t.dev.cur.st = 0x00E0 ∧
        t.dev.cur.stack = [] ∧ t.dev.cur.byte 0 = byteOf c.startReason ∧ t.dev.cur.byte 1 = byteOf c.start.cause ∧
        t.dev.cur.byte 2 = byteOf w.cs ∧
        t.dev.chip.mem.flash = c.mem.flash ∧ t.dev.chip.start.mode = 1 ∧ t.dev.chip.start.timer = none ∧
        t.dev.chip.start.slotCur = w.cs ∧ t.dev.chip.start.curVer = hdrVersion h ∧ t.dev.chip.start.pairing = 0 ∧
        t.dev.chip.start.confirmed = false ∧ WordIs c { w with ropen := false, rf := 0, rw := false, isOpen := true, override := false } t.dev.chip ∧
        t.dev.chip.rgr.win = some (c.rcNow, 400000 * c.cfg 0x1010 6) ∧ t.dev.chip.rgr.wdRun = true) ∧
    (c.winOpen = true → Leaves s (.confirm .curator 0xC3) [.mem, .cns, .start, .rgr, .cat, .host] fun d =>
      d.start.confirmed = true ∧ d.rgr = { c.rgr with win := none, winPaused := none, wdo := false } ∧
      d.cat = { c.cat with fwReady := true } ∧ d.host = { c.host with notices := c.host.notices ||| 4 } ∧
      WordIs c { w with isOpen := false, cf := 0, cw := false } d) ∧
    (∀ t n, c.rgr.win = some (t, n) → n ≤ c.rcNow - t → c.start.regIn = true → c.start.mode ≠ 2 →
      s.dev.cur.wbuf = [] → c.cat.mbox = [] → ∃ u, exec .confirmWindowClose s = .next u ∧ CuratorReset 0x12 s u) ∧
    (∀ env t, c.start.timer = some t → 80000000 ≤ c.rcNow - t → Restarts s (.startTimerExpiry env) 0x12 env id) ∧
    (∀ env p, c.start.mode = 2 → CatReady c → (p = .host ∨ p = .canA ∨ p = .canB) → c.wordNow = true → c.clk.pfw = false →
      let again (o : Bool) (c : Chip) : Chip := c.putStartWord { c.startWord with
        rsv := 0, cf := 0, cw := false, rf := 0, rw := false, override := o || c.startWord.override }
      Restarts s (.retry p env) 4 env (tookWrite p 0x1010 7 ∘ again false) ∧
      (c.start.reserve14 = false → c.right rPairOverride = true →
        Restarts s (.retryWithOverride p env) 4 env (tookWrite p 0x1010 7 ∘ again true)))) ∧
  ∀ (c : Chip) (w : StartWord) (i v : Nat), c.areaBest 0 = some (i, v) → (i + 1) % 64 ≠ 0 → i < 511 →
    allOnes (c.areaWord 0 (i + 1)) = true → c.mem.infoWeak.contains (1025 + i) = false → c.cns.noEmpty.contains (16 + (i + 1) / 64) = false →
    c.wordNow = true → c.clk.pfw = false → c.startWord.serial ≠ 0x7FFFF →
    let d := c.writeStartWord w none
    d.start.word = nextWord c w ∧
    d.areaWord 0 (i + 1) = leBytes 4 (nextWord c w) ++ (leBytes 4 (nextWord c w)).map (~~~ ·) ∧
    ∀ j, j < 512 → j ≠ i + 1 → d.areaWord 0 j = c.areaWord 0 j ∧ ∀ k, k < 512 → d.areaWord 1 k = c.areaWord 1 k

/-! ## Accession and orders -/

/-- 03 R94 to R103: a raw transition begins a candidate or restarts its debounce; a candidate that has lasted its debounce time
qualifies, with a record of its first transition where the direction is recorded, none under suppression, and one of the
chatter where the count is reached; one that is taken back is counted; windows close and suppression ends.
Rests on the model's choices and readings of logs 60, 62. -/
def Obligations.InputQualification : Prop :=
  ∀ (s : State) (n : Fin 24), Live s →
    let c := s.dev.chip
    let b := c.acc.bis[n]
    let idx := 0x3100 + n.val
    let flipped (c : Chip) : Chip := { c with acc := { c.acc with rawBi := c.acc.rawBi ^^^ BitVec.ofNat 24 (2 ^ n.val) } }
    (c.acc.en = true → c.biOn n = true →
      (b.cand = none → c.biRaw n = b.qual → Becomes s (.biTransition n) fun c => withBi n { b with
        lastTrans := c.clk.raw, burst := b.burst + 1
        cand := some { t0 := c.clk.raw, stamp := c.stamp, angle := c.angle, cycle := c.phase.cycle, quality := c.quality
                       last := c.clk.raw, debounce := max 400 (4000 * c.cfg idx 3) } } (flipped c)) ∧
      (∀ k, b.cand = some k → Becomes s (.biTransition n) fun c => withBi n { b with
        lastTrans := c.clk.raw, burst := b.burst + 1, cand := some { k with last := c.clk.raw } } (flipped c))) ∧
    (∀ k, b.cand = some k → k.last + k.debounce ≤ c.clk.raw →
      let lvl := !b.qual
      let w : Nat × Nat := match b.win with
        | some (o, m) => if c.clk.raw < o + 400000 * c.cfg idx 6 then (o, m + 1) else (c.clk.raw, 1)
        | none => (c.clk.raw, 1)
      let win := if c.cfg idx 5 = 0 then b.win else some w
      let edge (c : Chip) : Chip := withBi n { b with qual := lvl, cand := none, win := win } c
      (c.biRaw n = b.qual → Becomes s (.candidateAbandon n) (withBi n { b with cand := none, filtered := b.filtered + 1 })) ∧
      (c.biRaw n ≠ b.qual → b.supp = true → Becomes s (.debounceExpiry n) (withBi n { b with
        qual := lvl, cand := none, win := win, suppRun := b.suppRun + 1, suppTotal := b.suppTotal + 1 })) ∧
      (c.biRaw n ≠ b.qual → b.supp = false → c.cfg idx 5 = 0 ∨ w.2 ≠ c.cfg idx 5 →
        ((c.cfg idx 4).testBit (if lvl then 0 else 1) = true → c.biOn n = true → (∀ a ∈ c.acc.queue, a.tick ≠ c.clk.raw) →
          Becomes s (.debounceExpiry n) fun c => logsAt k 0 (n.val + 32 * bit lvl) (2 ^ n.val) (edge c)) ∧
        ((c.cfg idx 4).testBit (if lvl then 0 else 1) = false → Becomes s (.debounceExpiry n) edge)) ∧
      (c.biRaw n ≠ b.qual → b.supp = false → c.cfg idx 5 ≠ 0 → w.2 = c.cfg idx 5 →
        Becomes s (.debounceExpiry n) fun c => logsAt k 0 (128 + n.val + 32 * bit lvl) (c.cfg idx 5 + 256 * c.cfg idx 6)
          (withBi n { b with qual := lvl, cand := none, supp := true, suppRun := 0, win := some w } c))) ∧
    (∀ o m, b.win = some (o, m) → o + 400000 * c.cfg idx 6 ≤ c.clk.raw →
      Becomes s (.chatterWindowClose n) (withBi n { b with win := none })) ∧
    (b.supp = true → b.cand = none → b.lastTrans + 400000 * c.cfg idx 7 ≤ c.clk.raw →
      Leaves s (.quietTimeExpiry n) [.acc] fun d => d.acc = arose { recordNow (withBi n { b with supp := false } c) clsBi 0
        (256 + n.val + 32 * bit b.qual) (min b.suppRun 0xFFFFFF) with t0 := c.clk.raw } (withBi n { b with supp := false } c).acc)

/-- 03 R112, R119 to R121, R129 to R138: a record is sealed with the next number and its tag and goes into the ring; with the ring full
an input record is lost and counted; a checkpoint takes its anchor, and its signature waits for its slots or is abandoned;
a firmware post makes a record, or is refused within 1 µs of the last.
Rests on the model's choices and readings of logs 11, 18, 58. -/
def Obligations.Sealing : Prop :=
  ∀ (s : State), Live s →
    let c := s.dev.chip
    (∀ a rest k, c.acc.en = true → c.acc.jSlot ≠ 0 → c.acc.jSlot < 255 → c.acc.queue = a :: rest → c.acc.losing = false → HasKey c 0 k →
      c.acc.lost = none → (∀ i < 32, c.judge 2 .write (0x11000000 + 32 * c.ringSlot c.acc.nextSeq + i) false = 0) →
      a.rcd.kind ∉ [9, 10, 11, 14] →
      (if a.rcd.kind = 0 ∨ a.rcd.kind = 15 then 64 < c.laneFree else 1 ≤ c.laneFree) → (c.cfg 0x3000 2).testBit a.rcd.kind = false →
      c.acc.ckReady = none → c.acc.nextSeq < 4294967295 →
      let r := sealed c k.key c.acc.untested a.rcd
      Leaves s (.seal false) [.acc] fun d =>
        d.acc.queue = rest ∧ d.acc.nextSeq = c.acc.nextSeq + 1 ∧ d.acc.prevTag = r.tag ∧ d.acc.jSlot = c.acc.jSlot + 1 ∧
        d.acc.jBlock = c.acc.jBlock ∧
        assoc (c.ringSlot c.acc.nextSeq) d.acc.ring =
          some { rcd := r, seq := c.acc.nextSeq, pos := c.acc.jBlock * 256 + c.acc.jSlot, tick := c.clk.raw } ∧
        (∀ j, j ≠ c.ringSlot c.acc.nextSeq → assoc j d.acc.ring = assoc j c.acc.ring) ∧
        d.acc.irq = c.acc.irq ||| (if a.rcd.kind = 15 then 5 else 1) ∧ d.acc.lostCount = c.acc.lostCount) ∧
    (∀ a rest, c.acc.en = true → c.acc.jSlot ≠ 0 → c.acc.queue = a :: rest → (a.rcd.kind = 0 ∨ a.rcd.kind = 15) → c.laneFree ≤ 64 →
      c.acc.ckReady = none → c.acc.losing = true ∨ c.acc.lost = none →
      Leaves s (.seal false) [.acc] fun d =>
        d.acc.queue = rest ∧ d.acc.losing = true ∧ d.acc.lostCount = c.acc.lostCount + 1 ∧ d.acc.nextSeq = c.acc.nextSeq ∧
        d.acc.ring = c.acc.ring ∧ d.acc.irq = (if c.acc.losing then c.acc.irq else c.acc.irq ||| 2)) ∧
    (∀ n, c.acc.newest = some n → c.acc.en = true → n.seq ≠ c.acc.lastAnchor → c.acc.anchorTick + 400000000 ≤ c.clk.raw →
      c.acc.ckSign = none → c.acc.ckReady = none → c.acc.jSlot ≠ 0 → c.acc.jSlot ≤ 252 → 4 ≤ c.laneFree →
      Becomes s .checkpointTrigger fun c => { c with acc := { c.acc with
        ckDue := false, ckSign := some n, lastAnchor := n.seq
        anchorTick := match c.shelved n.seq with | some x => x.tick | none => c.clk.raw } }) ∧
    (∀ a faults, c.acc.ckSign = some a → c.ckHasEcc = true →
      (3 ≤ faults → Becomes s (.checkpointSigned faults) fun c =>
        logs clsSec 9 0x300 (a.seq % 16777216) (alerted 0x80 { c with acc := { c.acc with ckSign := none } })) ∧
      (∀ k, faults < 3 → HasKey c 2 k → Becomes s (.checkpointSigned faults) fun c => { c with acc := { c.acc with
        ckSign := none, ckPos := 0
        ckReady := some (a, Crypto.ecdsaSign (beNat k.key) (Crypto.sha256
          (leBytes 4 c.acc.epoch ++ leBytes 4 a.seq ++ beBytes 8 a.tag.toNat ++ leBytes 8 a.stamp.toNat))) } })) ∧
    (∀ v : Byte, c.bus.staged = [] →
      let low := c.acc.postDat.toNat % 16777216
      (c.acc.postUntil ≤ c.clk.raw → Becomes s (.firmwarePost .curator v) fun c =>
        logs clsPost 15 (c.acc.postSrc.toNat % 4096) low { c with acc := { c.acc with
          postDat := BitVec.ofNat 32 low, postUntil := c.clk.raw + 400 } }) ∧
      (c.clk.raw < c.acc.postUntil → Becomes s (.firmwarePost .curator v) fun c =>
        { c with acc := { c.acc with postDat := BitVec.ofNat 32 low, postRef := true } }))

/-- 04 R137, R158 to R174; 08 R368: a host ORDER message waits for Verify with its port and instant; Verify takes the next message,
and one that passes every check raises the floor, is held, recorded and answered, or cancels; one that came with fewer than 32
free slots is rejected with reason 0x12, one whose tag is wrong with 1, a malformed one with 7, and one that is stale or too far
ahead with 2 or 3, without moving the floor. Rests on the model's choices and readings of logs 18, 29, 73. -/
def Obligations.OrderVerify : Prop :=
  ∀ (s : State), Live s →
    let c := s.dev.chip
    (∀ msg : Bytes, msg.length = 40 → HostTakes c → c.dead = false → c.cat.loaded = true → assoc 0x420001 c.cat.staged = none →
      (∀ i < 40, c.judge 3 .read (0x40008000 + i) false = 0) →
      Becomes s (.hostOrder 0 0 0 msg) fun c => tookWrite .host 0x4200 1 (framed (some 0x20) { c with
        ord := { c.ord with waiting := c.ord.waiting ++ [{
          port := .host, tick := c.clk.raw, bytes := msg, reply := .host, full := decide (c.freeSlots < 32) }] } })) ∧
    (∀ m k, Chip.nextMsg (if c.freeSlots < 32 then c.ord.waiting.filter (·.full) else c.ord.waiting) = some m → c.ord.cancels = [] →
      let b := m.bytes
      let n := msgKey b
      let p := orderPort m.port
      let blocks : List Block := [.ord, .acc, .host, .can, .cat, .tw, .tag]
      let data := msgMask b % 256 + 256 * (msgId b % 65536)
      let back (result : Bytes) (d : Chip) : Prop :=
        d.ord.waiting = c.ord.waiting.erase m ∧ assoc p d.ord.results = some (leBytes 4 (msgId b) ++ result) ∧
        (m.reply = .host → c.host.busy = some 0x20 →
          d.host.busy = none ∧ d.host.imm = some { status := 0, cmd := 0x20, payload := leBytes 4 (msgId b) ++ result })
      let refused (r : Nat) : Prop := Leaves s .verify blocks fun d =>
        back [1, byteOf r, 0, 0] d ∧ d.ord.keys = c.ord.keys ∧ d.ord.hold = c.ord.hold ∧
        d.ord.accepted = c.ord.accepted ∧ d.ord.rejected = c.ord.rejected + 1 ∧ d.ord.irq = c.ord.irq ||| 2 ∧
        d.acc = (logs clsOrder 3 (r * 64 + p * 16) data c).acc
      let accepted (ref entry : Nat) (d : Chip) : Prop :=
        back [0, 0, byteOf entry, 0] d ∧ d.ord.keys = c.ord.keys.set n { c.ord.keys[n] with floor := msgSeq b } ∧
        d.ord.accepted = c.ord.accepted + 1 ∧ d.ord.rejected = c.ord.rejected ∧ d.ord.irq = c.ord.irq ||| 1 ∧
        d.ord.drive = c.ord.drive ∧
        d.acc = (logs clsOrder 1 (msgAction b % 4 * 1024 + n.val * 256 + ref % 4 * 64 + p * 16 + entry) data c).acc
      (m.full = true → refused 0x12) ∧
      (m.full = false →
        (HasKey c (3 + n.val) k → c.start.mode ≠ 2 → c.clk.pfw = false → c.ord.ven = true → c.start.life ≠ .retd →
          (c.cfg 0x4000 (8 + n.val)).testBit 15 = true → (c.cfg 0x4000 (8 + n.val)).testBit (8 + p) = true →
          Chip.keyUnavailable c.ord.keys[n] = false → (Crypto.cmac k.key (b.take 32)).take 8 ≠ slice b 32 8 → refused 1) ∧
        (Authentic c m k →
          (msgFormed b = false → refused 7) ∧
          (msgFormed b = true → msgSeq b ≤ (c.ord.keys[n]).floor → refused 2) ∧
          (msgFormed b = true → (c.ord.keys[n]).floor < msgSeq b → (c.ord.keys[n]).ceil ≤ msgSeq b → refused 3) ∧
          (msgFormed b = true → (c.ord.keys[n]).floor < msgSeq b → msgSeq b + 16384 ≤ (c.ord.keys[n]).ceil → c.verifyTime b = none →
            (msgAction b = 2 → NoOrders c → Leaves s .verify blocks fun d =>
              accepted 0 0 d ∧ d.ord.hold = c.ord.hold ∧ d.ord.cancels = [(m.tick, msgMask b)]) ∧
            (∀ e, msgAction b ≠ 2 → c.verifyOuts m = none → c.freeEntry = some e → Leaves s .verify blocks fun d =>
              accepted (msgRef b) e.val d ∧ d.ord.hold = c.ord.hold.set e (some (c.heldOf m)) ∧
              (msgRef b = 0 → msgNotBefore b = 0 → ∀ o ∈ (c.heldOf m).outs,
                o.release = (c.clk.raw : Int) + 400 ∧ o.stage = .pending ∧ (msgMask b).testBit o.out = true))))))

/-- 04 R175 to R181, R191: a due output of an armed order in its time is driven active, with a record, and counted; disarmed or out of its
time it ends; a pulse ends after its width; a readback that is right is noted or ends the order, a wrong one latches the
output off; ARM_N arms after 1 µs and disarms after 20 ns; 0xA5 clears a latch.
Rests on the model's choices and readings of logs 46, 62. -/
def Obligations.OrderOutputs : Prop :=
  (∀ (s : State) (e : Fin 16) (h : Held) (o : OutOrder), Live s → OnlyHeld s.dev.chip e h → h.outs = [o] →
    let c := s.dev.chip
    let n := o.out
    let idx := 0x4100 + n.val
    let rest : Drive := if c.cfgB idx 1 = true ∧ c.cfgB idx 5 = false then .inactive else .highZ
    let src (ty : Nat) : Nat :=
      ty * 1024 + (if h.action = 3 then 512 else 0) + (if h.fallback then 256 else 0) + h.ref % 4 * 64 + orderPort h.port * 16 + e.val
    let data := 2 ^ n.val % 256 + 256 * (h.id % 65536)
    let inTime : Prop := h.notBefore ≤ c.stamp.toNat ∧ c.stamp.toNat ≤ h.notAfter
    (o.stage = .pending → o.release ≤ c.clk.raw →
      (c.ord.armed = true → inTime → h.action = 1 → Leaves s .releaseInstant [.ord, .acc, .cat] fun d =>
        d.ord.hold = c.ord.hold.set e (some { h with outs := [{ o with stage := .pulsing }] }) ∧
        d.ord.drive = c.ord.drive.set n .active ∧ d.ord.irq = c.ord.irq ||| 4 ∧
        d.cfg idx 8 = (c.cfg idx 8 + 1) % 4294967296 ∧ d.acc = (logs clsOrder 2 (src 0) data c).acc) ∧
      (c.ord.armed = true → inTime → h.action = 3 → Leaves s .releaseInstant [.ord, .acc] fun d =>
        d.ord = { c.ord with hold := c.ord.hold.set e (some { h with outs := [{ o with stage := .pulsing }] }) } ∧
        d.acc = (logs clsOrder 2 (src 0) data c).acc) ∧
      ((c.ord.armed = false ∨ ¬inTime) → Leaves s .releaseInstant [.ord, .acc, .host] fun d =>
        d.ord = { c.ord with hold := c.ord.hold.set e none, irq := c.ord.irq ||| 2 } ∧
        d.host = { c.host with notices := c.host.notices ||| 8 } ∧
        d.acc = (logs clsOrder 3 ((if c.ord.armed then 0x22 else 0x23) * 64 + orderPort h.port * 16 + e.val) data c).acc)) ∧
    (o.stage = .pulsing → o.release + o.width ≤ c.clk.raw → h.action = 1 → Leaves s .pulseEnd [.ord] fun d =>
      d.ord = { c.ord with
        drive := c.ord.drive.set n rest
        hold := c.ord.hold.set e (some { h with outs := [{ o with
          stage := .ended, endTick := c.clk.raw, endStamp := c.stamp, endAngle := c.angle, endCycle := c.phase.cycle
          endQual := c.quality, cut := false }] }) }) ∧
    (∀ pads : Byte, h.action = 1 →
      (o.stage = .pulsing → o.read1 = false → o.release + 800 ≤ c.clk.raw →
        (pads.getLsbD n.val = o.high → Becomes s (.confirmReadback pads) fun c => { c with ord := { c.ord with
          pads := pads, hold := c.ord.hold.set e (some { h with outs := [{ o with read1 := true }] }) } }) ∧
        (pads.getLsbD n.val ≠ o.high → Leaves s (.confirmReadback pads) [.ord, .acc, .cat] fun d =>
          d.ord = { c.ord with
            pads := pads, hold := c.ord.hold.set e none, drive := c.ord.drive.set n .highZ, irq := c.ord.irq ||| 8 } ∧
          d.cfgB idx 5 = true ∧ d.cfg idx 9 = (c.cfg idx 9 + 1) % 4294967296 ∧ d.acc = (logs clsOrder 2 (src 2) data c).acc)) ∧
      (o.stage = .ended → o.read1 = true → o.cut = false → o.endTick + 800 ≤ c.clk.raw → pads.getLsbD n.val ≠ o.high →
        Leaves s (.confirmReadback pads) [.ord, .acc] fun d =>
          d.ord = { c.ord with pads := pads, hold := c.ord.hold.set e none } ∧
          d.acc = arose { recordNow c clsOrder 2 (src 1) data with
            rcd := { c.mkRecord 2 (src 1) data with
              stamp := o.endStamp, angle := o.endAngle, cycle := o.endCycle, quality := o.endQual } } c.acc))) ∧
  ∀ (s : State), Live s →
    let c := s.dev.chip
    (c.ord.armLowSince = none → Becomes s .armNLow fun c => { c with ord := { c.ord with armLowSince := some c.clk.raw } }) ∧
    (∀ t, c.ord.armLowSince = some t → t + 400 ≤ c.clk.raw →
      Becomes s .armNArmed fun c => { c with ord := { c.ord with armed := true } }) ∧
    (∀ ns, 20 ≤ ns → NoOrders c →
      Becomes s (.armNDisarm ns) fun c => { c with ord := { c.ord with armed := false, armLowSince := none } }) ∧
    (∀ ns (e : Fin 16) (h : Held) (o : OutOrder), 20 ≤ ns → OnlyHeld c e h → h.outs = [o] → o.stage = .pulsing → h.action = 1 →
      Leaves s (.armNDisarm ns) [.ord, .acc] fun d =>
        d.ord.armed = false ∧ d.ord.drive = c.ord.drive.set o.out (c.restDrive o.out) ∧ d.ord.irq = c.ord.irq ||| 16 ∧
        d.ord.hold = c.ord.hold.set e (some { h with outs := [{ o with
          stage := .ended, endTick := c.clk.raw, endStamp := c.stamp, endAngle := c.angle, endCycle := c.phase.cycle
          endQual := c.quality, cut := true, read1 := true }] })) ∧
    (∀ n : Fin 8, c.cfgB (0x4100 + n.val) 5 = true → CatReady c → Leaves s (.latchClear .host n) [.ord, .cat] fun d =>
      d.cfgB (0x4100 + n.val) 5 = false ∧
      d.ord = { c.ord with drive := c.ord.drive.set n (if c.cfgB (0x4100 + n.val) 1 then .inactive else .highZ) } ∧
      ∀ i j, i < 0x10000 → j < 256 → ¬(i = 0x4100 + n.val ∧ j = 5) → d.objVal i j = c.objVal i j)

/-! ## The Conservator -/

/-- 05 R207, R216, R225, R244 to R246, R754: a window takes commands from its owner alone, and none but CANCEL while it is busy; a command
is queued, or ends with 0x12 under PFW_N, 0x13 misaligned or 0x10 not granted; CANCEL ends the one that waits with 6, and does
nothing to one that has started; the array takes the command that waits, refusing a program of a word not empty, and takes the
whole journal page that is sealed. Rests on the model's choices and readings of logs 2, 43. -/
def Obligations.WindowCommands : Prop :=
  ∀ (s : State) (w : CoreId), Live s →
    let c := s.dev.chip
    let i := ownerOf w
    let x := c.win w
    let a := x.addr.toNat
    let queued (op : FlashOp) (c : Chip) : Chip :=
      let d := setWin w { x with res := 1 } c
      { d with cns := { d.cns with queue := c.cns.queue ++ [op] } }
    (∀ j, j ≠ i → Becomes s (.program j w) id ∧ Becomes s (.erase j w) id ∧ Becomes s (.cancel j w) id) ∧
    (1 ≤ x.res.toNat → x.res.toNat ≤ 3 → Becomes s (.program i w) id ∧ Becomes s (.erase i w) id) ∧
    (WinFree c w →
      (c.clk.pfw = true → Becomes s (.program i w) (winEnds w 0x12) ∧ Becomes s (.erase i w) (winEnds w 0x12)) ∧
      (c.clk.pfw = false →
        (winAligned 1 a = false → Becomes s (.program i w) (winEnds w 0x13)) ∧
        (winAligned 2 a = false → Becomes s (.erase i w) (winEnds w 0x13)) ∧
        (winAligned 1 a = true → winGranted w a = false → Becomes s (.program i w) (winEnds w 0x10)) ∧
        (winAligned 2 a = true → winGranted w a = false → Becomes s (.erase i w) (winEnds w 0x10)) ∧
        (winAligned 1 a = true → winGranted w a = true → Becomes s (.program i w) (queued (.winProgram w a (x.buf.read 0 0 512)))) ∧
        (winAligned 2 a = true → winGranted w a = true → Becomes s (.erase i w) (queued (.winErase w a))))) ∧
    (∀ op l m, c.cns.queue = l ++ op :: m → (∀ o ∈ l, Chip.opWindow o ≠ some w) → c.cns.cwinOrphan = false →
      ((∃ at_ d, op = .winProgram w at_ d) ∨ ∃ at_, op = .winErase w at_) →
      Becomes s (.cancel i w) fun c => winEnds w 6 { c with cns := { c.cns with queue := l ++ m } }) ∧
    ((∀ o ∈ c.cns.queue, Chip.opWindow o ≠ some w) → Becomes s (.cancel i w) id) ∧
    (c.cns.run = none → c.cns.susp = none → c.clk.pfw = false → c.cns.rjobs = [] →
      (∀ off data, off < 0x800000 → c.unprogrammed = 0 → c.retired (off / 8192) = false →
        let full : Prop := c.notBlank (off / 8192) (off % 8192 / 512) data ≠ [] ∧ (off / 8192 < 320 ∨ 936 ≤ off / 8192)
        (c.cns.queue = [.winErase w (0x20000000 + off)] → Becomes s .flashOperationStart fun c =>
          let d := setWin w { x with res := 2 } c
          { d with cns := { d.cns with
            queue := [], run := some { op := .winErase w (0x20000000 + off), guarded := false, nested := false }
            susps := 0, yield := decide (c.cfg 0x5000 1 = 1) } }) ∧
        (c.cns.queue = [.winProgram w (0x20000000 + off) data] →
          (¬full → Becomes s .flashOperationStart fun c =>
            let d := setWin w { x with res := 2 } c
            { d with cns := { d.cns with
              queue := [], run := some { op := .winProgram w (0x20000000 + off) data, guarded := false, nested := false } } }) ∧
          (full → c.cns.cwinOrphan = false →
            Becomes s .flashOperationStart fun c => winEnds w 0x11 { c with cns := { c.cns with queue := [] } }))) ∧
      (∀ r, c.shelved c.acc.drainSeq = some r → 16 - r.pos % 16 ≤ c.unprogrammed → c.cns.queue = [] →
        c.retired (320 + r.pos / 256) = false → c.drainRefused c.acc.drainSeq (16 - r.pos % 16) = none →
        Becomes s .flashOperationStart fun c => { c with cns := { c.cns with
          pageDue := false
          run := some { op := .journalPage (r.pos / 256) (r.pos % 256 / 16) c.acc.drainSeq (16 - r.pos % 16) false
                        guarded := false, nested := false } } }))

/-- 05 R207 to R209, R211, R212, R219, R224, R225, R750; 10 R461: a program that verifies writes exactly its page, an erase that verifies
clears exactly its block or page, and each ends its window command with 4; one that fails is counted, and its block is to be
remapped; a journal page moves the drain on; a change of a placard block shows the placard in force; a suspended erase resumes
2 µs after the last read; a record waits at most 100 ms for its page.
Rests on the model's choices and readings of logs 2, 43, 62. -/
def Obligations.FlashEnds : Prop :=
  ∀ (s : State) (w : CoreId), Live s → s.dev.chip.tag.waitRead = none → s.dev.chip.rgr.imgStatus ≠ 4 →
    let c := s.dev.chip
    let ends (res : Byte) (d : Chip) : Prop := d.cns = (winShows w res { c with cns := freed c }).cns
    let placard (b : Nat) (d : Chip) : Prop :=
      d.tag = if b = 894 ∨ b = 895 then { c.tag with placard := d.bestPlacard } else c.tag
    (∀ r off (data : Bytes), c.cns.run = some r → r.op = .winProgram w (0x20000000 + off) data → off < 0x800000 → off % 512 = 0 →
      data.length = 512 → c.retired (off / 8192) = false →
      let at_ := 8192 * c.physOf (off / 8192) + off % 8192
      (c.mem.cut.contains (c.physOf (off / 8192)) = false → (∀ i, i < 64 → (assoc (at_ / 8 + i) c.mem.ecc) = none) →
        (∀ i, i < 512 → c.mem.flash.get 0xFF (at_ + i) = 0xFF) →
        Leaves s (.programDone []) [.mem, .cns, .tag] fun d =>
          ends 4 d ∧ placard (off / 8192) d ∧ (∀ i, i < 512 → d.mem.flash.get 0xFF (at_ + i) = data.getD i 0) ∧
          (∀ a, (a < at_ ∨ at_ + 512 ≤ a) → d.mem.flash.get 0xFF a = c.mem.flash.get 0xFF a) ∧ d.mem.info = c.mem.info) ∧
      (∀ us, ((Chip.pageWords data).any fun x => us.contains x.1) = true →
        Leaves s (.programDone us) [.mem, .cns, .clk] fun d =>
          d.cns = { freed c with
            progFails := c.cns.progFails + 1, queue := c.cns.queue ++ [.remap r.op 1 (off / 8192) (off % 8192) data] } ∧
          (∀ a, (a < at_ ∨ at_ + 512 ≤ a) → d.mem.flash.get 0xFF a = c.mem.flash.get 0xFF a) ∧ d.mem.info = c.mem.info)) ∧
    (∀ r b page f n fl, c.cns.run = some r → r.op = .journalPage b page f n fl → c.retired (320 + b) = false →
      c.notBlank (320 + b) page (c.journalData f n) = [] →
      let at_ := 8192 * c.physOf (320 + b) + 512 * page
      let next := (f + n) % 4294967296
      let last := (f + n - 1) % 4294967296
      Leaves s (.programDone []) [.mem, .cns, .acc] fun d =>
        d.acc = { c.acc with
          drainSeq := if seqLt c.acc.drainSeq next then next else c.acc.drainSeq
          losing := c.acc.losing && decide (d.freeSlots < 128) } ∧
        d.cns = { freed c with jNewest := match c.cns.jNewest with
          | some j => if seqLt j last then some last else some j
          | none => some last } ∧
        (∀ a, (a < at_ ∨ at_ + 512 ≤ a) → d.mem.flash.get 0xFF a = c.mem.flash.get 0xFF a) ∧ d.mem.info = c.mem.info) ∧
    (∀ r off, c.cns.run = some r → r.op = .winErase w (0x20000000 + off) → off < 0x800000 →
      let p := c.physOf (off / 8192)
      (Leaves s (.eraseDone true) [.mem, .cns, .tag] fun d =>
        ends 4 d ∧ placard (off / 8192) d ∧
        (∀ a, d.mem.flash.get 0xFF a = if 8192 * p ≤ a ∧ a < 8192 * p + 8192 then 0xFF else c.mem.flash.get 0xFF a) ∧
        d.mem.info = c.mem.info) ∧
      Becomes s (.eraseDone false) fun c => { c with cns := { freed c with
        eraseFails := c.cns.eraseFails + 1, queue := c.cns.queue ++ [.remap r.op 2 (off / 8192) 0 []] } }) ∧
    (∀ r p, c.cns.run = some r → r.op = .winErase w (0x21000000 + 512 * p) → p < 32 →
      Leaves s (.infoPageEraseDone true) [.mem, .cns] fun d =>
        d.cns = (winShows w 4 { c with cns := { freed c with noEmpty := c.cns.noEmpty.filter (· != p) } }).cns ∧
        (∀ a, d.mem.info.get 0xFF a = if 512 * p ≤ a ∧ a < 512 * p + 512 then 0xFF else c.mem.info.get 0xFF a) ∧
        d.mem.flash = c.mem.flash) ∧
    (∀ a, c.cns.susp = some (.winErase w a) → c.cns.run = none → c.cns.lastRead + 800 ≤ c.clk.raw → c.clk.pfw = false →
      Becomes s .eraseResume fun c =>
        let d := setWin w { c.win w with res := 2 } c
        { d with cns := { d.cns with susp := none, run := some { op := .winErase w a, guarded := false, nested := false } } }) ∧
    (∀ x, c.shelved c.oldestWaiting = some x → c.oldestWaiting ≠ c.acc.nextSeq → x.tick + 40000000 ≤ c.clk.raw →
      Becomes s .journalPageTimeout fun c => { c with cns := { c.cns with pageDue := true } })

/-- 05 R218, R234 to R239: a pass begins when its days have run out; at each interval it visits the block that waits for it, else the
next one, unless the array is busy; a block with a command pending is left for the end; one that reads clean is only counted off, a
weak one is to be refreshed; past the last block the pass ends and its time is kept.
Rests on the model's choices and readings of logs 43, 62. -/
def Obligations.ConservationPass : Prop :=
  ∀ (s : State), Live s →
    let c := s.dev.chip
    (c.cns.pass = false → c.acc.en = true →
      (c.cfg 0x5000 6 = 0 ∨ c.nowNs < stampNs (BitVec.ofNat 64 (c.cfg 0x5000 6)) ∨
        stampNs (BitVec.ofNat 64 (c.cfg 0x5000 6)) + c.cfg 0x5000 4 * 86400 * 1000000000 ≤ c.nowNs) →
      Becomes s .passDue fun c => { c with cns := { c.cns with pass := true, passPos := 0, passTick := c.clk.raw, passLater := [] } }) ∧
    (c.cns.pass = true → c.cns.passTick + 400000 * c.cfg 0x5000 5 ≤ c.clk.raw →
      (∀ b rest, c.cns.sched = b :: rest → c.passBusy b = false → c.retired b = false → c.cns.run = none → c.underErase b = false →
        c.mem.ecc = [] → c.mem.cut = [] → Becomes s (.passBlockInterval []) fun c => { c with cns := { c.cns with
          passTick := c.clk.raw, lastRead := c.clk.raw, sched := c.cns.sched.filter (· != b) } }) ∧
      (c.cns.sched = [] →
        (∀ b, c.cns.passPos = b → b < 1024 →
          (∀ l, c.passBusy b = true → Becomes s (.passBlockInterval l) fun c => { c with cns := { c.cns with
            passTick := c.clk.raw, passPos := b + 1, passLater := c.cns.passLater ++ [b] } }) ∧
          (∀ l, c.passBusy b = false → c.readWaits (some b) = true → Becomes s (.passBlockInterval l) id) ∧
          (∀ l, c.passBusy b = false → c.readWaits (some b) = false → c.retired b = true → Becomes s (.passBlockInterval l) fun c =>
            { c with cns := { c.cns with passTick := c.clk.raw, passPos := b + 1 } }) ∧
          (c.passBusy b = false → c.cns.run = none → c.underErase b = false → c.retired b = false → c.mem.ecc = [] → c.mem.cut = [] →
            let read : Cns := { c.cns with passTick := c.clk.raw, passPos := b + 1, lastRead := c.clk.raw }
            Becomes s (.passBlockInterval []) (fun c => { c with cns := read }) ∧
            (∀ n ns, .refresh b ∉ c.cns.queue →
              Becomes s (.passBlockInterval (n :: ns)) fun c => { c with cns := { read with queue := read.queue ++ [.refresh b] } }))) ∧
        (1024 ≤ c.cns.passPos → c.cns.passLater = [] → Leaves s (.passBlockInterval []) [.cns, .cat] fun d =>
          d.cns = { c.cns with passTick := c.clk.raw, pass := false, passPos := 0xFFFF, irq := c.cns.irq ||| 16 } ∧
          d.cfg 0x5000 6 = c.stamp.toNat ∧ d.cat.dirtyFast = true)))

/-! ## Vault and entropy -/

/-- 06 R271, R274, R275; 06 Table 06-12: a command written to a free channel by its owner is queued with its slot, flags, length, IV, IN
and attributes as they then are; a busy channel and another initiator have no effect. Rests on the model's choices and readings of
log 2. -/
def Obligations.VaultCommands : Prop :=
  ∀ (s : State) (ch : CoreId), Live s →
    TakesJob s .ecbEncrypt ch 0x01 ∧ TakesJob s .ecbDecrypt ch 0x02 ∧ TakesJob s .cbcEncrypt ch 0x03 ∧
    TakesJob s .cbcDecrypt ch 0x04 ∧ TakesJob s .ctr ch 0x05 ∧ TakesJob s .cmac ch 0x06 ∧
    TakesJob s .sha256 ch 0x08 ∧ TakesJob s .hmac ch 0x09 ∧ TakesJob s .ecdsaSign ch 0x0A ∧
    TakesJob s .ecdsaVerify ch 0x0B ∧ TakesJob s .ecdh ch 0x0C ∧ TakesJob s .publicKey ch 0x0D ∧
    TakesJob s .loadKey ch 0x10 ∧ TakesJob s .clearKey ch 0x11

/-- 06 R258, R264, R269, R271 to R276, R288: what each command of a channel leaves in OUT and its chain when its engine ends it, over a
sound key that its channel may use; a slot that is empty or not allowed ends with 0x11 or 0x10, a wrong length with 0x12, a chain
not begun with 0x16; keys are loaded and cleared, and an entry written in copy A is in force with the next counter.
Rests on the model's choices and readings of logs 18, 42. -/
def Obligations.VaultResults : Prop :=
  ∀ (s : State) (j : VaultJob) (k : KeySlot) (n : Nat), Live s →
    let c := s.dev.chip
    let last : Bool := j.flags.testBit 1
    let d := j.inp.take j.len
    let kept := (c.chan j.ch).chain
    let gives (res : Byte) (out : Bytes) (chain : Option Chain) : Prop :=
      Becomes s (.vaultCommandDone ⟨Chip.engineOf j.cmd, n⟩) (jobEnds j res out chain)
    let chained (acc : Bytes) : Option Chain := if last then none else some { cmd := j.cmd, slot := j.slot, acc }
    (AtEngine c j →
      (∀ acc, GoesOn c j acc → j.len ≤ 256 →
        let iv := if j.flags.testBit 0 then j.iv else acc
        (HasKey c j.slot k → MayUse j.ch k 0 [0, 1] →
          (j.len % 16 = 0 → j.cmd = 0x01 → gives 4 (Crypto.ecbEnc k.key d) (chained [])) ∧
          (j.len % 16 = 0 → j.cmd = 0x03 → gives 4 (Crypto.cbcEnc k.key iv d).1 (chained (Crypto.cbcEnc k.key iv d).2)) ∧
          (last = true ∨ j.len % 16 = 0 → j.cmd = 0x05 → gives 4 (Crypto.ctr k.key iv d).1 (chained (Crypto.ctr k.key iv d).2))) ∧
        (HasKey c j.slot k → MayUse j.ch k 1 [0, 1] → j.len % 16 = 0 →
          (j.cmd = 0x02 → gives 4 (Crypto.ecbDec k.key d) (chained [])) ∧
          (j.cmd = 0x04 → gives 4 (Crypto.cbcDec k.key iv d).1 (chained (Crypto.cbcDec k.key iv d).2))) ∧
        (HasKey c j.slot k → MayUse j.ch k 2 [0, 1] → j.cmd = 0x06 →
          (last = true → gives 4 (Crypto.cmac k.key (acc ++ d)) none) ∧
          (last = false → j.len % 16 = 0 → gives 4 [] (chained (acc ++ d)))) ∧
        (j.cmd = 0x08 →
          (last = true → gives 4 (Crypto.sha256 (acc ++ d)) none) ∧
          (last = false → j.len % 64 = 0 → gives 4 [] (chained (acc ++ d)))) ∧
        (HasKey c j.slot k → MayUse j.ch k 3 [2] → j.cmd = 0x09 →
          (last = true → gives 4 (Crypto.hmac k.key (acc ++ d)) none) ∧
          (last = false → j.len % 64 = 0 → gives 4 [] (chained (acc ++ d)))) ∧
        (HasKey c j.slot k → MayUse j.ch k 4 [3] → j.len = 32 → j.cmd = 0x0A →
          (n < 3 → gives 4 (Crypto.ecdsaSign (beNat k.key) (j.inp.take 32)) none) ∧ (3 ≤ n → gives 0x15 [] none)) ∧
        (j.len = 160 → j.cmd = 0x0B →
          (Crypto.onCurve (beNat ((slice j.inp 32 64).take 32)) (beNat ((slice j.inp 32 64).drop 32)) = true →
            gives (if Crypto.sigInRange (slice j.inp 96 64) &&
              Crypto.ecdsaVerify (slice j.inp 32 64) (j.inp.take 32) (slice j.inp 96 64) then 4 else 8) [] none) ∧
          (Crypto.onCurve (beNat ((slice j.inp 32 64).take 32)) (beNat ((slice j.inp 32 64).drop 32)) = false →
            gives 0x13 [] none)) ∧
        (HasKey c j.slot k → MayUse j.ch k 5 [3] → j.len = 64 → j.cmd = 0x0C →
          (Crypto.onCurve (beNat ((j.inp.take 64).take 32)) (beNat ((j.inp.take 64).drop 32)) = true →
            gives 4 (Crypto.ecdh (beNat k.key) (j.inp.take 64)) none) ∧
          (Crypto.onCurve (beNat ((j.inp.take 64).take 32)) (beNat ((j.inp.take 64).drop 32)) = false → gives 0x13 [] none)) ∧
        (HasKey c j.slot k → k.attr.toNat / 256 % 4 = 3 → j.cmd = 0x0D → gives 4 (Crypto.pubKey (beNat k.key)) none)) ∧
      (j.cmd = 0x08 → 256 < j.len ∨ (last = false ∧ j.len % 64 ≠ 0) → gives 0x12 [] kept) ∧
      (j.cmd = 0x08 → j.len = 64 → j.flags.testBit 0 = false → kept = none → gives 0x16 [] none) ∧
      (j.cmd ∈ [1, 2, 3, 4, 5, 6, 9, 10, 12, 13] →
        (c.slotOf j.slot = none → gives 0x11 [] kept) ∧
        (HasKey c j.slot k → k.attr.toNat.testBit 14 = true → j.cmd ≠ 13 → gives 0x10 [] kept)) ∧
      (j.cmd = 0x10 ∨ j.cmd = 0x11 → j.ch = .registrar ∨ j.slot < 9 ∨ 15 < j.slot → gives 0x10 [] none) ∧
      (j.ch = .curator → 9 ≤ j.slot → (h : j.slot < 16) → j.flags.testBit 0 = true →
        ((∀ x, c.vlt.slots[j.slot] = some x → x.attr.toNat.testBit 15 = false) →
          (j.cmd = 0x10 → Chip.loadOk j = true → j.attr.testBit 15 = false →
            Becomes s (.vaultCommandDone ⟨.key, n⟩) fun c => jobEnds j 4 [] none
              { c with vlt := { c.vlt with slots := c.vlt.slots.set j.slot (some {
                key := j.key.take (Chip.keyLen j.attr), inv := (j.key.take (Chip.keyLen j.attr)).map (~~~ ·)
                attr := BitVec.ofNat 16 j.attr }) } }) ∧
          (j.cmd = 0x11 → Becomes s (.vaultCommandDone ⟨.key, n⟩) fun c => jobEnds j 4 [] none
            { c with vlt := { c.vlt with slots := c.vlt.slots.set j.slot none } })) ∧
        (j.cmd = 0x10 → Chip.loadOk j = true → j.attr.testBit 15 = true →
          (c.clk.pfw = true → gives 0x14 [] none) ∧
          (c.clk.pfw = false → Becomes s (.vaultCommandDone ⟨.key, n⟩) fun c =>
            let d := setChan .curator { c.vlt.cch with res := 2 } c
            { d with
              vlt := { d.vlt with jobs := c.vlt.jobs.erase j, writes := c.vlt.writes ++ [.load j] }
              cns := { c.cns with queue := c.cns.queue ++ [.vaultWrite] } })))) ∧
    (∀ r rest b page buf, c.cns.run = some r → r.op = .vaultWrite → c.vlt.writes = .load j :: rest → j.orphan = false → j.slot < 16 →
      c.rgr.imgStatus ≠ 4 → c.wkTarget 0 (c.wkEntry (.load j)) = some (b, page, buf) → c.retired b = false →
      c.notBlank b page buf = [] → Chip.pageWords buf ≠ [] →
      (Leaves s (.wrappedKeyWriteDone true) [.mem, .cns, .vlt] fun t =>
        t.cns = { freed c with queue := .vaultEntry 1 (c.wkEntry (.load j)) :: c.cns.queue } ∧
        t.vlt.writes = rest ∧ t.vlt.counter = (c.vlt.counter + 1) % 4294967296 ∧
        t.slotOf j.slot = some { key := j.key.take (Chip.keyLen j.attr), inv := (j.key.take (Chip.keyLen j.attr)).map (~~~ ·)
                                 attr := BitVec.ofNat 16 j.attr } ∧
        (t.chan j.ch).res = 4 ∧ t.vlt.irq = c.vlt.irq ||| (match j.ch with | .curator => 1 | .registrar => 2) ∧
        (∀ m, m ≠ j.slot → t.slotOf m = c.slotOf m)) ∧
      Leaves s (.wrappedKeyWriteDone false) [.mem, .cns, .clk] fun t =>
        t.cns = { freed c with
          progFails := c.cns.progFails + 1, queue := c.cns.queue ++ [.remap .vaultWrite 1 b (512 * page) buf] })

/-- 06 R277 to R283, R289: samples of the start-up test accumulate; 1024 without 41 equal in a row and without 800 like the first end it, 41
equal ones or 800 like the first fail it; a byte of samples that pass both tests goes into the FIFO and a read takes the oldest; a
failing test stops delivery, with its record; 0xA5 alone restarts a blocked source, up to four times.
Rests on the model's choices and readings of logs 15, 61. -/
def Obligations.Entropy : Prop :=
  ∀ (s : State), Live s →
    let c := s.dev.chip
    let fails (kind : Nat) (d : Chip) : Prop :=
      d.trn.fifo = [] ∧ d.trn.fails = c.trn.fails + 1 ∧ d.trn.irq = c.trn.irq ||| 2 ∧
      d.trn.st = (if 4 ≤ c.trn.restarts then .exhausted else .blocked) ∧ d.dbg = { c.dbg with entHid := false } ∧
      d.acc = (logs clsSec 9 (0x200 + kind) ((c.trn.fails + 1) % 256) c).acc ∧ d.rgr.alerts = c.rgr.alerts ||| 0x80
    (c.trn.st = .testing → c.trn.last = none → c.trn.aptN = 0 →
      (∀ l : List Bool, l.length ≤ 1024 → (∀ i, i + 41 ≤ l.length → ∃ j, j < 41 ∧ l[i + j]? ≠ l[i]?) → l.count (l.headD false) < 800 →
        Leaves s (.entropyStartupTestDone l) [.trn] fun d =>
          d.trn.st = (if l.length = 1024 then .delivering else .testing) ∧ d.trn.aptN = l.length ∧
          d.trn.fifo = c.trn.fifo ∧ d.trn.fails = c.trn.fails ∧ d.trn.irq = c.trn.irq) ∧
      (∀ (b : Bool) (l : List Bool), Leaves s (.entropyStartupTestDone (List.replicate 41 b ++ l)) [.trn, .acc, .rgr, .start, .dbg] fun d =>
        fails 0 d ∧ d.start.findings.testBit 5 = true) ∧
      (∀ l : List Bool, l.length ≤ 1024 → 800 ≤ l.count (l.headD false) →
        Leaves s (.entropyStartupTestDone l) [.trn, .acc, .rgr, .start, .dbg] fun d =>
          fails 0 d ∧ d.start.findings.testBit 5 = true)) ∧
    (∀ (i : Init) (v : Byte),
      (c.may i true 0x40006008 v = true → v = 0xA5 → c.trn.st = .blocked → c.trn.restarts < 4 → Becomes s (.trnRestart i v) fun c =>
        { c with trn := { c.trn with
          st := .testing, restarts := c.trn.restarts + 1, fifo := [], last := none, run := 0, aptN := 0, aptC := 0 } }) ∧
      ((c.may i true 0x40006008 v = false ∨ v ≠ 0xA5 ∨ c.trn.st ≠ .blocked ∨ 4 ≤ c.trn.restarts) → Becomes s (.trnRestart i v) id)) ∧
    (∀ i : Init,
      (c.may i false 0x40006004 0 = true →
        (∀ b r, c.trn.st = .delivering → c.trn.fifo = b :: r → Becomes s (.trnDataRead i) fun c =>
          { c with trn := { c.trn with fifo := r } }) ∧
        ((c.trn.fifo = [] ∨ c.trn.st ≠ .delivering) → Becomes s (.trnDataRead i) fun c => { c with trn := { c.trn with under := true } })) ∧
      (c.may i false 0x40006004 0 = false → Becomes s (.trnDataRead i) id)) ∧
    (c.trn.st = .delivering →
      (∀ p : Bool, Leaves s (.entropyTestFailure p) [.trn, .acc, .rgr, .dbg] fun d => fails (if p then 2 else 1) d) ∧
      (∀ b : Byte, (Chip.trnSamples ((List.range 8).map fun i => b.getLsbD i) c.trn).2 = 0 →
        (c.trn.fifo.length < 32 → Leaves s (.deliveredByte b) [.trn] fun d =>
          d.trn.fifo = c.trn.fifo ++ [b] ∧ d.trn.st = .delivering ∧ d.trn.fails = c.trn.fails ∧
          d.trn.irq = if c.trn.fifo.length + 1 = c.trn.thresh.toNat then c.trn.irq ||| 1 else c.trn.irq) ∧
        (32 ≤ c.trn.fifo.length → Leaves s (.deliveredByte b) [.trn] fun d =>
          d.trn.fifo = c.trn.fifo ∧ d.trn.st = .delivering ∧ d.trn.fails = c.trn.fails ∧ d.trn.irq = c.trn.irq)))

/-! ## The Catalogue -/

/-- 07 R316 to R328, R344: a port that may write begins a transaction, rolls it back, and commits staged values that are not stored, at
once or at the next crossing; one port's commands are refused while another's transaction is live, and out of their turn; an idle
transaction ends by its timeout, and a crossing that does not come within two nominal periods is not waited for.
Rests on the model's choices and readings of logs 44, 62. -/
def Obligations.CatalogueTransactions : Prop :=
  ∀ (s : State) (p : Port), Live s → s.dev.chip.cat.loaded = true →
    let c := s.dev.chip
    let rank : Port → Nat
      | .internal => 0 | .host => 1 | .canA => 2 | .canB => 3 | .twoWire => 4 | .contactless => 5 | .debug => 6 | .curator => 7
    let writes : Prop := p ≠ .contactless ∧ p ≠ .curator ∧ (p = .debug → c.right rCatWrite = true)
    let live : Prop := c.cat.txState = 1 ∨ c.cat.txState = 2
    let mine : Prop := c.cat.owner = p ∨ (c.cat.owner = .canA ∧ p = .canB) ∨ (c.cat.owner = .canB ∧ p = .canA)
    let ended (ty result : Nat) (c : Chip) : Chip :=
      { logs clsCat 8 (ty * 256 + rank c.cat.owner * 16) (c.cat.staged.length % 256 + 256 * (c.cat.token % 65536)) c
        with cat := { c.cat with txState := 3, result := result, staged := [] } }
    let refused (i : Port → Instr) : Prop := Becomes s (i p) id
    ((¬writes ∨ (live ∧ ¬mine) ∨ c.cat.txState = 2) →
      refused .begin ∧ refused .commit ∧ refused .rollback ∧ refused .commitAtZeroCrossing) ∧
    (¬live → refused .commit ∧ refused .rollback ∧ refused .commitAtZeroCrossing) ∧
    (c.cat.txState = 1 → refused .begin) ∧
    (writes → ¬live → Becomes s (.begin p) fun c => tookWrite p 0x1F00 1 { c with cat := { c.cat with
      token := (c.cat.token + 1) % 4294967296, staged := [], owner := p, txState := 1, txTick := c.clk.raw, timedOut := none } }) ∧
    (writes → c.cat.txState = 1 → mine →
      Becomes s (.rollback p) (tookWrite p 0x1F00 1 ∘ ended 1 2) ∧
      (c.cat.staged = [] → c.commitRelationsOk [] = true →
        Becomes s (.commit p) (fun c => tookWrite p 0x1F00 1 (let d := ended 0 1 c
          { d with cat := { d.cat with irq := c.cat.irq ||| 4 } })) ∧
        Becomes s (.commitAtZeroCrossing p) (fun c => tookWrite p 0x1F00 1 { c with cat := { c.cat with
          txState := 3, result := 5
          crossing := c.cat.crossing ++ [{
            vals := [], count := 0, token := c.cat.token, port := c.cat.owner
            limit := c.clk.raw + (800000000000 + c.cfg 0x2020 1 - 1) / c.cfg 0x2020 1 }] } })) ∧
      (∀ v, c.cat.staged = [(256 * 0x3200 + 6, v)] → c.commitRelationsOk c.cat.staged = true →
        (Leaves s (.commit p) [.cat, .acc] fun d => d.acc.hostMark = leNat v ∧ d.cat.txState = 3 ∧ d.cat.result = 1 ∧ d.cat.staged = []) ∧
        Leaves s (.commitAtZeroCrossing p) [.cat] fun d => d.cat.txState = 3 ∧ d.cat.result = 5 ∧ d.cat.staged = [] ∧
          d.cat.crossing.map (·.vals) = c.cat.crossing.map (·.vals) ++ [c.cat.staged])) ∧
    (c.cat.txState = 1 → c.cat.txTick + 400000 * c.cfg 0x1F00 6 ≤ c.clk.raw → Leaves s .transactionTimeout [.cat, .acc, .host] fun d =>
      d.cat = { (ended 2 3 c).cat with timedOut := some c.cat.owner } ∧ d.acc = (ended 2 3 c).acc ∧
      d.host = if c.cat.owner = .host then { c.host with notices := c.host.notices ||| 2 } else c.host) ∧
    (∀ x, c.cat.crossing = [x] → x.vals = [] → x.limit ≤ c.clk.raw →
      Becomes s .crossingApplyTimeout fun c => { logs clsCat 8 (rank x.port * 16 + 2) (x.count % 256 + 256 * (x.token % 65536)) c with
        cat := { c.cat with crossing := [], irq := c.cat.irq ||| 4, result := if c.cat.result = 5 then 1 else c.cat.result } })

/-- 07 R302 to R313, R329, R337, R347: a request is served after its arbitration window: a read answers the value in force, a write of a
read-only object 0xC003, a write of the host mark moves it; a verified internal image is in force in its slot, and one that does not
verify is not; an image is built when one is due; a firmware request ends after 20 ms; the channels present their owners' requests
when they are free. Rests on the model's choices and readings of logs 2, 62. -/
def Obligations.CatalogueService : Prop :=
  ∀ (s : State), Live s →
    let c := s.dev.chip
    let answer (cmd status : Byte) (p : Bytes) (c : Chip) : Chip := { c with host := { c.host with
      imm := some { status, cmd, payload := p }, busy := none, idleSince := c.clk.raw } }
    (∀ q cmd o, c.cat.reqs = [q] → q.tick / 400 < c.clk.raw / 400 → q.reply = .host → c.host.busy = some cmd → cmd ≠ 0x20 →
      firmwareIdx q.idx = false → objRow q.idx q.sub = some o →
      (q.write = false → o.acc ≠ .wo → c.cat.txState ≠ 1 → c.cat.txState ≠ 2 → Becomes s .arbiterWindowClose fun c =>
        answer cmd 0 (c.readValue q.port q.idx q.sub) { c with cat := { c.cat with reqs := [] } }) ∧
      (q.write = true → o.acc = .ro → Becomes s .arbiterWindowClose fun c =>
        answer cmd 1 [0x03, 0xC0] { c with cat := { c.cat with reqs := [] } }) ∧
      (q.write = true → q.port = .host → q.idx = 0x3200 → q.sub = 6 → q.data.length = 4 → c.cat.txState ≠ 1 → c.cat.txState ≠ 2 →
        c.cat.timedOut = none → c.cat.taken = [] → sub32 (leNat q.data) c.acc.baseSeq ≤ sub32 c.newestSeq c.acc.baseSeq →
        Leaves s .arbiterWindowClose [.cat, .acc, .host] fun d =>
          d.acc = { c.acc with hostMark := leNat q.data } ∧ d.cat.reqs = [] ∧ d.cat.vals = c.cat.vals ∧ d.host = (answer cmd 0 [] c).host)) ∧
    (∀ r j, c.cns.run = some r → (r.op = .catImage ∨ r.op = .catRead) → c.cat.job = some j → j.why = .internal →
      j.image.length ≤ 8192 → c.rgr.imgStatus ≠ 4 →
      (c.retired (896 + c.nextSlot) = false → Leaves s (.storeImageVerified true) [.mem, .cns, .cat, .acc] fun d =>
        d.cat.gen = (c.cat.gen + 1) % 4294967296 ∧ d.cat.slot = some c.nextSlot ∧ d.cat.job = none ∧ d.cat.nextErased = false ∧
        d.cat.size = j.image.length ∧ d.cat.noImage = false ∧ d.cat.vals = c.cat.vals ∧
        d.cns = { freed c with queue := c.cns.queue ++ [.catErase d.nextSlot] } ∧
        (∀ i, i < j.image.length → d.mem.flash.get 0xFF (8192 * c.physOf (896 + c.nextSlot) + i) = j.image.getD i 0) ∧
        d.acc = (logs clsCat 8 0x500 ((c.cat.gen + 1) % 4294967296 % 16777216) c).acc) ∧
      Leaves s (.storeImageVerified false) [.mem, .cns, .cat, .clk] fun d =>
        d.cat = { c.cat with job := none, nextErased := false } ∧
        d.cns = { freed c with
          queue := (c.cns.queue.filter fun o => o != .catImage && o != .catRead) ++ [.catErase c.nextSlot] }) ∧
    (c.cat.dirtyFast = true → c.cat.job = none → c.cat.nextErased = true → c.clk.pfw = false → c.retired (896 + c.nextSlot) = false →
      Leaves s .internalImageTimer [.cat, .cns] fun d =>
        d.cns = { c.cns with queue := c.cns.queue ++ [.catImage] } ∧
        ∃ j, d.cat = { c.cat with job := some j } ∧ j.why = .internal ∧ j.vals = [] ∧ j.image.take 4 = ([0x56, 0x51, 0x43, 0x53] : Bytes) ∧
          leAt j.image 4 4 = (c.cat.gen + 1) % 4294967296 ∧ leAt j.image 28 4 = crc32 (j.image.take 28 ++ j.image.drop 32)) ∧
    (c.cat.dirtyFast = false → c.cat.dirtySlow = false → Becomes s .internalImageTimer id) ∧
    (∀ q cmd, c.cat.mbox = [q] → q.tick + 8000000 ≤ c.clk.raw → q.reply = .host → c.host.busy = some cmd →
      Becomes s .firmwareRequestTimeout fun c => answer cmd 1 [0x0D, 0xC0] { c with cat := { c.cat with mbox := [] } }) ∧
    (let k := c.cat.cch
     (k.res ≠ 1 → Becomes s (.catChannelRead .curator .curator) fun c => { c with cat := { c.cat with
       cch := { k with res := 1 }
       reqs := c.cat.reqs ++ [{ port := .curator, tick := c.clk.raw, write := false, idx := k.idx.toNat, sub := k.sub.toNat, data := []
                                reply := .curator }] } }) ∧
     (k.res = 1 → Becomes s (.catChannelRead .curator .curator) id) ∧
     ∀ i, i ≠ .curator → Becomes s (.catChannelRead i .curator) id) ∧
    (let k := c.cat.rch
     let asked (w : Bool) (d : Bytes) (c : Chip) : Chip := { c with cat := { c.cat with
       rch := { k with res := 1 }
       reqs := c.cat.reqs ++ [{ port := .internal, tick := c.clk.raw, write := w, idx := k.idx.toNat, sub := k.sub.toNat, data := d
                                reply := .registrar }] } }
     (k.res ≠ 1 → Becomes s (.catChannelRead .registrar .registrar) (asked false []) ∧
       ((k.idx ≠ 0x4200 ∨ k.sub ≠ 1) →
         Becomes s (.catChannelWrite .registrar .registrar) (asked true (k.data.read 0 0 k.len.toNat)))) ∧
     (k.res = 1 → Becomes s (.catChannelRead .registrar .registrar) id ∧ Becomes s (.catChannelWrite .registrar .registrar) id) ∧
     ∀ i, i ≠ .registrar → Becomes s (.catChannelRead i .registrar) id ∧ Becomes s (.catChannelWrite i .registrar) id)

/-! ## The host port -/

/-- 02 R48; 08 R352 to R372, R378: a good frame of each command is counted and answered: at once in the immediate slot, with HRDY low until
the Catalogue answers, or deferred; the deferred slot takes one command; a ToD message is taken in its window; a frame that began in
busy time is discarded; a dead chip refuses. Rests on the model's choices and readings of logs 2, 56, 59. -/
def Obligations.HostCommands : Prop :=
  ∀ (s : State), Live s →
    let c := s.dev.chip
    let asked (cmd : Byte) (q : CatReq) (c : Chip) : Chip :=
      framed (some cmd) { c with cat := { c.cat with reqs := c.cat.reqs ++ [q] } }
    let deferred (i : Instr) (cmd : Byte) (job : Deferred) : Prop :=
      (c.host.defJob = none → Becomes s i fun c => let d := answered 2 cmd [] c
        { d with host := { d.host with defJob := some job, defUnfetched := false } }) ∧
      (c.host.defJob.isSome = true → Becomes s i (answered 8 cmd []))
    (HostTakes c →
      Becomes s (.status 0 0 0 []) (fun c => let d := answered 0 0x00 c.statusPayload c
        { d with host := { d.host with notices := 0 } }) ∧
      (c.dead = true → Becomes s (.recStatus 0 0 0 []) (answered 1 0x11 [0x0E, 0xC0])) ∧
      (c.dead = false →
        (∀ a1 a2 a3 : Byte, Becomes s (.catRead a1 a2 a3 []) (asked 0x01 { port := .host, tick := c.clk.raw, write := false
                                                                           idx := a1.toNat + 256 * a2.toNat, sub := a3.toNat
                                                                           data := [], reply := .host })) ∧
        (∀ (a1 a2 a3 : Byte) (p : Bytes), 1 ≤ p.length → p.length ≤ 256 → (a1.toNat + 256 * a2.toNat ≠ 0x4200 ∨ a3 ≠ 1) →
          Becomes s (.catWrite a1 a2 a3 p) (asked 0x02 { port := .host, tick := c.clk.raw, write := true
                                                         idx := a1.toNat + 256 * a2.toNat, sub := a3.toNat, data := p
                                                         reply := .host })) ∧
        (∀ (n : Byte) (p : Bytes), 1 ≤ n.toNat → n.toNat ≤ 8 → p.length = 4 →
          (seqLt (leNat p) c.acc.nextSeq = false →
            Becomes s (.recRead n 0 0 p) (answered 0x0A 0x10 (leBytes 4 c.acc.nextSeq))) ∧
          (seqLt (leNat p) c.acc.nextSeq = true → (c.shelved (leNat p)).isSome = true →
            Becomes s (.recRead n 0 0 p) (answered 0 0x10
              (Chip.takeRecords (fun k => (c.shelved k).map (·.rcd.bytes)) n.toNat (leNat p)).flatten)) ∧
          (seqLt (leNat p) c.acc.nextSeq = true → c.shelved (leNat p) = none →
            deferred (.recRead n 0 0 p) 0x10 (.records (leNat p) n.toNat))) ∧
        Becomes s (.recStatus 0 0 0 []) (answered 0 0x11 (leBytes 4 c.journalOldest ++ leBytes 4 c.journalNewest ++ leBytes 4 c.accOldest
          ++ leBytes 4 c.acc.nextSeq ++ leBytes 4 c.acc.hostMark)) ∧
        (∀ p : Bytes, p.length = 8 → leNat p % 1073741824 = 0 →
          let inTime : Prop := 2 < c.time.rank ∧ ∃ r, c.time.ppsRaw = some r ∧ r + 40000000 ≤ c.clk.raw ∧ c.clk.raw ≤ r + 360000000
          let second := leNat p / 1073741824
          (c.cfgB 0x7000 0xA = true → inTime → Becomes s (.todSet 0 0 0 p) fun c =>
            let d := answered 0 0x30 [0] (logs clsTime 4 0x700 (second % 16777216) c)
            { d with time := { d.time with tod := some second } }) ∧
          (c.cfgB 0x7000 0xA = true → ¬inTime → Becomes s (.todSet 0 0 0 p) fun c =>
            let d := answered 0 0x30 [1] c
            { d with time := { d.time with refusals := c.time.refusals + 1 } }) ∧
          (c.cfgB 0x7000 0xA = false → Becomes s (.todSet 0 0 0 p) (answered 0 0x30 [2]))) ∧
        (c.inReserve14 = false →
          deferred (.loanGetChallenge 1 0 0 []) 0x40 .challenge ∧
          ∀ p : Bytes, 1 ≤ p.length → p.length ≤ 256 → deferred (.loanPresent 2 0 0 p) 0x40 (.loan p)) ∧
        (∀ (a1 a2 a3 : Byte) (p : Bytes), 1 ≤ p.length → p.length ≤ 256 →
          deferred (.imageBlock a1 a2 a3 p) 0x50 (.image (a1.toNat + 256 * a2.toNat + 65536 * a3.toNat) p)))) ∧
    ∀ (a1 a2 a3 : Byte) (p : Bytes) (i : Instr), i ∈ [Instr.status a1 a2 a3 p, .catRead a1 a2 a3 p, .catWrite a1 a2 a3 p, .recRead a1 a2 a3 p,
        .recStatus a1 a2 a3 p, .hostOrder a1 a2 a3 p, .todSet a1 a2 a3 p, .loanGetChallenge a1 a2 a3 p, .loanPresent a1 a2 a3 p,
        .imageBlock a1 a2 a3 p] →
      (c.host.open_ = false → Becomes s i id) ∧
      (c.host.open_ = true → (c.host.frame = some true ∨ (c.host.frame = none ∧ c.host.busy.isSome = true)) →
        Becomes s i fun c => { c with host := { c.host with
          frame := none, driven := [], whileBusy := c.host.whileBusy + 1, irq := c.host.irq ||| 8, idleSince := c.clk.raw } })

/-- 08 R350, R354 to R366, R370 to R372, R375, R376, R378: RESP_FETCH drives its slot; a deferred record read leaves its answer and a notice; a
frame begins and ends the attention pulse, which begins at a millisecond with something to tell and lasts 2 µs; a frame that fails a
check is answered with its status, and one that breaks none is none.
Rests on the model's choices and readings of logs 25, 56, 62. -/
def Obligations.HostEvents : Prop :=
  ∀ (s : State), Live s →
    let c := s.dev.chip
    let slot (a : Option Answer) : Bytes := match a with
      | some a => hostResponse a.status a.cmd a.payload
      | none => hostResponse 9 Config.emptyEcho []
    (HostTakes c → c.host.busy = none →
      (∀ n, let k := n / (if c.host.quad then 2 else 8)
        Becomes s (.respFetch 0 0 0 true n) (fun c => let d := framed none c
          { d with host := { d.host with driven := padTo 0xFF k (slot c.host.imm) } }) ∧
        (c.host.defJob = none → Becomes s (.respFetch 1 0 0 true n) fun c => let d := framed none c
          { d with host := { d.host with driven := padTo 0xFF k (slot c.host.defr), defUnfetched := false } }) ∧
        (∀ j, c.host.defJob = some j → Becomes s (.respFetch 1 0 0 true n) fun c => let d := framed none c
          { d with host := { d.host with driven := padTo 0xFF k (hostResponse 3 (Chip.deferredCmd j) []) } }) ∧
        ∀ a1 a2 a3 : Byte, Becomes s (.respFetch a1 a2 a3 false n) fun c => let d := framed none c
          { d with host := { d.host with
            driven := padTo 0xFF k (hostResponse 4 0x7F []), crcErrs := c.host.crcErrs + 1, irq := c.host.irq ||| 3 } }) ∧
      (∀ (b : Bytes), 6 ≤ b.length → b.length ≤ 262 → beNat (b.drop (b.length - 2)) ≠ crc16 (b.take (b.length - 2)) →
        (b.getD 0 0 ≠ 0x7F ∨ b.length ≠ 6) → Becomes s (.failedFrame true b) fun c => let d := framed none c
        { d with host := { d.host with
          imm := some { status := 4, cmd := b.getD 0 0, payload := [] }, crcErrs := c.host.crcErrs + 1, irq := c.host.irq ||| 3 } }) ∧
      (∀ (b : Bytes), 6 ≤ b.length → b.length ≤ 262 → beNat (b.drop (b.length - 2)) = crc16 (b.take (b.length - 2)) →
        hostDefined (b.getD 0 0) = false → Becomes s (.failedFrame true b) fun c => let d := framed none c
        { d with host := { d.host with imm := some { status := 5, cmd := b.getD 0 0, payload := [] } } }) ∧
      (∀ (w : Bool) (b : Bytes), (w = false ∨ b.length < 6 ∨ 262 < b.length) → Becomes s (.failedFrame w b) fun c => let d := framed none c
        { d with host := { d.host with
          imm := some { status := 6, cmd := b.getD 0 0, payload := [] }, malformed := c.host.malformed + 1
          irq := c.host.irq ||| 5 } })) ∧
    (∀ k n, c.host.defJob = some (.records k n) → (∀ t, c.journalPos t = none) → (∀ t, c.journalFind t = none) →
      (c.shelved k).isSome = true → n ≠ 0 → Becomes s .deferredComplete fun c => { c with host := { c.host with
        defJob := none, defUnfetched := true, notices := c.host.notices ||| 1
        defr := some { status := 0, cmd := 0x10
                       payload := (Chip.takeRecords (fun t => (c.shelved t).map (·.rcd.bytes)) n k).flatten } } }) ∧
    (∀ k pos b, c.host.defJob = some (.records k 1) → c.journalPos k = some pos → c.journalFind k = some b →
      (c.readWaits (some (320 + pos / 256)) = true → c.cns.run = none → Becomes s .deferredComplete fun c =>
        { c with cns := { c.cns with lastRead := c.clk.raw } }) ∧
      (c.readWaits (some (320 + pos / 256)) = false → c.cns.run = none → c.mem.ecc = [] → c.mem.cut = [] →
        Becomes s .deferredComplete fun c => { c with
          cns := { c.cns with lastRead := c.clk.raw }
          host := { c.host with
            defJob := none, defUnfetched := true, notices := c.host.notices ||| 1
            defr := some { status := 0, cmd := 0x10, payload := b } } })) ∧
    (c.host.open_ = true → c.host.frame = none → Becomes s .hcsNFall fun c => { c with host := { c.host with
      frame := some c.host.busy.isSome, driven := [], attention := none } }) ∧
    (c.host.open_ = true → c.host.frame = none → c.host.busy = none → c.host.attention = none → c.clk.raw % 400000 = 0 →
      c.host.idleSince + 20000 ≤ c.clk.raw → c.cfgB 0x7000 3 = true → (c.recPending = true ∨ (c.host.notices &&& c.cfg 0x7000 4) ≠ 0) →
      Becomes s .attentionPulse fun c => { c with host := { c.host with attention := some c.clk.raw } }) ∧
    (∀ t, c.host.attention = some t → t + 800 ≤ c.clk.raw →
      Becomes s .attentionPulseEnd fun c => { c with host := { c.host with attention := none } })

/-! ## CAN and two-wire -/

/-- 04 R163, R187; 09 R382, R388, R390 to R402, Tables 09-3 to 09-5: a request frame is acknowledged, taken and remembered; a READ, a WRITE
and the last segment of a segmented write go to the arbiter as requests of the bus's port, an order message to Verify; the frames of
a segmented transfer are answered, and each restarts its timeout; a fifth waiting request is aborted with 0xC00D; a second transfer
with 0xC104, a frame out of order with 0xC103, a short one with 0xC102, one after the timeout with 0xC105; a duplicate gets the
original's response, now or when it exists; a classical or short frame is counted; a frame of another identifier is only
acknowledged. Rests on the model's choices and readings of logs 20, 26, 29, 73, 78. -/
def Obligations.CapMessages : Prop :=
  ∀ (s : State) (b : Bool) (h : CanHead) (data : Bytes), Live s →
    let c := s.dev.chip
    let port : Port := if b then .canB else .canA
    let tid := data.getD 1 0
    let idx := leAt data 2 2
    let sub := (data.getD 4 0).toNat
    let len := leAt data 5 2
    let seg := (data.getD 7 0).toNat
    let body := data.drop 8
    let reply : Reply := .can b (data.getD 0 0) tid idx sub seg
    let asked (w : Bool) (v : Bytes) (c : Chip) : Chip := capTaken b data none { c with cat := { c.cat with
      reqs := c.cat.reqs ++ [{ port := port, tick := c.clk.raw, write := w, idx := idx, sub := sub, data := v, reply := reply }] } }
    let segIs (x : Option Segment) (c : Chip) : Chip := { c with can := { c.can with seg := x } }
    let abort (code : Nat) : Chip → Chip := capAnswered b data (capReply data 0xC0 code [])
    (CapFrame c b h data 1 →
      (c.capPending < 4 → Becomes s (.capRead b h data) (asked false [])) ∧
      (4 ≤ c.capPending → Becomes s (.capRead b h data) (abort 0xC00D))) ∧
    (CapFrame c b h data 2 →
      (c.capPending < 4 → len ≤ body.length → (idx ≠ 0x4200 ∨ sub ≠ 1) → Becomes s (.capWrite b h data) (asked true (body.take len))) ∧
      (4 ≤ c.capPending → len ≤ body.length → Becomes s (.capWrite b h data) (abort 0xC00D)) ∧
      (body.length < len → Becomes s (.capWrite b h data) (abort 0xC102)) ∧
      (c.capPending < 4 → idx = 0x4200 → sub = 1 → len = 40 → 40 ≤ body.length → assoc 0x420001 c.cat.staged = none →
        (∀ i < 40, c.judge 3 .read ((if b then 0x4000A000 else 0x40009000) + i) false = 0) →
        Becomes s (.capWrite b h data) fun c => tookWrite port 0x4200 1 (capTaken b data none { c with ord := { c.ord with
          waiting := c.ord.waiting ++ [{
            port := port, tick := c.clk.raw, bytes := body.take 40, reply := reply, full := decide (c.freeSlots < 32) }] } }))) ∧
    (CapFrame c b h data 3 →
      (c.can.seg = none → 57 ≤ len → len ≤ 256 → data.length = 64 →
        Becomes s (.capWriteInit b h data) fun c => capAnswered b data (capReply data 0x80 0 []) { c with can := { c.can with
          seg := some { write := true, tid := tid, idx := idx, sub := sub, total := len, value := body, next := 1, tick := c.clk.raw
                        bus := b }
          lapsed := none } }) ∧
      (c.can.seg.isSome = true → Becomes s (.capWriteInit b h data) (abort 0xC104))) ∧
    (∀ x, CapFrame c b h data 4 → CapOwns c data true x →
      (seg ≠ x.next → Becomes s (.capWriteSeg b h data) (abort 0xC103 ∘ segIs (some { x with tick := c.clk.raw }))) ∧
      (seg = x.next → body.length < min 56 (x.total - 56 * seg) →
        Becomes s (.capWriteSeg b h data) (abort 0xC102 ∘ segIs (some { x with tick := c.clk.raw }))) ∧
      (seg = x.next → min 56 (x.total - 56 * seg) ≤ body.length →
        let v := x.value ++ body.take (min 56 (x.total - 56 * seg))
        (v.length < x.total → Becomes s (.capWriteSeg b h data) fun c =>
          capAnswered b data (capReply data 0x80 0 []) (segIs (some { x with value := v, next := seg + 1, tick := c.clk.raw }) c)) ∧
        (x.total ≤ v.length → c.capPending < 4 → (idx ≠ 0x4200 ∨ sub ≠ 1) →
          Becomes s (.capWriteSeg b h data) (asked true v ∘ segIs none)))) ∧
    (∀ x, CapFrame c b h data 5 → CapOwns c data false x →
      (seg = x.next → Becomes s (.capReadSeg b h data) fun c =>
        capAnswered b data (capReply data 0x80 0 (slice x.value (56 * seg) 56))
          (segIs (if x.total ≤ 56 * (seg + 1) then none else some { x with next := seg + 1, tick := c.clk.raw }) c)) ∧
      (seg ≠ x.next → Becomes s (.capReadSeg b h data) (abort 0xC103 ∘ segIs (some { x with tick := c.clk.raw })))) ∧
    (c.can.seg = none →
      (CapFrame c b h data 4 → Becomes s (.capWriteSeg b h data) (abort (if c.can.lapsed = some (tid, idx, sub) then 0xC105 else 0xC103))) ∧
      (CapFrame c b h data 5 → Becomes s (.capReadSeg b h data) (abort (if c.can.lapsed = some (tid, idx, sub) then 0xC105 else 0xC103))) ∧
      (CapFrame c b h data 6 →
        Becomes s (.capEndTransfer b h data) (abort (if c.can.lapsed = some (tid, idx, sub) then 0xC105 else 0xC103)))) ∧
    (∀ x, CapFrame c b h data 6 → CapOwns c data x.write x →
      Becomes s (.capEndTransfer b h data) fun c => capAnswered b data (capReply data 0x80 0 []) (segIs none c)) ∧
    ((c.ctl b).live = true → c.can.node ≠ 0 → Chip.canLength h.fd data.length = true →
      (Heads h (c.can.base + c.can.node) →
        (∀ e rest, h.fd = true → 8 ≤ data.length → data.getD 0 0 = 1 → c.can.dup = e :: rest → e.data = data →
          c.clk.raw ≤ e.tick + 400000 * c.cfg 0x7100 4 → ¬(b = false ∧ e.bus = true ∧ e.tick = c.clk.raw) →
          (∀ r, e.resp = some r → Becomes s (.capRead b h data) fun c =>
            Chip.modCtl b (fun k => { k with irq := k.irq ||| 8, txq := k.txq ++ [r] })
              (heard b true { c with can := { c.can with dups := c.can.dups + 1 } })) ∧
          (e.resp = none → Becomes s (.capRead b h data) fun c =>
            Chip.modCtl b (fun k => { k with irq := k.irq ||| 8 }) (heard b true { c with can := { c.can with
              dups := c.can.dups + 1, dup := { e with waiting := e.waiting ++ [b] } :: rest } }))) ∧
        ((h.fd = false ∨ data.length < 8) → Becomes s (.capRead b h data) fun c =>
          heard b true { c with can := { c.can with ignored := c.can.ignored + 1 } })) ∧
      (¬Heads h (c.can.base + c.can.node) → ¬Heads h c.can.base → Becomes s (.capRead b h data) (heard b false)))

/-- 09 R382, R385, R388, R394, R398, R403, R405: a bus takes its next waiting frame, responses before events, as FD with its bit rate switch
and error state; an error counts as ISO 11898-1 counts it (log 20) and leads to the error-passive and bus-off states; bus-off,
protocol exceptions and integration end; the segment timeout ends a transfer; a time frame is a ToD message, once for its second.
Rests on the model's choices and readings of logs 27, 49, 59. -/
def Obligations.CanEvents : Prop :=
  ∀ (s : State) (b : Bool), Live s →
    let c := s.dev.chip
    let k := c.ctl b
    let ctl (f : CanCtl → CanCtl) (c : Chip) : Chip := c.modCtl b f
    (∀ x, c.can.seg = some x → x.tick + 400000 * c.cfg 0x7100 5 ≤ c.clk.raw → Becomes s .segmentTimeout fun c =>
      { c with can := { c.can with seg := none, lapsed := some (x.tid, x.idx, x.sub) } }) ∧
    (k.live = true → k.restricted = false →
      let sent (id : Nat) (d : Bytes) (f : CanCtl → CanCtl) : Prop := Becomes s (.canFrameSent b) fun c =>
        let d := ctl (fun k => ({ f k with
          sent := some { id := id, data := d, brs := k.brs, esi := decide (k.st = 2) }, tx := k.tx + 1, tec := k.tec - 1
          tdcv := if k.brs = true ∧ k.tdcOffset ≠ 0 then Config.canDelay c.clk.free else k.tdcv } : CanCtl).judge) c
        { d with clk := { d.clk with free := d.clk.free + 1 } }
      (∀ d r, k.txq = d :: r → sent (c.can.base + 0x80 + c.can.node) d fun k => { k with txq := r }) ∧
      (∀ e r, k.txq = [] → k.evq = e :: r → sent (c.can.ebase + c.can.node) e.bytes fun k => { k with evq := r }) ∧
      (∀ n : Fin 8, n ≠ 0 → n ≠ 7 →
        (k.tec + 8 < 128 → k.rec_ < 128 →
          Becomes s (.canBusError b true n) (ctl fun k => { k with lec := n.val, tec := k.tec + 8, st := 1 })) ∧
        (128 ≤ k.tec + 8 → k.tec + 8 < 256 → k.st = 1 →
          Becomes s (.canBusError b true n) (ctl fun k => { k with lec := n.val, tec := k.tec + 8, st := 2, irq := k.irq ||| 2 })) ∧
        (256 ≤ k.tec + 8 → Becomes s (.canBusError b true n) (ctl fun k => { k with
          lec := n.val, tec := k.tec + 8, st := 3, irq := k.irq ||| 1, busOffs := k.busOffs + 1 })) ∧
        (k.tec < 128 → k.rec_ + 1 < 128 →
          Becomes s (.canBusError b false n) (ctl fun k => { k with lec := n.val, rec_ := k.rec_ + 1, acked := false, st := 1 })) ∧
        (k.tec < 256 → 128 ≤ k.rec_ + 1 → k.st = 1 →
          Becomes s (.canBusError b false n) (ctl fun k => { k with
            lec := n.val, rec_ := min 255 (k.rec_ + 1), acked := false, st := 2, irq := k.irq ||| 2 })))) ∧
    (∀ (n : Fin 8) (t : Bool), k.live = true → k.restricted = true → n ≠ 0 → n ≠ 7 →
      Becomes s (.canBusError b t n) (ctl fun k => { k with lec := n.val, st := 4 })) ∧
    (k.en = true → k.st = 3 → Becomes s (.busOffRecovery b) (ctl fun k => { k with st := 1, tec := 0, rec_ := 0 })) ∧
    (k.live = true → Becomes s (.protocolExceptionEvent b) (ctl fun k => { k with st := 4, irq := k.irq ||| 16 })) ∧
    (k.en = true → k.st = 4 → k.tec < 128 → k.rec_ < 128 → Becomes s (.busIntegrationEnd b) (ctl fun k => { k with st := 1 })) ∧
    (∀ (h : CanHead) (data : Bytes) (r n : Nat), k.live = true → c.can.node ≠ 0 → Heads h c.can.base →
      data.length = 8 → leNat data = 1073741824 * n → c.cfgB 0x2010 7 = true →
      (c.time.tod ≠ some n → c.time.ppsRaw = some r →
        (2 < c.time.rank → 40000000 ≤ c.clk.raw - r → c.clk.raw - r ≤ 360000000 → Becomes s (.canTimeFrame b (h, data)) fun c =>
          heard b true (logs clsTime 4 (0x700 + if b then 2 else 1) (n % 16777216)
            { c with time := { c.time with tod := some n } })) ∧
        ((c.time.rank ≤ 2 ∨ c.clk.raw - r < 40000000 ∨ 360000000 < c.clk.raw - r) → Becomes s (.canTimeFrame b (h, data)) fun c =>
          heard b true { c with time := { c.time with refusals := c.time.refusals + 1 } })) ∧
      (c.time.tod = some n → Becomes s (.canTimeFrame b (h, data)) (heard b true))) ∧
    (k.restricted = false → k.rec_ < 128 → k.tec < 128 → k.received = { k with rec_ := k.rec_ - 1, st := 1 })

/-- 09 R407 to R424, R429, Tables 09-6 and 09-7: the target acknowledges its address while it can serve, sets its pointer, writes
within a 32-byte page, reads a snapshot, and takes new settings at a STOP; a proxy command becomes a request of its port with the
tick that ended its transaction; the management controller runs its transfer as it was asked for, with its SCL pulses, its retries
after their gap, and its failure codes. Rests on the model's choices and readings of logs 48, 67, 75. -/
def Obligations.TwoWirePorts : Prop :=
  ∀ (s : State) (stop : Bool), Live s →
    let c := s.dev.chip
    let served := twServed stop c
    (∀ (a : BitVec 7) (v : Bytes) (n : Nat), a.toNat ≠ c.tw.addr → c.tw.open_ = true →
      Becomes s (.twReadTransaction ⟨a, stop⟩ n) (fun c => { c with tw := served { c.tw with acked := false } }) ∧
      Becomes s (.twWriteTransaction ⟨a, stop⟩ v) (fun c => { c with tw := served { c.tw with acked := false } })) ∧
    (∀ (a : BitVec 7) (v : Bytes) (n : Nat), a.toNat = c.tw.addr → c.twRefuses = true → c.tw.open_ = true →
      let refused (c : Chip) : Chip := { c with tw := served { c.tw with
        acked := false, count := c.tw.count + 1, refused := c.tw.refused + 1, irq := c.tw.irq ||| 2 } }
      Becomes s (.twWriteTransaction ⟨a, stop⟩ v) refused ∧ Becomes s (.twReadTransaction ⟨a, stop⟩ n) refused) ∧
    (∀ a : BitVec 7, a.toNat = c.tw.addr → c.tw.open_ = true → c.cfgB 0x7200 2 = true → c.tw.pRun = false → c.tw.pStart = 0 →
      let heard : TwoWire := { c.tw with acked := true, count := c.tw.count + 1 }
      let wrote : TwoWire := { heard with irq := c.tw.irq ||| 4, pTick := c.clk.raw }
      Becomes s (.twWriteTransaction ⟨a, stop⟩ []) (fun c => { c with tw := served wrote }) ∧
      (∀ x : Byte, Becomes s (.twWriteTransaction ⟨a, stop⟩ [x]) fun c => { c with tw := served wrote }) ∧
      (∀ hi lo : Byte, Becomes s (.twWriteTransaction ⟨a, stop⟩ [hi, lo]) fun c => { c with tw := served { wrote with
        ptr := BitVec.ofNat 16 (256 * hi.toNat + lo.toNat) } }) ∧
      (∀ k : Byte, (k = 1 ∨ k = 2) → Becomes s (.twWriteTransaction ⟨a, stop⟩ [0x01, 0x04, k]) fun c => { c with tw := served { wrote with
        ptr := 0x105, pStart := k } }) ∧
      (∀ (hi lo : Byte) (v : Bytes), hi = 2 → v.length ≤ 32 →
        let page := 32 * (lo.toNat / 32)
        let at_ (j : Nat) : Nat := page + (lo.toNat + j) % 32
        Leaves s (.twWriteTransaction ⟨a, stop⟩ (hi :: lo :: v)) [.tw] fun d =>
          d.tw = served { wrote with ptr := BitVec.ofNat 16 (0x200 + at_ v.length), pData := d.tw.pData } ∧
          (∀ j, j < v.length → d.tw.pData.get 0 (at_ j) = v.getD j 0) ∧
          (∀ i, (∀ j, j < v.length → i ≠ at_ j) → d.tw.pData.get 0 i = c.tw.pData.get 0 i)) ∧
      (∀ n : Nat, Leaves s (.twReadTransaction ⟨a, stop⟩ n) [.tw] fun d =>
        d.tw = served { heard with snap := c.twStatus, ptr := c.tw.ptr + BitVec.ofNat 16 n, out := d.tw.out } ∧
        d.tw.out.length = n ∧
        ∀ j, j < n →
          let p := (c.tw.ptr.toNat + j) % 65536
          d.tw.out.getD j 0 =
            if p < 0x20 then c.twStatus.getD p 0
            else if p = 0x100 then c.tw.pIdx.setWidth 8
            else if p = 0x101 then (c.tw.pIdx >>> 8).setWidth 8
            else if p = 0x102 then c.tw.pSub
            else if p = 0x103 then c.tw.pLen
            else if p = 0x105 then c.tw.pStat
            else if p = 0x106 then c.tw.pAbort.setWidth 8
            else if p = 0x107 then (c.tw.pAbort >>> 8).setWidth 8
            else if 0x200 ≤ p ∧ p < 0x300 then c.tw.pData.get 0 (p - 0x200)
            else 0)) ∧
    (let n := if c.tw.pLen = 0 then 256 else c.tw.pLen.toNat
     let started (w : Bool) (v : Bytes) (c : Chip) : Chip := { c with
       tw := { c.tw with pStart := 0, pRun := true, pStat := 0 }
       cat := { c.cat with reqs := c.cat.reqs ++ [{
         port := .twoWire, tick := c.tw.pTick, write := w, idx := c.tw.pIdx.toNat, sub := c.tw.pSub.toNat, data := v
         reply := .twoWire }] } }
     (c.tw.pStart = 1 → Becomes s .proxyRead (started false [])) ∧
     (c.tw.pStart = 2 → (c.tw.pIdx ≠ 0x4200 ∨ c.tw.pSub ≠ 1) → Becomes s .proxyWrite (started true (c.tw.pData.read 0 0 n))) ∧
     (c.tw.pStart = 0 → Becomes s .proxyRead id ∧ Becomes s .proxyWrite id)) ∧
    (let twm (f : Twm → Twm) (c : Chip) : Chip := { c with twm := f c.twm }
     (∀ (i : Init) (v : Byte),
       (i = .registrar → v = 1 → c.twm.res ≠ 1 → c.twm.ctrl.getLsbD 0 = true → Becomes s (.twmStart i v) (twm fun t => { t with
         res := 1, tries := 1, inGap := false, since := c.clk.raw, pulses := 0
         bus := some (t.addr.toNat % 128, t.wbuf.read 0 0 (min 32 t.wlen.toNat), min 32 t.rlen.toNat) })) ∧
       ((i ≠ .registrar ∨ v ≠ 1 ∨ c.twm.res = 1 ∨ c.twm.ctrl.getLsbD 0 = false) → Becomes s (.twmStart i v) id)) ∧
     (∀ (dest : Nat) (w : Bytes) (r : Nat), c.twm.res = 1 → c.twm.inGap = false → c.twm.bus = some (dest, w, r) →
       ∀ (n : Fin 11) (x y : Bool) (rd : Bytes),
       (n = 10 → Becomes s (.twmTransferDone n x y rd) (twm fun t => { t with res := 7, pulses := 9 })) ∧
       (n ≠ 10 →
         (c.twm.tries.toNat ≤ c.twm.retry.toNat % 16 → Becomes s (.twmTransferDone n false y rd) (twm fun t => { t with
           inGap := true, since := c.clk.raw, pulses := n.val })) ∧
         (c.twm.retry.toNat % 16 < c.twm.tries.toNat →
           Becomes s (.twmTransferDone n false y rd) (twm fun t => { t with res := 3, pulses := n.val })) ∧
         (w ≠ [] → Becomes s (.twmTransferDone n true false rd) (twm fun t => { t with res := 4, pulses := n.val })) ∧
         ((y = true ∨ w = []) → Leaves s (.twmTransferDone n true y rd) [.twm] fun d =>
           d.twm = { c.twm with res := 2, pulses := n.val, rbuf := d.twm.rbuf } ∧
           ∀ j, d.twm.rbuf.get 0 j = if j < r then rd.getD j 0 else c.twm.rbuf.get 0 j))) ∧
     (c.twm.res = 1 → c.twm.inGap = false →
       (c.twm.since + 10000000 ≤ c.clk.raw → Becomes s .twmClockHeldTimeout (twm fun t => { t with res := 6 })) ∧
       (c.clk.raw < c.twm.since + 10000000 → Becomes s .twmClockHeldTimeout id)) ∧
     (c.twm.res = 1 → c.twm.inGap = true →
       (c.twm.since + 40000 * (c.twm.retry.toNat / 16) ≤ c.clk.raw →
         Becomes s .twmRetryGap (twm fun t => { t with inGap := false, tries := t.tries + 1, since := c.clk.raw })) ∧
       (c.clk.raw < c.twm.since + 40000 * (c.twm.retry.toNat / 16) → Becomes s .twmRetryGap id)))

/-! ## Contactless -/

/-- 06 R255, R290; 10 R437 to R443, R457; 13 R556: the field comes and goes, with K_tag derived anew; the engine answers the frames of
ISO/IEC 14443 in their states with its UID and ATS, takes a PPS after RATS, asks for as much more time as it projects and ends a
session, under the CID it was given; a frame out of place returns it to rest; after 100 ms without a field the failures are forgotten.
Rests on the model's choices and readings of logs 13, 19, 50, 68. -/
def Obligations.TagActivation : Prop :=
  ∀ (s : State),
    let c := s.dev.chip
    let t := c.tag
    let tag (f : Tag → Tag) (c : Chip) : Chip := { c with tag := f c.tag }
    let rest (t : Tag) : Tag := { t with
      level1 := false, out := []
      layer := match t.layer with | .ready | .active => .idle | .readyStar | .activeStar => .halt | l => l }
    let level (n : Fin 2) : Bytes :=
      if n = 0 then [0x88, t.uid.getD 0 0, t.uid.getD 1 0, t.uid.getD 2 0, 0x88 ^^^ t.uid.getD 0 0 ^^^ t.uid.getD 1 0 ^^^ t.uid.getD 2 0]
      else [t.uid.getD 3 0, t.uid.getD 4 0, t.uid.getD 5 0, t.uid.getD 6 0, t.uid.getD 3 0 ^^^ t.uid.getD 4 0 ^^^ t.uid.getD 5 0 ^^^ t.uid.getD 6 0]
    (∀ e1 e2 faults, t.field = false →
      let senses (d : Chip) : Prop :=
        d.tag.on = true ∧ d.tag.field = true ∧ d.tag.layer = .idle ∧ d.tag.overlay = .closed ∧ d.tag.fieldOnly = !c.mainUp ∧
        d.tag.uid = slice (c.fieldSense e1).2.1 8 7 ∧
        d.tag.key = Crypto.kdf (c.fieldSense e1).2.2 labelTag d.tag.uid 128 ∧ d.tag.keyInv = d.tag.key.map (~~~ ·) ∧
        (c.fieldSense e1 ≠ c.fieldSense e2 → d.tag.dead = true) ∧ d.tag.fails = t.fails ∧ d.tag.sessions = t.sessions ∧
        d.tag.irq = if c.mainUp then t.irq ||| 1 else t.irq
      ((faults.count 7 < 3 ∨ c.mainUp = false) → Leaves s (.fieldOn (e1, e2) faults) [.tag] senses) ∧
      (faults = [7, 7, 7] → c.mainUp = true → Leaves s (.fieldOn (e1, e2) faults) [.tag, .vlt, .acc, .rgr] fun d =>
        senses d ∧ d.vlt.kfault = c.vlt.kfault ||| 0x80 ∧ d.vlt.slotFaults = c.vlt.slotFaults + 1 ∧ d.vlt.irq = c.vlt.irq ||| 4)) ∧
    (∀ e1 e2 faults, t.field = true → Becomes s (.fieldOn (e1, e2) faults) id) ∧
    (c.clk.vio = false → Becomes s .fieldOff (tag fun _ => {})) ∧
    (c.clk.vio = true → t.field = true → Becomes s .fieldLoss (tag fun t => { sessionEnds .idle t with
      field := false, clearSince := some t.clock })) ∧
    (∀ x, t.clearSince = some x → c.clk.vio = true → t.field = false → x + 40000000 ≤ t.clock →
      Becomes s .fieldClearTimeout (tag fun t => { t with fails := 0, clearSince := none })) ∧
    (c.tagOpen = true →
      (t.layer = .idle →
        Becomes s .reqa (tag fun t => { t with layer := .ready, level1 := false, out := [0x44, 0x00] }) ∧
        Becomes s .wupa (tag fun t => { t with layer := .ready, level1 := false, out := [0x44, 0x00] })) ∧
      (t.layer = .halt →
        Becomes s .reqa (tag fun t => { t with out := [] }) ∧
        Becomes s .wupa (tag fun t => { t with layer := .readyStar, level1 := false, out := [0x44, 0x00] })) ∧
      (t.layer = .ready ∨ t.layer = .active ∨ t.layer = .readyStar ∨ t.layer = .activeStar → Becomes s .reqa (tag rest)) ∧
      (t.layer = .active ∨ t.layer = .activeStar →
        Becomes s .hlta (tag fun t => { t with layer := .halt, level1 := false, out := [] }) ∧
        ∀ p : Byte,
          (p.toNat % 16 ≠ 15 → Becomes s (.rats p) (tag fun t => { sessionEnds .layer4 t with
            overlay := .opened, ppsOk := true, cid := p.toNat % 16, fsd := min 8 (p.toNat / 16)
            out := [0x09, 0x78, 0x11, byteOf (16 * t.fwi), 0x02, 0x47, 0x57, 0x26, 0x30]
            sessions := if c.mainUp then t.sessions + 1 else t.sessions, irq := if c.mainUp then t.irq ||| 2 else t.irq })) ∧
          (p.toNat % 16 = 15 → Becomes s (.rats p) (tag rest))) ∧
      (t.uid.length = 7 → (t.layer = .ready ∨ t.layer = .readyStar) → ∀ n : Fin 2, t.level1 = decide (n = 1) →
        (∀ known : List Bool, known.length < 40 →
          (known = (Chip.bitsOfBytes (level n)).take known.length → Leaves s (.anticollision n known) [.tag] fun d =>
            d.tag = { t with out := d.tag.out } ∧ d.tag.out.length = (47 - known.length) / 8 ∧
            (Chip.bitsOfBytes d.tag.out).take (40 - known.length) = (Chip.bitsOfBytes (level n)).drop known.length) ∧
          (known ≠ (Chip.bitsOfBytes (level n)).take known.length → Becomes s (.anticollision n known) (tag rest))) ∧
        (∀ b : Bytes,
          (b = level n → n = 0 → Becomes s (.select n b) (tag fun t => { t with level1 := true, out := [0x04] })) ∧
          (b = level n → n = 1 → Becomes s (.select n b) (tag fun t => { t with
            level1 := false, out := [0x20], layer := if t.layer = .readyStar then .activeStar else .active })) ∧
          (b ≠ level n → Becomes s (.select n b) (tag rest)))) ∧
      (t.layer = .layer4 →
        let block (pcb : Byte) : Bytes := if t.cid = 0 then [pcb] else [pcb + 8, byteOf t.cid]
        Becomes s .sDeselect (tag fun t => { sessionEnds .halt t with out := block 0xC2 }) ∧
        (t.ppsOk = true →
          (∀ x : Byte, Becomes s (.pps 0x01 x) (tag fun t => { t with ppsOk := false, out := [byteOf (0xD0 + t.cid)] })) ∧
          ∀ (r u : Bool), (r = true ∨ u = true → t.allow212 = true) →
            Becomes s (.pps 0x11 (byteOf (bit r + 4 * bit u))) (tag fun t => { t with
              ppsOk := false, rx212 := r, tx212 := u, out := [byteOf (0xD0 + t.cid)] })) ∧
        (t.ppsOk = false → ∀ x y : Byte, Becomes s (.pps x y) id) ∧
        (t.wtxOut = true → Becomes s (.sWtxResponse t.wtxm) (tag fun t => { t with wtxOut := false, blockEnd := t.clock, out := [] })) ∧
        (∀ ahead, c.tagWaits = true → t.wtxOut = false → t.blockEnd + c.fwt * t.wtxm / 2 ≤ t.clock →
          let left := (match t.delayed with | some (_, x) => x | none => t.waitEnd) - t.clock
          let m := min 59 (max 1 ((left + ahead + c.fwt - 1) / c.fwt))
          Becomes s (.wtxTimer ahead) (tag fun t => { t with
            wtxm := m, wtxOut := true, out := block 0xF2 ++ [byteOf m], wtxs := if c.mainUp then t.wtxs + 1 else t.wtxs }))))

/-- 06 R259, R290; 10 R433, R441 to R457, R459 to R463: a tag command that its session allows has its effect and its answer: the
application and the two ways to a secured session, with a failure's delayed answer and its count, the placard as its flash page
reads, records of the journal, objects and the memo; a read of flash waits for a running program; the Registrar gives its window the
erase and the program of a placard that is due. Rests on the model's choices and readings of logs 15, 18, 64, 68. -/
def Obligations.TagCommands : Prop :=
  ∀ (s : State) (a : Apdu) (data : Bytes),
    let c := s.dev.chip
    let h := tagHeard a c
    let v := h.tagView
    let tag (f : Tag → Tag) (c : Chip) : Chip := { c with tag := f c.tag }
    let replies (data : Bytes) (sw : Nat) (c : Chip) : Chip := tagSays a data sw (tagHeard a c)
    let reads (l : List (Nat × Nat)) (data : Bytes) (sw : Nat) (c : Chip) : Chip := tagSays a data sw (tagRead l (tagHeard a c))
    let failed (t : Tag) : Tag := { t with
      fails := t.fails + 1, out := [], delayed := some (h.tagBytes a [] 0x6300 (h.tag.overlay = .securedA), t.clock + 40000000)
      failed := if c.mainUp then t.failed + 1 else t.failed, irq := if c.mainUp then t.irq ||| 8 else t.irq }
    (TagHears c a 0xA4 data → data = [0xF0, 0x56, 0x51, 0x32, 0x36, 0x33, 0x30] → Becomes s (.selectApp a) fun c =>
      tagSays a [1, byteOf (bit c.clk.vio + 2 * bit (h.tagPassword ≠ 0))] 0x9000 (tag (fun t => { t with selected := true }) (tagHeard a c))) ∧
    (TagHears c a 0x20 data →
      (h.tagPassword ≠ 0 → leNat data = h.tagPassword → Becomes s (.verifyPassword a) fun c =>
        tagSays a [] 0x9000 (tag (fun t => { t with overlay := if t.overlay = .opened then .securedP else t.overlay }) (tagHeard a c))) ∧
      ((h.tagPassword = 0 ∨ leNat data ≠ h.tagPassword) →
        ((c.tag.fails ≠ 2 ∨ c.mainUp = false) → Becomes s (.verifyPassword a) (tag failed ∘ tagHeard a)) ∧
        (c.tag.fails = 2 → c.mainUp = true → Becomes s (.verifyPassword a) fun c =>
          logs clsSec 9 0x501 0 (alerted 0x80 (tag failed (tagHeard a c)))))) ∧
    (TagHears c a 0xA1 data → Becomes s (.auth1 a) fun c =>
      let d := (tagHeard a c).fieldLane
      let r := (Crypto.aesEnc d.tag.key (beBytes 8 (Config.tagNoise d.clk.free).toNat ++ data)).take 8
      let e := tagSays a (Crypto.aesEnc d.tag.key (r ++ data)) 0x9000 (tag (fun t => { t with rndR := data, rndT := r, authPend := true }) d)
      { e with clk := { e.clk with free := e.clk.free + 1 } }) ∧
    (TagHears c a 0xA2 data →
      let opens : Prop := Crypto.aesDec h.fieldLane.tag.key data = c.tag.rndR ++ c.tag.rndT
      (c.tag.authPend = false → Becomes s (.auth2 a) (replies [] 0x6985)) ∧
      (c.tag.authPend = true → opens → Becomes s (.auth2 a) fun c =>
        tagSays a [] 0x9000 (tag (fun t => { t with
          overlay := .securedA, n := 0, ks := Crypto.cmac t.key (([0x53, 0x45, 0x53, 0x53] : Bytes) ++ t.rndR ++ t.rndT)
          auths := if c.mainUp then t.auths + 1 else t.auths, irq := if c.mainUp then t.irq ||| 4 else t.irq })
          (tagHeard a c).fieldLane)) ∧
      (c.tag.authPend = true → ¬opens →
        let refused (c : Chip) : Chip := tag (fun t => { failed t with rndT := [] }) (tagHeard a c).fieldLane
        ((c.tag.fails ≠ 2 ∨ c.mainUp = false) → Becomes s (.auth2 a) refused) ∧
        (c.tag.fails = 2 → c.mainUp = true → Becomes s (.auth2 a) fun c => logs clsSec 9 0x501 0 (alerted 0x80 (refused c))))) ∧
    (TagHears c a 0x30 data →
      (a.p1 = 1 → c.mainUp = true → Becomes s (.getPlacard a) (replies h.statusPayload 0x9000)) ∧
      (a.p1 = 1 → c.mainUp = false → Becomes s (.getPlacard a) (replies [] 0x6985)) ∧
      (a.p1 = 0 → v.tag.placard = none → Becomes s (.getPlacard a) (replies [] 0x6985)) ∧
      (∀ p g b, a.p1 = 0 → v.tag.placard = some (p, g, b) →
        let off := 0x6FC000 + 512 * p + 128 * a.p2.toNat
        let l := [(0x20000000 + off, 128)]
        (TagReadsNow h l → v.flashBad off 128 = false →
          Becomes s (.getPlacard a) (reads l (v.flashBytes off 128) 0x9000)) ∧
        (TagReadsNow h l → v.flashBad off 128 = true → Becomes s (.getPlacard a) (reads l [] 0x6F00)) ∧
        (∀ r, c.mainUp = true → h.tagReads l = none → c.cns.run = some r → Chip.opPrograms r.op = true →
          Becomes s (.getPlacard a) fun c => tag (fun t => { t with
            waitRead := some { a := a, data := data, mac := decide (c.tag.overlay = .securedA), afterAuth := c.tag.authPend }
            waitEnd := t.clock + 64000, out := [] })
            { tagHeard a c with cns := { c.cns with lastRead := c.clk.raw } }))) ∧
    (TagHears c a 0x32 data →
      let q := leAt data 0 4
      let count := min 7 (data.getD 4 0).toNat
      let l := v.tagRecords count q
      let slots := v.journalReads q count
      let gives (n r x : Nat) (more : Bytes) : Prop := TagReadsNow h slots → Becomes s (.readJournal a)
        (reads slots (([byteOf n, byteOf r] : Bytes) ++ leBytes 4 x ++ more) 0x9000)
      (count ≠ 0 → seqLt q v.acc.nextSeq = false →
        Becomes s (.readJournal a) (replies (([0, 2] : Bytes) ++ leBytes 4 v.acc.nextSeq) 0x9000)) ∧
      (count = 0 → gives 0 3 (if v.journalHeads = [] then v.accOldest else v.journalOldest) (leBytes 4 v.newestSeq)) ∧
      (count ≠ 0 → seqLt q v.acc.nextSeq = true → l = [] → gives 0 1 (v.heldAbove q) []) ∧
      (count ≠ 0 → seqLt q v.acc.nextSeq = true → l ≠ [] → gives l.length 0 ((q + l.length) % 4294967296) l.flatten)) ∧
    (TagHears c a 0x34 data →
      let idx := leAt data 0 2
      let sub := (data.getD 2 0).toNat
      let off := (data.getD 3 0).toNat
      (c.mainUp = true → c.cat.loaded = true → Becomes s (.readObject a) fun c =>
        let d := tag (fun t => { t with waitCat := some a, waitEnd := t.clock + 8000000, out := [] }) (tagHeard a c)
        { d with cat := { d.cat with reqs := d.cat.reqs ++ [{
          port := .contactless, tick := c.clk.raw, write := false, idx := idx, sub := sub, data := []
          reply := .obj c.tag.session off }] } }) ∧
      ((c.mainUp = false ∨ c.cat.loaded = false) →
        (∀ b, h.fieldObject idx sub = .inr b →
          Becomes s (.readObject a) (replies (([0] : Bytes) ++ leBytes 2 b.length ++ slice b off 128) 0x9000)) ∧
        (∀ code, h.fieldObject idx sub = .inl code → Becomes s (.readObject a) (replies (([1] : Bytes) ++ leBytes 2 code) 0x9000)))) ∧
    (TagHears c a 0x40 data →
      ((c.mainUp = false ∨ c.cat.loaded = false ∨ (c.tag.fieldOnly = true ∧ c.start.confirmed = false)) →
        Becomes s (.writeMemo a) (replies [] 0x6985)) ∧
      (c.mainUp = true → c.cat.loaded = true → (c.tag.fieldOnly = true → c.start.confirmed = true) → Becomes s (.writeMemo a) fun c =>
        let d := tag (fun t => { t with waitCat := some a, waitEnd := t.clock + 24000000, out := [] }) (tagHeard a c)
        { d with cat := { d.cat with reqs := d.cat.reqs ++ [{
          port := .contactless, tick := c.clk.raw, write := true, idx := 0x7300, sub := 0x10, data := data
          reply := .memo c.tag.session }] } })) ∧
    (∀ b t, c.tag.delayed = some (b, t) → t ≤ c.tag.clock →
      Becomes s .failureAnswerDelay fun c => Chip.tagSend b (tag (fun t => { t with delayed := none }) c)) ∧
    (Live s → c.placardPending = false → c.clk.pfw = false → c.start.mode ≠ 0 → c.tag.placardDue = true →
      let p := match c.tag.placard with | some x => (x.1 + 1) % 32 | none => 0
      let g := match c.tag.placard with | some x => (x.2.1 + 1) % 4294967296 | none => 0
      Becomes s .placardWrite fun c => { c with
        cns := { c.cns with rjobs := c.cns.rjobs ++ (if p % 16 = 0 then [.placardErase (894 + p / 16)] else []) ++
          [.placardPage p (c.placardBody g)] }
        tag := { c.tag with placardTick := c.clk.raw, placardDue := false } }) ∧
    (Live s → (c.placardPending = true ∨ c.clk.pfw = true ∨ c.start.mode = 0) → Becomes s .placardWrite id)

/-! ## The Registrar -/

/-- 11 R471 to R476, R509; 13 R555: the temperature, supply, clock-glitch and input-burst monitors raise and clear their warnings with
their records and alert bits; the shadow comparison re-senses the OTP; 0x8000.03 clears the alert bits whose condition is gone.
The Celsius value of a disagreement and of an external sensor's record is open (log 21).
Rests on the model's choices and readings of log 62. -/
def Obligations.HealthMonitors : Prop :=
  ∀ (s : State), Live s →
    let c := s.dev.chip
    let rgr (f : Rgr → Rgr) (c : Chip) : Chip := { c with rgr := f c.rgr }
    let next (c : Chip) : Chip := { c with clk := { c.clk with free := c.clk.free + 1 } }
    (∀ t1 t2 : Int,
      let apart : Bool := decide (10 < (t1 - t2).natAbs)
      let warnOf (k : Fin 4) (t : Int) : Bool := if 120 ≤ t then true else if t < 115 then false else c.rgr.warn[k]
      Leaves s (.temperatureSample t1 t2) [.rgr, .cat, .acc] fun d =>
        d.rgr.t1 = t1 ∧ d.rgr.t2 = t2 ∧ d.rgr.tMaxCold = max c.rgr.tMaxCold (max t1 t2) ∧
        d.rgr.disSince = (if apart then some (c.rgr.disSince.getD c.clk.raw) else none) ∧
        d.rgr.warn[0] = warnOf 0 t1 ∧ d.rgr.warn[1] = warnOf 1 t2 ∧ d.rgr.warn[2] = (apart && c.rgr.warn[2]) ∧
        d.rgr.warn[3] = c.rgr.warn[3] ∧
        (max t1 t2 ≤ c.cfgI 0x8000 6 →
          d.cat = c.cat ∧
          (warnOf 0 t1 = c.rgr.warn[0] → warnOf 1 t2 = c.rgr.warn[1] → d.acc = c.acc ∧ d.rgr.alerts = c.rgr.alerts) ∧
          (warnOf 0 t1 = true → c.rgr.warn[0] = false → warnOf 1 t2 = c.rgr.warn[1] →
            d.acc = (logs clsHealth 11 0 (encInt 16 t1) c).acc ∧ d.rgr.alerts = c.rgr.alerts ||| 1) ∧
          (warnOf 0 t1 = c.rgr.warn[0] → warnOf 1 t2 = false → c.rgr.warn[1] = true →
            d.acc = (logs clsHealth 11 0x101 (encInt 16 t2) c).acc ∧ d.rgr.alerts = c.rgr.alerts)) ∧
        (c.cfgI 0x8000 6 < max t1 t2 → max t1 t2 < 32768 → -32768 ≤ max t1 t2 →
          d.cfgI 0x8000 6 = max t1 t2 ∧ d.cat.dirtySlow = true)) ∧
    (∀ t, c.rgr.disSince = some t → t + 4000000000 ≤ c.clk.raw → c.rgr.warn[2] = false → Becomes s .temperatureDisagreement fun c =>
      next (logs clsHealth 11 2 (encInt 16 (Config.disagreeTemp c.clk.free c.rgr.t1 c.rgr.t2))
        (alerted 1 (rgr (fun r => { r with warn := r.warn.set 2 true }) c)))) ∧
    (c.cfg 0x8000 0xE ≠ 0 → c.start.mode ≠ 2 → c.start.regIn = true →
      (∀ code : Byte, Becomes s (.externalSensorPoll (.failed code)) fun c =>
        logs clsHealth 11 (0xA00 + code.toNat) (c.cfg 0x8000 0xE) c) ∧
      (∀ b0 b1 : Byte,
        let v := decInt 16 (256 * b0.toNat + b1.toNat)
        let deg : Int := v / 256 + (if v % 256 ≠ 0 ∧ Config.tempRoundUp c.clk.free = true then 1 else 0)
        let polled (f : Rgr → Rgr) (c : Chip) : Chip := next (rgr (fun r => f { r with tExt := v }) c)
        (115 * 256 ≤ v → v < 120 * 256 → Becomes s (.externalSensorPoll (.value b0 b1)) (polled id)) ∧
        (120 * 256 ≤ v → c.rgr.warn[3] = false → Becomes s (.externalSensorPoll (.value b0 b1)) fun c =>
          logs clsHealth 11 3 (encInt 16 deg) (alerted 1 (polled (fun r => { r with warn := r.warn.set 3 true }) c))) ∧
        (v < 115 * 256 → c.rgr.warn[3] = true → Becomes s (.externalSensorPoll (.value b0 b1)) fun c =>
          logs clsHealth 11 0x103 (encInt 16 deg) (polled (fun r => { r with warn := r.warn.set 3 false }) c)))) ∧
    (∀ (r : Fin 3) (mV : Nat), mV < 16777216 →
      let lo := if r = 2 then 1050 else 3050
      let hi := if r = 2 then 1170 else 3550
      let clo := if r = 2 then 1060 else 3100
      let chi := if r = 2 then 1160 else 3500
      let reads (out : Bool) (c : Chip) : Chip := rgr (fun g => { g with supply := g.supply.set r mV, supplyOut := g.supplyOut.set r out }) c
      (c.rgr.supplyOut[r] = false → mV < lo ∨ hi < mV → Becomes s (.supplyOutOfRange r mV) fun c =>
        logs clsSec 10 (0x200 + r.val + if hi < mV then 4 else 0) mV (alerted 2 (reads true c))) ∧
      (c.rgr.supplyOut[r] = true → clo ≤ mV → mV ≤ chi → Becomes s (.supplyBackInRange r mV) fun c =>
        logs clsSec 10 (0x300 + r.val) mV (reads false c))) ∧
    (∀ ns, 2 ≤ ns → ns ≤ 1000 → c.rgr.glitches < 16777215 →
      let near := c.rgr.glitchTicks.filter fun t => c.clk.raw ≤ t + 400000000
      (near.length ≤ 1 → Becomes s (.vcoreGlitch ns) fun c => logs clsSec 9 0x800 (c.rgr.glitches + 1) (alerted 0x88
        (rgr (fun r => { r with glitches := r.glitches + 1, glitchTicks := c.clk.raw :: near }) c))) ∧
      (2 ≤ near.length → c.start.regIn = true → c.start.mode ≠ 2 → s.dev.cur.wbuf = [] → c.cat.mbox = [] →
        ∃ u t, exec (.vcoreGlitch ns) s = .next t ∧ CuratorReset 4 u t ∧ OnlyBlocks [.rgr, .acc] s u ∧
          u.dev.chip.rgr.glitches = c.rgr.glitches + 1 ∧ u.dev.chip.acc = (logs clsSec 9 0x800 (c.rgr.glitches + 1) c).acc)) ∧
    (∀ n : Fin 24,
      let b := c.acc.bis[n]
      (b.burst ≤ c.cfg 0x8000 0xC → Becomes s (.biBurstWindow n) (withBi n { b with burst := 0 })) ∧
      (c.cfg 0x8000 0xC < b.burst → b.burst < 16777216 → b.burstRec = none → Becomes s (.biBurstWindow n) fun c =>
        logs clsHealth 11 (0x400 + n.val) b.burst (alerted 16 (withBi n { b with burst := 0, burstRec := some c.clk.raw } c)))) ∧
    (∀ e : SenseErr × SenseErr,
      let seen (c : Chip) : Chip := { c with otp := { c.otp with
        shadowA := Chip.senseWith c.otp.shadowA e.1, shadowB := Chip.senseWith c.otp.shadowB e.2 } }
      let m := Chip.shadowDiff (seen c)
      (m = 0 → Becomes s (.shadowCompare [e]) seen) ∧
      (m ≠ 0 → Becomes s (.shadowCompare [e]) fun c => logs clsSec 9 0x901 m (alerted 0x80 { c with otp := { c.otp with
        shadowA := c.otp.fuses, shadowB := c.otp.fuses } }))) ∧
    (∀ l : Sensing, l.length = 4 → c.start.regIn = true → c.start.mode ≠ 2 →
      (Chip.senseWith c.otp.shadowA (l.headD ([], [])).1).read 0 0 256 ≠ (Chip.senseWith c.otp.shadowB (l.headD ([], [])).2).read 0 0 256 →
      (∀ e, e ∈ l.drop 1 → (Chip.senseWith c.otp.fuses e.1).read 0 0 256 ≠ (Chip.senseWith c.otp.fuses e.2).read 0 0 256) →
      ∃ t, exec (.shadowCompare l) s = .next t ∧ t.dev.chip.start.mode = 2 ∧ t.dev.chip.start.reserve14 = true ∧
        t.dev.chip.rgr.wdo = true ∧ t.dev.cur = {} ∧ t.dev.reg.running = true ∧ t.dev.reg.pc = 0 ∧ t.dev.reg.wt[0] = 0x80000000) ∧
    (∀ (p : Port) (bits : Byte), CatReady c → (p = .host ∨ p = .canA ∨ p = .canB ∨ (p = .debug ∧ c.right rCatWrite = true)) →
      Becomes s (.alertClear p bits) fun c => tookWrite p 0x8000 3 (rgr (fun r => { r with
        alerts := (r.alerts &&& ~~~bits) ||| byteOf c.alertsHeld }) c))

/-- 11 R478 to R490, R503 to R507: a kick in the window restarts the watchdog; one that is early, and the end of the window, expire it
with its record and a Curator reset; an answer from the Curator's mailbox goes to its request or is dropped; the ledger's page is
programmed after 1 s, and its admission counts anew each hour. Rests on the model's choices and readings of logs 51, 52, 53, 63. -/
def Obligations.RegistrarServices : Prop :=
  ∀ (s : State), Live s →
    let c := s.dev.chip
    let rgr (f : Rgr → Rgr) (c : Chip) : Chip := { c with rgr := f c.rgr }
    let expires (i : Instr) (detail : Nat) : Prop := ∃ u t, exec i s = .next t ∧ CuratorReset 2 u t ∧ OnlyBlocks [.rgr, .acc] s u ∧
      u.dev.chip.rgr = { c.rgr with
        expiries := c.rgr.expiries + 1, badKicks := if detail = 0 then c.rgr.badKicks else c.rgr.badKicks + 1
        wdRun := false, wdHalf := false, wdo := true, alerts := c.rgr.alerts ||| 64 } ∧
      u.dev.chip.acc = (logs clsHealth 11 (0x500 + detail) 0 c).acc
    (c.wdRunning = true → c.rgr.wdHalf = false →
      (400000 * c.cfg 0x8200 2 ≤ c.wdElapsed → c.wdElapsed ≤ 400000 * c.cfg 0x8200 3 →
        Becomes s (.watchdogKick .curator 0x5A 0xA5) (rgr fun r => { r with wdHalf := false, wdLast := c.rcNow })) ∧
      (c.start.regIn = true → c.start.mode ≠ 2 → s.dev.cur.wbuf = [] → c.cat.mbox = [] →
        (c.wdElapsed < 400000 * c.cfg 0x8200 2 → expires (.watchdogKick .curator 0x5A 0xA5) 1) ∧
        (400000 * c.cfg 0x8200 3 ≤ c.wdElapsed → expires .watchdogExpiry 0) ∧
        ∀ a b : Byte, a ≠ 0x5A → expires (.watchdogKick .curator a b) 2)) ∧
    (let drop (c : Chip) : Chip := rgr (fun r => { r with rmbIrq := r.rmbIrq ||| 2 }) c
     (c.cat.mbox = [] → Becomes s (.answerSend .curator 1) drop) ∧
     (∀ q rest, c.cat.mbox = q :: rest →
       let answer (cmd status : Byte) (p : Bytes) (c : Chip) : Chip := { c with
         cat := { c.cat with mbox := rest }
         host := { c.host with imm := some { status, cmd, payload := p }, busy := none, idleSince := c.clk.raw } }
       (c.rgr.anId.toNat ≠ q.id ∨ q.tick + 8000000 ≤ c.clk.raw → Becomes s (.answerSend .curator 1) drop) ∧
       (∀ cmd, c.rgr.anId.toNat = q.id → c.clk.raw < q.tick + 8000000 → q.reply = .host → c.host.busy = some cmd → cmd ≠ 0x20 →
         (c.rgr.anCode = 0 → q.write = false → 1 ≤ c.rgr.anLen.toNat → c.rgr.anLen.toNat ≤ 256 →
           Becomes s (.answerSend .curator 1) (answer cmd 0 (c.rgr.anData.read 0 0 c.rgr.anLen.toNat))) ∧
         (c.rgr.anCode = 0 → q.write = true → c.rgr.anLen = 0 → Becomes s (.answerSend .curator 1) (answer cmd 0 [])) ∧
         (c.rgr.anCode ≠ 0 → Becomes s (.answerSend .curator 1) (answer cmd 1 (leBytes 2 c.rgr.anCode.toNat)))))) ∧
    (let left := c.rgr.ledBuf.drop c.rgr.ledTaken
     (∀ e, left = [e] → e.2.1 + 400000000 ≤ c.clk.raw → Becomes s .ledgerPageTimeout fun c =>
       rgr (fun r => { r with ledTaken := r.ledTaken + 1 }) (awaits (.ledgerPage e.1 [e.2.2]) c)) ∧
     (∀ e f, left = [e, f] → e.2.1 + 400000000 ≤ c.clk.raw → Becomes s .ledgerPageTimeout fun c =>
       rgr (fun r => { r with ledTaken := r.ledTaken + 2 }) (if e.1 / 16 = f.1 / 16 then awaits (.ledgerPage e.1 [e.2.2, f.2.2]) c
         else awaits (.ledgerPage f.1 [f.2.2]) (awaits (.ledgerPage e.1 [e.2.2]) c))) ∧
     (left = [] → Becomes s .ledgerPageTimeout id)) ∧
    (c.rgr.ledHour + 1440000000000 ≤ c.clk.raw → Becomes s .ledgerHour (rgr fun g => { g with
      ledHour := g.ledHour + 1440000000000, ledHourN := 0 }))

/-- 11 R493 to R502: object 0x1F50 opens a transfer into the slot that is not active, takes its blocks, verifies the slot, records it
as active, now with a Curator reset, rolls back, and ends a transfer; one left alone for 60 s ends.
Rests on the model's choices and readings of logs 53, 54, 74. -/
def Obligations.ImageTransfers : Prop :=
  ∀ (s : State) (p : Port), Live s → CatReady s.dev.chip → s.dev.chip.inReserve14 = false → s.dev.chip.imageForeign p = false →
    (p = .host ∨ p = .canA ∨ p = .canB ∨ (p = .debug ∧ s.dev.chip.right rCatWrite = true)) →
    let c := s.dev.chip
    let r := c.rgr
    let slot := r.imgSlot - 1
    let w := c.startWord
    let wrote (f : Rgr → Rgr) (c : Chip) : Chip := tookWrite p 0x1F50 1 { c with rgr := f { c.rgr with imgTick := c.clk.raw } }
    let reads (c : Chip) : Chip := { c with cns := { c.cns with lastRead := c.clk.raw } }
    -- the word is written at once, or the store is exhausted
    let now : Prop := w.serial = 0x7FFFF ∨ (c.wordNow = true ∧ c.clk.pfw = false)
    -- slot `n` of a kind has been recorded as active, with a record; `after` waits for the word
    let recorded (kind n ver : Nat) (back : Bool) (after : Option Ask) (u : State) : Prop :=
      let w2 := if kind = 1 then { w with cs := n, cf := 0, cw := false, rsv := if w.rsv = 1 then 0 else w.rsv }
        else { w with rs := n, rf := 0, rw := false, rsv := if w.rsv = 2 then 0 else w.rsv }
      OnlyBlocks [.mem, .cns, .start, .rgr, .acc, .cat] s u ∧
      u.dev.chip.rgr = { r with imgStatus := 6, imgTick := c.clk.raw } ∧ WordIs c w2 u.dev.chip ∧
      (¬now → u.dev.chip.cns.rjobs = c.cns.rjobs ++ [.startWord (nextWord c w2) none after]) ∧
      u.dev.chip.acc = (logs clsHealth 11 (0x900 + kind + 16 * n + if back then 32 else 0) (ver % 16777216) c).acc
    -- recorded, with a Curator reset once the word is in force
    let resets (i : Instr) (n ver : Nat) (back : Bool) : Prop := ∃ u, recorded 1 n ver back (some (.curReset 4)) u ∧
      (¬now → exec i s = .next u) ∧
      (now → s.dev.cur.wbuf = [] → c.cat.mbox = [] → ∃ t, exec i s = .next t ∧ CuratorReset 4 u t)
    (imgEnded r.imgStatus = true →
      let opens (kind : Nat) (c : Chip) : Chip :=
        let n := 1 - c.activeSlot kind
        wrote (fun r => { r with
          imgStatus := 1, imgOwner := some p, imgKind := kind, imgSlot := n + 1, imgNext := 0, imgBytes := 0, imgVer := 0, imgLen := 0
          imgLast := [] }) (awaits (.imageErase (slotBase kind n / 8192) (slotSize kind / 8192 - 1)) c)
      Becomes s (.openCuratorImage p) (opens 1) ∧ Becomes s (.openRegistrarImage p) (opens 2)) ∧
    (∀ data : Bytes, data.length = 256 → r.imgStatus = 2 →
      let n := r.imgNext
      let len := if n = 0 then leAt data 12 4 else r.imgLen
      let total := min (256 + len) (slotSize r.imgKind)
      let want := min 256 (total - 256 * n)
      (p = .host → Becomes s (.blockData p data) id) ∧
      (p ≠ .host → Becomes s (.blockData p data) fun c => tookWrite p 0x1F50 3 (awaits (.imagePage (slotBase r.imgKind slot + 256 * n) (data.take want))
        { c with rgr := { c.rgr with
          imgTick := c.clk.raw, imgNext := n + 1, imgBytes := r.imgBytes + want, imgLast := data, imgLen := len
          imgVer := if n = 0 then leAt data 8 4 else r.imgVer, imgStatus := if 256 * n + want = total then 3 else 2 } }))) ∧
    (r.imgStatus = 3 →
      let st := c.verifySlot r.imgKind slot (some r.imgBytes)
      (c.pagesLeft = true ∨ c.slotWaits r.imgKind slot = true → Becomes s (.verifyImage p) (wrote fun r => { r with imgStatus := 4 })) ∧
      (c.pagesLeft = false → SlotReads c r.imgKind slot →
        (st = 0 → Becomes s (.verifyImage p) fun c =>
          logs clsHealth 11 (0x800 + r.imgKind + 16 * slot) (r.imgVer % 16777216) (reads (wrote (fun r => { r with imgStatus := 5 }) c))) ∧
        (st ≠ 0 → Becomes s (.verifyImage p) fun c =>
          logs clsSec 9 (0x600 + st) (r.imgVer % 16777216) (alerted 0x80 (reads (wrote (fun r => { r with imgStatus := st }) c)))))) ∧
    (r.imgStatus = 5 →
      ((r.imgKind = 1 ∨ r.imgKind = 2) →
        ∃ u, exec (.activateAtNextStart p) s = .next u ∧ recorded r.imgKind slot r.imgVer false none u) ∧
      (r.imgKind = 1 → c.start.regIn = true → c.start.mode ≠ 2 → resets (.activateNow p) slot r.imgVer false)) ∧
    (imgEnded r.imgStatus = true →
      ∀ kind, let n := 1 - c.activeSlot kind
      SlotReads c kind n → c.verifySlot kind n none = 0 →
        (kind = 2 → ∃ u, exec (.rollBackRegistrar p) s = .next u ∧ recorded 2 n (hdrVersion (c.slotHeader 2 n)) true none u) ∧
        (kind = 1 → c.start.regIn = true → c.start.mode ≠ 2 →
          resets (.rollBackCurator p) n (hdrVersion (c.slotHeader 1 n)) true)) ∧
    (r.imgStatus ≠ 0 →
      let mine : FlashOp → Bool
        | .imageErase .. | .imagePage .. => true
        | _ => false
      -- an erase under way goes on to its block's end as no one's
      let goes : FlashOp → FlashOp
        | .imageErase b l => .imageErase b (if l < Chip.orphanErase then l + Chip.orphanErase else l)
        | o => o
      Becomes s (.abortTransfer p) fun c =>
        let d := if c.cns.queue.any mine = true then winEnds .registrar 6 c else c
        wrote (fun r => { r with imgStatus := 0x1A }) { d with cns := { d.cns with
          queue := d.cns.queue.filter fun o => !mine o, rjobs := d.cns.rjobs.filter fun o => !mine o
          run := d.cns.run.map fun r => { r with op := goes r.op }, susp := d.cns.susp.map goes } }) ∧
    ((r.imgStatus = 2 ∨ r.imgStatus = 3) → r.imgTick + 24000000000 ≤ c.clk.raw →
      Becomes s .imageTransferTimeout fun c => { c with rgr := { c.rgr with imgStatus := 0x18 } })

/-! ## Debug port, OTP and registers -/

/-- 01 R35 to R39, R738, R740; 13 R569, R588 to R591: the debug port answers ID, and a read or write of memory that its rights and the
Vitrine allow, else a status; a read of byte 0 latches a status register and its later bytes come from the latch; bytes of a
control register wait for the last one; a read-only register takes no write.
Rests on the model's choices and readings of log 39. -/
def Obligations.DebugPort : Prop :=
  ∀ (s : State), Live s →
    let c := s.dev.chip
    let resp (b : Bytes) (c : Chip) : Chip := { c with dbg := { c.dbg with resp := b ++ [byteOf (crc8 b)] } }
    Becomes s (.debugId true) (resp (([0] : Bytes) ++ leBytes 2 0x2630 ++ [Config.siliconRev, byteOf (Chip.lifeCode c.start.life)]
      ++ leBytes 2 Config.romRev.toNat ++ [1, 0])) ∧
    Becomes s (.debugId false) (resp [2]) ∧
    Becomes s .debugPortIdle (fun c => { c with dbg := { c.dbg with resp := [] } }) ∧
    (∀ (a : Word) (n : Nat) (par : Bool),
      Becomes s (.debugRd a n false par) (resp [2]) ∧
      (n = 0 ∨ 64 < n → Becomes s (.debugRd a n true par) (resp [5])) ∧
      (1 ≤ n → n ≤ 64 → c.dead = true → Becomes s (.debugRd a n true par) (resp [3])) ∧
      (∀ p, c.debugRefused false a.toNat [] n par = some (4, some p) → c.rgr.refTick[byDebug] = some c.clk.raw →
        Becomes s (.debugRd a n true par) fun c => resp [4] { c with vit := { c.vit with
          refs := c.vit.refs.set byDebug (c.vit.refs[byDebug] + 1) } }) ∧
      (c.debugRefused false a.toNat [] n par = none → InSram a.toNat n → Becomes s (.debugRd a n true par)
        (resp ((0 : Byte) :: (List.range n).map fun i => c.memByte (a.toNat + i))))) ∧
    (∀ (a : Word) (data : Bytes) (par : Bool),
      Becomes s (.debugWr a data false par) (resp [2]) ∧
      (c.debugRefused true a.toNat data data.length par = none → InSram a.toNat data.length →
        Leaves s (.debugWr a data true par) [.mem, .dbg] fun d =>
          d.dbg = (resp [0] c).dbg ∧ d.mem.flash = c.mem.flash ∧ d.mem.info = c.mem.info ∧
          ∀ x, InSram x 1 → d.memByte x =
            if a.toNat ≤ x ∧ x < a.toNat + data.length then data.getD (x - a.toNat) 0 else c.memByte x)) ∧
    (∀ (i : Init) (a : Word),
      let p := (a.toNat - 0x40000000) / 4096
      let o := a.toNat % 4096
      let r := regAt p o
      inPeriph a.toNat = true → dataAt p o = none →
      (r.ctl = false → r.off = o → p ≠ 6 → (i = .debug → c.debugMay false a.toNat 0 = true) →
        Becomes s (.latchRead i a) fun c => { c with bus := { c.bus with
          latches := assocPut (Chip.initKey i a.toNat) (some (c.regValue i p o s.dev.cur)) c.bus.latches } }) ∧
      (∀ v : Byte, (i = .debug → c.debugMay true a.toNat v = true) →
        (r.ctl = false → Becomes s (.registerWrite i a v) id) ∧
        (r.ctl = true → o - r.off + 1 < r.bytes →
          Becomes s (.registerWrite i a v) fun c =>
            let key := Chip.initKey i (a.toNat - (o - r.off))
            { c with bus := { c.bus with
              staged := assocPut key (some (assocPut (o - r.off) (some v) ((assoc key c.bus.staged).getD []))) c.bus.staged } }))) ∧
    (∀ (i : Init) (d : Chip) (k : Core) (v j : Nat), 1 ≤ j → j < 8 → assoc (Chip.initKey i 0x40001008) d.bus.latches = some v →
      Chip.regRead i (0x40001008 + j) k d = (byteOf (v / 256 ^ j), d)) ∧
    (∀ lo hi : Byte, assoc (Chip.initKey .curator 0x4000E002) c.bus.staged = some [(0, lo)] →
      Becomes s (.registerWrite .curator 0x4000E003 hi) fun c => { c with
        gpio := { c.gpio with dir := BitVec.ofNat 16 ((lo.toNat + 256 * hi.toNat) % 512) }
        bus := { c.bus with staged := assocPut (Chip.initKey .curator 0x4000E002) none c.bus.staged } }) ∧
    (∀ v : Byte, Becomes s (.registerWrite .curator 0x40002001 v) fun c => { c with acc := { c.acc with irq := c.acc.irq &&& ~~~v } }) ∧
    (∀ (n : Fin 32) (v : Byte), Becomes s (.registerWrite .registrar (0x4000710C + 16 * BitVec.ofNat 32 n.val) v) fun c =>
      let r := c.vit.regions[n]
      if r.lock = true then c
      else { c with vit := { c.vit with regions := c.vit.regions.set n { r with en := v.getLsbD 0, lock := v.getLsbD 1 } } })

/-- 07 R300; 13 R558 to R564, R571 to R586, R592, R593: challenges and loans; an OTP program and a life-cycle transition that pass
their checks run and blow their words, and are refused with the code of the first failing check; halt, step and resume of the
Curator core; the debug port's Catalogue channel. Rests on the model's choices and readings of logs 13, 15, 23, 34, 47, 55. -/
def Obligations.DebugControl : Prop :=
  ∀ (s : State), Live s → s.dev.chip.dead = false →
    let c := s.dev.chip
    let dbg (f : Dbg → Dbg) (c : Chip) : Chip := { c with dbg := f c.dbg }
    (c.trn.st ≠ .delivering → Becomes s (.challenge .debug) (dbg fun d => { d with chal := none, result := 0x0A })) ∧
    (c.trn.st = .delivering → Becomes s (.challenge .debug) fun c =>
      let raw := c.trn.fifo ++ (List.range (64 - c.trn.fifo.length)).map (Config.rawEntropy c.clk.free)
      { dbg (fun d => { d with chal := some ((Crypto.sha256 raw).take 16), result := 0x0B }) c with
        trn := { c.trn with fifo := [] }, clk := { c.clk with free := c.clk.free + 1 } }) ∧
    (c.inReserve14 = false →
      let cert := c.dbg.loanBuf.read 0 0 176
      let r := c.judgeLoan cert
      Becomes s (.presentLoan .debug) fun c => dbg (fun d => { d with
          chal := none, loanNo := leAt cert 8 4, loanRes := r, result := byteOf r
          loansOk := if r = 0 then d.loansOk + 1 else d.loansOk, loansBad := if r = 0 then d.loansBad else d.loansBad + 1
          loaned := if r = 0 then d.loaned ||| BitVec.ofNat 32 (leAt cert 20 4) else d.loaned })
        (logs clsSec 9 (if r = 0 then 0x700 else 0x701) (leAt cert 8 4 % 16777216) (alerted 0x80 c))) ∧
    (c.inReserve14 = true →
      let cert := c.dbg.loanBuf.read 0 0 176
      Becomes s (.presentLoan .debug) fun c => { dbg (fun d => { d with
          chal := none, loanNo := leAt cert 8 4, loansBad := d.loansBad + 1, result := Config.refusedLoan c.clk.free })
        (logs clsSec 9 0x701 (leAt cert 8 4 % 16777216) (alerted 0x80 c)) with clk := { c.clk with free := c.clk.free + 1 } }) ∧
    (c.anyRight [rOtpCustomer, rOtpLock, rKeyRevoke] = true →
      (c.judgeOtp = 0 → Becomes s (.otpProgram .debug) (dbg fun d => { d with
        otpRun := some (d.otpAddr.toNat, d.otpData.toNat), result := 0xFF, busyHid := false })) ∧
      (c.judgeOtp ≠ 0 → Becomes s (.otpProgram .debug) (dbg fun d => { d with result := byteOf c.judgeOtp })) ∧
      (c.dbg.otpAddr.toNat % 4 ≠ 0 → Becomes s (.otpProgram .debug) (dbg fun d => { d with result := 0x26 }))) ∧
    (c.otp.shadowA = c.otp.shadowB →
      (∀ off data, c.dbg.otpRun = some (off, data) →
        let old := BitVec.ofNat 32 (leNat (c.otp.fuses.read 0 off 4))
        let word (w : Word) (d : Chip) : Prop :=
          d.otp.shadowA = d.otp.shadowB ∧
          (∀ i, d.otp.fuses.get 0 i = if off ≤ i ∧ i < off + 4 then (leBytes 4 w.toNat).getD (i - off) 0 else c.otp.fuses.get 0 i) ∧
          (∀ i, d.otp.shadowA.get 0 i = if off ≤ i ∧ i < off + 4 then (leBytes 4 w.toNat).getD (i - off) 0 else c.otp.shadowA.get 0 i) ∧
          assoc (off / 4) d.otp.before = some ((assoc (off / 4) c.otp.before).getD (c.otp.shadowA.read 0 off 4))
        (Leaves s (.otpProgramDone true []) [.otp, .dbg] fun d =>
          word (old ||| BitVec.ofNat 32 data) d ∧
          d.otp.loose = (if off = 0xF00 then c.otp.loose &&& ~~~BitVec.ofNat 32 data else c.otp.loose) ∧
          d.dbg = { c.dbg with otpRun := none, result := 0x20, otpProgs := c.dbg.otpProgs + 1 }) ∧
        (Leaves s (.otpProgramDone false []) [.otp, .dbg, .clk] fun d =>
          word (old ||| (BitVec.ofNat 32 data &&& Config.otpPartial c.clk.free (BitVec.ofNat 32 data))) d ∧
          d.otp.loose = (if off = 0xF00 then c.otp.loose ||| (BitVec.ofNat 32 data &&& ~~~c.otpWord off) else c.otp.loose) ∧
          d.dbg = { c.dbg with otpRun := none, result := 0x24 })) ∧
      (∀ m, c.dbg.transRun = some m → Leaves s (.transitionDone true true []) [.otp, .dbg] fun d =>
        d.otp.shadowA = d.otp.shadowB ∧
        (∀ i, d.otp.fuses.get 0 i =
          if i = 4 * m then c.otp.fuses.get 0 i ||| 0x5A
          else if i = 0x20 + 4 * m then c.otp.fuses.get 0 i ||| 0xA5
          else c.otp.fuses.get 0 i) ∧
        d.dbg = { c.dbg with transRun := none, result := 0x30, otpProgs := c.dbg.otpProgs + 2 })) ∧
    (c.anyRight [rLcReturn, rLcScrap] = true →
      (c.judgeTransition = 0 → Becomes s (.transition .debug) (dbg fun d => { d with
        transRun := some (Chip.lifeCode c.start.life), lcDone := true, result := 0xFF, busyHid := false })) ∧
      (c.judgeTransition ≠ 0 → Becomes s (.transition .debug) (dbg fun d => { d with result := byteOf c.judgeTransition }))) ∧
    (c.right rHalt = true →
      let k := s.dev.cur
      let sets (i : Instr) (x : Core) (f : Rgr → Rgr) : Prop :=
        exec i s = .next { s with dev := { s.dev with cur := x, chip := { c with rgr := f c.rgr } } }
      (k.running = true → k.halted = false →
        (k.branch = none → k.frozen = none →
          sets (.halt .debug) { k.complete with halted := true, haltReq := false, stepping := false } fun r => { r with
            winPaused := if r.win.isSome ∧ r.winPaused = none then some c.winLeft else r.winPaused
            wdPaused := if r.wdRun = true ∧ r.wdPaused = none then some c.wdElapsed else r.wdPaused }) ∧
        (k.branch.isSome = true → sets (.halt .debug) { k with haltReq := true } id)) ∧
      (k.halted = true →
        sets (.step .debug) { k with halted := false, stepping := true, fwt := k.wt, pastBp := true } id ∧
        sets (.resume .debug) { k with halted := false, fwt := k.wt, pastBp := true } fun r => { r with
          win := match r.winPaused with | some n => some (c.rcNow, n) | none => r.win
          wdLast := match r.wdPaused with | some n => c.rcNow - n | none => r.wdLast
          winPaused := none, wdPaused := none })) ∧
    (let k := c.cat.kch
     let asked (w : Bool) (v : Bytes) (c : Chip) : Chip := { c with cat := { c.cat with
       kch := { k with res := 1 }
       reqs := c.cat.reqs ++ [{ port := .debug, tick := c.clk.raw, write := w, idx := k.idx.toNat, sub := k.sub.toNat, data := v
                                reply := .debug }] } }
     k.res ≠ 1 → c.right rCatRead = true →
       Becomes s (.dbgCatRead .debug) (asked false []) ∧
       (k.idx ≠ 0x4200 ∨ k.sub ≠ 1 → Becomes s (.dbgCatWrite .debug) (asked true (k.data.read 0 0 k.len.toNat))))

/-! ## The block -/

/-- A step is the command at the front of the queue on the state with the queue's rest; with nothing waiting one stamp tick passes (log
1), which moves the raw count of a running device on by one. -/
def Obligations.BlockStep : Prop :=
  (∀ (s : State) (i : Instr) (rest : List Instr), s.pending = i :: rest → step s = exec i { s with pending := rest }) ∧
  ∀ s : State, s.pending = [] → ∃ t, step s = .next t ∧ t.pending = [] ∧ t.dev.cur = s.dev.cur ∧ t.dev.reg = s.dev.reg ∧
    t.dev.chip.clk.raw = (if s.dev.chip.clk.running then (s.dev.chip.clk.raw + 1) % 18446744073709551616 else s.dev.chip.clk.raw)

/-- No command stops the machine, and none touches the queue (log 3): every command completes from every state. -/
def Obligations.AlwaysCompletes : Prop :=
  ∀ (i : Instr) (s : State), ∃ t, exec i s = .next t ∧ t.pending = s.pending

/-- State.reset, the device before power-good: nothing waits, nothing runs; the registers at the Cold values of the register tables; memories
unwritten; both cores well formed. Rests on the model's choices and readings of logs 4, 5, 6. -/
def Obligations.ResetState : Prop :=
  let s := State.reset
  let c := s.dev.chip
  s.pending = [] ∧ s.CoresWf ∧ c.asks = [] ∧ c.clk.running = false ∧ c.mem.flash.wf 0xFF = true ∧ c.mem.info.wf 0xFF = true ∧
  c.mem.curSram.wf 0 = true ∧ c.mem.regSram.wf 0 = true ∧ c.mem.flash.get 0xFF 0x12345 = 0xFF ∧
  (∀ w : CoreId, (s.dev.core w).st = 0x00E0 ∧ (s.dev.core w).vbase = 0x0100 ∧ (s.dev.core w).stack = [] ∧
    (s.dev.core w).running = false) ∧
  c.time.sync = .free ∧ c.ord.ven = false ∧ c.ord.armed = false ∧ (∀ n : Fin 8, c.ord.drive[n] = .highZ) ∧ c.vit.en = false ∧
  (∀ n : Fin 32, c.vit.regions[n] = { base := 0, lim := 0xFF, perm := 0, en := false, lock := false }) ∧
  c.trn.thresh = 16 ∧ c.twm.retry = 0x53 ∧ c.tw.addr = 0x5A ∧ c.gpio.pen = 0x01FF ∧ c.cfg 0x8200 3 = 100 ∧ c.cfg 0x5000 2 = 4

/-- What the spec fixes of the cores' registers holds after every step that begins where it holds: PC and branch targets are even, the
reserved bits of ST, VBASE and the window entries are 0, the return stack and the store buffer keep their sizes, and results land in
issue order. -/
def Obligations.CoresKept : Prop := ∀ s t : State, s.CoresWf → step s = .next t → t.CoresWf
end

