-- ==== Sys2Proof/Laws/State.lean ====
section
/-! SUPPORT. One simp lemma per field per update of the chip, and the frames of the operations over them. -/

namespace Sys2Proof.Machine

open Sys2Proof

namespace Chip

/-! `modClk` changes `clk` alone. -/
@[simp] theorem modClk_clk (f : Clk → Clk) (c : Chip) : (c.modClk f).clk = f c.clk := rfl
@[simp] theorem modClk_mem (f : Clk → Clk) (c : Chip) : (c.modClk f).mem = c.mem := rfl
@[simp] theorem modClk_otp (f : Clk → Clk) (c : Chip) : (c.modClk f).otp = c.otp := rfl
@[simp] theorem modClk_time (f : Clk → Clk) (c : Chip) : (c.modClk f).time = c.time := rfl
@[simp] theorem modClk_phase (f : Clk → Clk) (c : Chip) : (c.modClk f).phase = c.phase := rfl
@[simp] theorem modClk_acc (f : Clk → Clk) (c : Chip) : (c.modClk f).acc = c.acc := rfl
@[simp] theorem modClk_ord (f : Clk → Clk) (c : Chip) : (c.modClk f).ord = c.ord := rfl
@[simp] theorem modClk_cns (f : Clk → Clk) (c : Chip) : (c.modClk f).cns = c.cns := rfl
@[simp] theorem modClk_vlt (f : Clk → Clk) (c : Chip) : (c.modClk f).vlt = c.vlt := rfl
@[simp] theorem modClk_trn (f : Clk → Clk) (c : Chip) : (c.modClk f).trn = c.trn := rfl
@[simp] theorem modClk_cat (f : Clk → Clk) (c : Chip) : (c.modClk f).cat = c.cat := rfl
@[simp] theorem modClk_host (f : Clk → Clk) (c : Chip) : (c.modClk f).host = c.host := rfl
@[simp] theorem modClk_can (f : Clk → Clk) (c : Chip) : (c.modClk f).can = c.can := rfl
@[simp] theorem modClk_tw (f : Clk → Clk) (c : Chip) : (c.modClk f).tw = c.tw := rfl
@[simp] theorem modClk_twm (f : Clk → Clk) (c : Chip) : (c.modClk f).twm = c.twm := rfl
@[simp] theorem modClk_tag (f : Clk → Clk) (c : Chip) : (c.modClk f).tag = c.tag := rfl
@[simp] theorem modClk_rgr (f : Clk → Clk) (c : Chip) : (c.modClk f).rgr = c.rgr := rfl
@[simp] theorem modClk_start (f : Clk → Clk) (c : Chip) : (c.modClk f).start = c.start := rfl
@[simp] theorem modClk_dbg (f : Clk → Clk) (c : Chip) : (c.modClk f).dbg = c.dbg := rfl
@[simp] theorem modClk_vit (f : Clk → Clk) (c : Chip) : (c.modClk f).vit = c.vit := rfl
@[simp] theorem modClk_bus (f : Clk → Clk) (c : Chip) : (c.modClk f).bus = c.bus := rfl
@[simp] theorem modClk_gpio (f : Clk → Clk) (c : Chip) : (c.modClk f).gpio = c.gpio := rfl
@[simp] theorem modClk_asks (f : Clk → Clk) (c : Chip) : (c.modClk f).asks = c.asks := rfl

/-! `modMem` changes `mem` alone. -/
@[simp] theorem modMem_mem (f : Mem → Mem) (c : Chip) : (c.modMem f).mem = f c.mem := rfl
@[simp] theorem modMem_clk (f : Mem → Mem) (c : Chip) : (c.modMem f).clk = c.clk := rfl
@[simp] theorem modMem_otp (f : Mem → Mem) (c : Chip) : (c.modMem f).otp = c.otp := rfl
@[simp] theorem modMem_time (f : Mem → Mem) (c : Chip) : (c.modMem f).time = c.time := rfl
@[simp] theorem modMem_phase (f : Mem → Mem) (c : Chip) : (c.modMem f).phase = c.phase := rfl
@[simp] theorem modMem_acc (f : Mem → Mem) (c : Chip) : (c.modMem f).acc = c.acc := rfl
@[simp] theorem modMem_ord (f : Mem → Mem) (c : Chip) : (c.modMem f).ord = c.ord := rfl
@[simp] theorem modMem_cns (f : Mem → Mem) (c : Chip) : (c.modMem f).cns = c.cns := rfl
@[simp] theorem modMem_vlt (f : Mem → Mem) (c : Chip) : (c.modMem f).vlt = c.vlt := rfl
@[simp] theorem modMem_trn (f : Mem → Mem) (c : Chip) : (c.modMem f).trn = c.trn := rfl
@[simp] theorem modMem_cat (f : Mem → Mem) (c : Chip) : (c.modMem f).cat = c.cat := rfl
@[simp] theorem modMem_host (f : Mem → Mem) (c : Chip) : (c.modMem f).host = c.host := rfl
@[simp] theorem modMem_can (f : Mem → Mem) (c : Chip) : (c.modMem f).can = c.can := rfl
@[simp] theorem modMem_tw (f : Mem → Mem) (c : Chip) : (c.modMem f).tw = c.tw := rfl
@[simp] theorem modMem_twm (f : Mem → Mem) (c : Chip) : (c.modMem f).twm = c.twm := rfl
@[simp] theorem modMem_tag (f : Mem → Mem) (c : Chip) : (c.modMem f).tag = c.tag := rfl
@[simp] theorem modMem_rgr (f : Mem → Mem) (c : Chip) : (c.modMem f).rgr = c.rgr := rfl
@[simp] theorem modMem_start (f : Mem → Mem) (c : Chip) : (c.modMem f).start = c.start := rfl
@[simp] theorem modMem_dbg (f : Mem → Mem) (c : Chip) : (c.modMem f).dbg = c.dbg := rfl
@[simp] theorem modMem_vit (f : Mem → Mem) (c : Chip) : (c.modMem f).vit = c.vit := rfl
@[simp] theorem modMem_bus (f : Mem → Mem) (c : Chip) : (c.modMem f).bus = c.bus := rfl
@[simp] theorem modMem_gpio (f : Mem → Mem) (c : Chip) : (c.modMem f).gpio = c.gpio := rfl
@[simp] theorem modMem_asks (f : Mem → Mem) (c : Chip) : (c.modMem f).asks = c.asks := rfl

/-! `modOtp` changes `otp` alone. -/
@[simp] theorem modOtp_otp (f : Otp → Otp) (c : Chip) : (c.modOtp f).otp = f c.otp := rfl
@[simp] theorem modOtp_clk (f : Otp → Otp) (c : Chip) : (c.modOtp f).clk = c.clk := rfl
@[simp] theorem modOtp_mem (f : Otp → Otp) (c : Chip) : (c.modOtp f).mem = c.mem := rfl
@[simp] theorem modOtp_time (f : Otp → Otp) (c : Chip) : (c.modOtp f).time = c.time := rfl
@[simp] theorem modOtp_phase (f : Otp → Otp) (c : Chip) : (c.modOtp f).phase = c.phase := rfl
@[simp] theorem modOtp_acc (f : Otp → Otp) (c : Chip) : (c.modOtp f).acc = c.acc := rfl
@[simp] theorem modOtp_ord (f : Otp → Otp) (c : Chip) : (c.modOtp f).ord = c.ord := rfl
@[simp] theorem modOtp_cns (f : Otp → Otp) (c : Chip) : (c.modOtp f).cns = c.cns := rfl
@[simp] theorem modOtp_vlt (f : Otp → Otp) (c : Chip) : (c.modOtp f).vlt = c.vlt := rfl
@[simp] theorem modOtp_trn (f : Otp → Otp) (c : Chip) : (c.modOtp f).trn = c.trn := rfl
@[simp] theorem modOtp_cat (f : Otp → Otp) (c : Chip) : (c.modOtp f).cat = c.cat := rfl
@[simp] theorem modOtp_host (f : Otp → Otp) (c : Chip) : (c.modOtp f).host = c.host := rfl
@[simp] theorem modOtp_can (f : Otp → Otp) (c : Chip) : (c.modOtp f).can = c.can := rfl
@[simp] theorem modOtp_tw (f : Otp → Otp) (c : Chip) : (c.modOtp f).tw = c.tw := rfl
@[simp] theorem modOtp_twm (f : Otp → Otp) (c : Chip) : (c.modOtp f).twm = c.twm := rfl
@[simp] theorem modOtp_tag (f : Otp → Otp) (c : Chip) : (c.modOtp f).tag = c.tag := rfl
@[simp] theorem modOtp_rgr (f : Otp → Otp) (c : Chip) : (c.modOtp f).rgr = c.rgr := rfl
@[simp] theorem modOtp_start (f : Otp → Otp) (c : Chip) : (c.modOtp f).start = c.start := rfl
@[simp] theorem modOtp_dbg (f : Otp → Otp) (c : Chip) : (c.modOtp f).dbg = c.dbg := rfl
@[simp] theorem modOtp_vit (f : Otp → Otp) (c : Chip) : (c.modOtp f).vit = c.vit := rfl
@[simp] theorem modOtp_bus (f : Otp → Otp) (c : Chip) : (c.modOtp f).bus = c.bus := rfl
@[simp] theorem modOtp_gpio (f : Otp → Otp) (c : Chip) : (c.modOtp f).gpio = c.gpio := rfl
@[simp] theorem modOtp_asks (f : Otp → Otp) (c : Chip) : (c.modOtp f).asks = c.asks := rfl

/-! `modTime` changes `time` alone. -/
@[simp] theorem modTime_time (f : TimeBase → TimeBase) (c : Chip) : (c.modTime f).time = f c.time := rfl
@[simp] theorem modTime_clk (f : TimeBase → TimeBase) (c : Chip) : (c.modTime f).clk = c.clk := rfl
@[simp] theorem modTime_mem (f : TimeBase → TimeBase) (c : Chip) : (c.modTime f).mem = c.mem := rfl
@[simp] theorem modTime_otp (f : TimeBase → TimeBase) (c : Chip) : (c.modTime f).otp = c.otp := rfl
@[simp] theorem modTime_phase (f : TimeBase → TimeBase) (c : Chip) : (c.modTime f).phase = c.phase := rfl
@[simp] theorem modTime_acc (f : TimeBase → TimeBase) (c : Chip) : (c.modTime f).acc = c.acc := rfl
@[simp] theorem modTime_ord (f : TimeBase → TimeBase) (c : Chip) : (c.modTime f).ord = c.ord := rfl
@[simp] theorem modTime_cns (f : TimeBase → TimeBase) (c : Chip) : (c.modTime f).cns = c.cns := rfl
@[simp] theorem modTime_vlt (f : TimeBase → TimeBase) (c : Chip) : (c.modTime f).vlt = c.vlt := rfl
@[simp] theorem modTime_trn (f : TimeBase → TimeBase) (c : Chip) : (c.modTime f).trn = c.trn := rfl
@[simp] theorem modTime_cat (f : TimeBase → TimeBase) (c : Chip) : (c.modTime f).cat = c.cat := rfl
@[simp] theorem modTime_host (f : TimeBase → TimeBase) (c : Chip) : (c.modTime f).host = c.host := rfl
@[simp] theorem modTime_can (f : TimeBase → TimeBase) (c : Chip) : (c.modTime f).can = c.can := rfl
@[simp] theorem modTime_tw (f : TimeBase → TimeBase) (c : Chip) : (c.modTime f).tw = c.tw := rfl
@[simp] theorem modTime_twm (f : TimeBase → TimeBase) (c : Chip) : (c.modTime f).twm = c.twm := rfl
@[simp] theorem modTime_tag (f : TimeBase → TimeBase) (c : Chip) : (c.modTime f).tag = c.tag := rfl
@[simp] theorem modTime_rgr (f : TimeBase → TimeBase) (c : Chip) : (c.modTime f).rgr = c.rgr := rfl
@[simp] theorem modTime_start (f : TimeBase → TimeBase) (c : Chip) : (c.modTime f).start = c.start := rfl
@[simp] theorem modTime_dbg (f : TimeBase → TimeBase) (c : Chip) : (c.modTime f).dbg = c.dbg := rfl
@[simp] theorem modTime_vit (f : TimeBase → TimeBase) (c : Chip) : (c.modTime f).vit = c.vit := rfl
@[simp] theorem modTime_bus (f : TimeBase → TimeBase) (c : Chip) : (c.modTime f).bus = c.bus := rfl
@[simp] theorem modTime_gpio (f : TimeBase → TimeBase) (c : Chip) : (c.modTime f).gpio = c.gpio := rfl
@[simp] theorem modTime_asks (f : TimeBase → TimeBase) (c : Chip) : (c.modTime f).asks = c.asks := rfl

/-! `modPhase` changes `phase` alone. -/
@[simp] theorem modPhase_phase (f : Phase → Phase) (c : Chip) : (c.modPhase f).phase = f c.phase := rfl
@[simp] theorem modPhase_clk (f : Phase → Phase) (c : Chip) : (c.modPhase f).clk = c.clk := rfl
@[simp] theorem modPhase_mem (f : Phase → Phase) (c : Chip) : (c.modPhase f).mem = c.mem := rfl
@[simp] theorem modPhase_otp (f : Phase → Phase) (c : Chip) : (c.modPhase f).otp = c.otp := rfl
@[simp] theorem modPhase_time (f : Phase → Phase) (c : Chip) : (c.modPhase f).time = c.time := rfl
@[simp] theorem modPhase_acc (f : Phase → Phase) (c : Chip) : (c.modPhase f).acc = c.acc := rfl
@[simp] theorem modPhase_ord (f : Phase → Phase) (c : Chip) : (c.modPhase f).ord = c.ord := rfl
@[simp] theorem modPhase_cns (f : Phase → Phase) (c : Chip) : (c.modPhase f).cns = c.cns := rfl
@[simp] theorem modPhase_vlt (f : Phase → Phase) (c : Chip) : (c.modPhase f).vlt = c.vlt := rfl
@[simp] theorem modPhase_trn (f : Phase → Phase) (c : Chip) : (c.modPhase f).trn = c.trn := rfl
@[simp] theorem modPhase_cat (f : Phase → Phase) (c : Chip) : (c.modPhase f).cat = c.cat := rfl
@[simp] theorem modPhase_host (f : Phase → Phase) (c : Chip) : (c.modPhase f).host = c.host := rfl
@[simp] theorem modPhase_can (f : Phase → Phase) (c : Chip) : (c.modPhase f).can = c.can := rfl
@[simp] theorem modPhase_tw (f : Phase → Phase) (c : Chip) : (c.modPhase f).tw = c.tw := rfl
@[simp] theorem modPhase_twm (f : Phase → Phase) (c : Chip) : (c.modPhase f).twm = c.twm := rfl
@[simp] theorem modPhase_tag (f : Phase → Phase) (c : Chip) : (c.modPhase f).tag = c.tag := rfl
@[simp] theorem modPhase_rgr (f : Phase → Phase) (c : Chip) : (c.modPhase f).rgr = c.rgr := rfl
@[simp] theorem modPhase_start (f : Phase → Phase) (c : Chip) : (c.modPhase f).start = c.start := rfl
@[simp] theorem modPhase_dbg (f : Phase → Phase) (c : Chip) : (c.modPhase f).dbg = c.dbg := rfl
@[simp] theorem modPhase_vit (f : Phase → Phase) (c : Chip) : (c.modPhase f).vit = c.vit := rfl
@[simp] theorem modPhase_bus (f : Phase → Phase) (c : Chip) : (c.modPhase f).bus = c.bus := rfl
@[simp] theorem modPhase_gpio (f : Phase → Phase) (c : Chip) : (c.modPhase f).gpio = c.gpio := rfl
@[simp] theorem modPhase_asks (f : Phase → Phase) (c : Chip) : (c.modPhase f).asks = c.asks := rfl

/-! `modAcc` changes `acc` alone. -/
@[simp] theorem modAcc_acc (f : Acc → Acc) (c : Chip) : (c.modAcc f).acc = f c.acc := rfl
@[simp] theorem modAcc_clk (f : Acc → Acc) (c : Chip) : (c.modAcc f).clk = c.clk := rfl
@[simp] theorem modAcc_mem (f : Acc → Acc) (c : Chip) : (c.modAcc f).mem = c.mem := rfl
@[simp] theorem modAcc_otp (f : Acc → Acc) (c : Chip) : (c.modAcc f).otp = c.otp := rfl
@[simp] theorem modAcc_time (f : Acc → Acc) (c : Chip) : (c.modAcc f).time = c.time := rfl
@[simp] theorem modAcc_phase (f : Acc → Acc) (c : Chip) : (c.modAcc f).phase = c.phase := rfl
@[simp] theorem modAcc_ord (f : Acc → Acc) (c : Chip) : (c.modAcc f).ord = c.ord := rfl
@[simp] theorem modAcc_cns (f : Acc → Acc) (c : Chip) : (c.modAcc f).cns = c.cns := rfl
@[simp] theorem modAcc_vlt (f : Acc → Acc) (c : Chip) : (c.modAcc f).vlt = c.vlt := rfl
@[simp] theorem modAcc_trn (f : Acc → Acc) (c : Chip) : (c.modAcc f).trn = c.trn := rfl
@[simp] theorem modAcc_cat (f : Acc → Acc) (c : Chip) : (c.modAcc f).cat = c.cat := rfl
@[simp] theorem modAcc_host (f : Acc → Acc) (c : Chip) : (c.modAcc f).host = c.host := rfl
@[simp] theorem modAcc_can (f : Acc → Acc) (c : Chip) : (c.modAcc f).can = c.can := rfl
@[simp] theorem modAcc_tw (f : Acc → Acc) (c : Chip) : (c.modAcc f).tw = c.tw := rfl
@[simp] theorem modAcc_twm (f : Acc → Acc) (c : Chip) : (c.modAcc f).twm = c.twm := rfl
@[simp] theorem modAcc_tag (f : Acc → Acc) (c : Chip) : (c.modAcc f).tag = c.tag := rfl
@[simp] theorem modAcc_rgr (f : Acc → Acc) (c : Chip) : (c.modAcc f).rgr = c.rgr := rfl
@[simp] theorem modAcc_start (f : Acc → Acc) (c : Chip) : (c.modAcc f).start = c.start := rfl
@[simp] theorem modAcc_dbg (f : Acc → Acc) (c : Chip) : (c.modAcc f).dbg = c.dbg := rfl
@[simp] theorem modAcc_vit (f : Acc → Acc) (c : Chip) : (c.modAcc f).vit = c.vit := rfl
@[simp] theorem modAcc_bus (f : Acc → Acc) (c : Chip) : (c.modAcc f).bus = c.bus := rfl
@[simp] theorem modAcc_gpio (f : Acc → Acc) (c : Chip) : (c.modAcc f).gpio = c.gpio := rfl
@[simp] theorem modAcc_asks (f : Acc → Acc) (c : Chip) : (c.modAcc f).asks = c.asks := rfl

/-! `modOrd` changes `ord` alone. -/
@[simp] theorem modOrd_ord (f : Ord → Ord) (c : Chip) : (c.modOrd f).ord = f c.ord := rfl
@[simp] theorem modOrd_clk (f : Ord → Ord) (c : Chip) : (c.modOrd f).clk = c.clk := rfl
@[simp] theorem modOrd_mem (f : Ord → Ord) (c : Chip) : (c.modOrd f).mem = c.mem := rfl
@[simp] theorem modOrd_otp (f : Ord → Ord) (c : Chip) : (c.modOrd f).otp = c.otp := rfl
@[simp] theorem modOrd_time (f : Ord → Ord) (c : Chip) : (c.modOrd f).time = c.time := rfl
@[simp] theorem modOrd_phase (f : Ord → Ord) (c : Chip) : (c.modOrd f).phase = c.phase := rfl
@[simp] theorem modOrd_acc (f : Ord → Ord) (c : Chip) : (c.modOrd f).acc = c.acc := rfl
@[simp] theorem modOrd_cns (f : Ord → Ord) (c : Chip) : (c.modOrd f).cns = c.cns := rfl
@[simp] theorem modOrd_vlt (f : Ord → Ord) (c : Chip) : (c.modOrd f).vlt = c.vlt := rfl
@[simp] theorem modOrd_trn (f : Ord → Ord) (c : Chip) : (c.modOrd f).trn = c.trn := rfl
@[simp] theorem modOrd_cat (f : Ord → Ord) (c : Chip) : (c.modOrd f).cat = c.cat := rfl
@[simp] theorem modOrd_host (f : Ord → Ord) (c : Chip) : (c.modOrd f).host = c.host := rfl
@[simp] theorem modOrd_can (f : Ord → Ord) (c : Chip) : (c.modOrd f).can = c.can := rfl
@[simp] theorem modOrd_tw (f : Ord → Ord) (c : Chip) : (c.modOrd f).tw = c.tw := rfl
@[simp] theorem modOrd_twm (f : Ord → Ord) (c : Chip) : (c.modOrd f).twm = c.twm := rfl
@[simp] theorem modOrd_tag (f : Ord → Ord) (c : Chip) : (c.modOrd f).tag = c.tag := rfl
@[simp] theorem modOrd_rgr (f : Ord → Ord) (c : Chip) : (c.modOrd f).rgr = c.rgr := rfl
@[simp] theorem modOrd_start (f : Ord → Ord) (c : Chip) : (c.modOrd f).start = c.start := rfl
@[simp] theorem modOrd_dbg (f : Ord → Ord) (c : Chip) : (c.modOrd f).dbg = c.dbg := rfl
@[simp] theorem modOrd_vit (f : Ord → Ord) (c : Chip) : (c.modOrd f).vit = c.vit := rfl
@[simp] theorem modOrd_bus (f : Ord → Ord) (c : Chip) : (c.modOrd f).bus = c.bus := rfl
@[simp] theorem modOrd_gpio (f : Ord → Ord) (c : Chip) : (c.modOrd f).gpio = c.gpio := rfl
@[simp] theorem modOrd_asks (f : Ord → Ord) (c : Chip) : (c.modOrd f).asks = c.asks := rfl

/-! `modCns` changes `cns` alone. -/
@[simp] theorem modCns_cns (f : Cns → Cns) (c : Chip) : (c.modCns f).cns = f c.cns := rfl
@[simp] theorem modCns_clk (f : Cns → Cns) (c : Chip) : (c.modCns f).clk = c.clk := rfl
@[simp] theorem modCns_mem (f : Cns → Cns) (c : Chip) : (c.modCns f).mem = c.mem := rfl
@[simp] theorem modCns_otp (f : Cns → Cns) (c : Chip) : (c.modCns f).otp = c.otp := rfl
@[simp] theorem modCns_time (f : Cns → Cns) (c : Chip) : (c.modCns f).time = c.time := rfl
@[simp] theorem modCns_phase (f : Cns → Cns) (c : Chip) : (c.modCns f).phase = c.phase := rfl
@[simp] theorem modCns_acc (f : Cns → Cns) (c : Chip) : (c.modCns f).acc = c.acc := rfl
@[simp] theorem modCns_ord (f : Cns → Cns) (c : Chip) : (c.modCns f).ord = c.ord := rfl
@[simp] theorem modCns_vlt (f : Cns → Cns) (c : Chip) : (c.modCns f).vlt = c.vlt := rfl
@[simp] theorem modCns_trn (f : Cns → Cns) (c : Chip) : (c.modCns f).trn = c.trn := rfl
@[simp] theorem modCns_cat (f : Cns → Cns) (c : Chip) : (c.modCns f).cat = c.cat := rfl
@[simp] theorem modCns_host (f : Cns → Cns) (c : Chip) : (c.modCns f).host = c.host := rfl
@[simp] theorem modCns_can (f : Cns → Cns) (c : Chip) : (c.modCns f).can = c.can := rfl
@[simp] theorem modCns_tw (f : Cns → Cns) (c : Chip) : (c.modCns f).tw = c.tw := rfl
@[simp] theorem modCns_twm (f : Cns → Cns) (c : Chip) : (c.modCns f).twm = c.twm := rfl
@[simp] theorem modCns_tag (f : Cns → Cns) (c : Chip) : (c.modCns f).tag = c.tag := rfl
@[simp] theorem modCns_rgr (f : Cns → Cns) (c : Chip) : (c.modCns f).rgr = c.rgr := rfl
@[simp] theorem modCns_start (f : Cns → Cns) (c : Chip) : (c.modCns f).start = c.start := rfl
@[simp] theorem modCns_dbg (f : Cns → Cns) (c : Chip) : (c.modCns f).dbg = c.dbg := rfl
@[simp] theorem modCns_vit (f : Cns → Cns) (c : Chip) : (c.modCns f).vit = c.vit := rfl
@[simp] theorem modCns_bus (f : Cns → Cns) (c : Chip) : (c.modCns f).bus = c.bus := rfl
@[simp] theorem modCns_gpio (f : Cns → Cns) (c : Chip) : (c.modCns f).gpio = c.gpio := rfl
@[simp] theorem modCns_asks (f : Cns → Cns) (c : Chip) : (c.modCns f).asks = c.asks := rfl

/-! `modVlt` changes `vlt` alone. -/
@[simp] theorem modVlt_vlt (f : Vlt → Vlt) (c : Chip) : (c.modVlt f).vlt = f c.vlt := rfl
@[simp] theorem modVlt_clk (f : Vlt → Vlt) (c : Chip) : (c.modVlt f).clk = c.clk := rfl
@[simp] theorem modVlt_mem (f : Vlt → Vlt) (c : Chip) : (c.modVlt f).mem = c.mem := rfl
@[simp] theorem modVlt_otp (f : Vlt → Vlt) (c : Chip) : (c.modVlt f).otp = c.otp := rfl
@[simp] theorem modVlt_time (f : Vlt → Vlt) (c : Chip) : (c.modVlt f).time = c.time := rfl
@[simp] theorem modVlt_phase (f : Vlt → Vlt) (c : Chip) : (c.modVlt f).phase = c.phase := rfl
@[simp] theorem modVlt_acc (f : Vlt → Vlt) (c : Chip) : (c.modVlt f).acc = c.acc := rfl
@[simp] theorem modVlt_ord (f : Vlt → Vlt) (c : Chip) : (c.modVlt f).ord = c.ord := rfl
@[simp] theorem modVlt_cns (f : Vlt → Vlt) (c : Chip) : (c.modVlt f).cns = c.cns := rfl
@[simp] theorem modVlt_trn (f : Vlt → Vlt) (c : Chip) : (c.modVlt f).trn = c.trn := rfl
@[simp] theorem modVlt_cat (f : Vlt → Vlt) (c : Chip) : (c.modVlt f).cat = c.cat := rfl
@[simp] theorem modVlt_host (f : Vlt → Vlt) (c : Chip) : (c.modVlt f).host = c.host := rfl
@[simp] theorem modVlt_can (f : Vlt → Vlt) (c : Chip) : (c.modVlt f).can = c.can := rfl
@[simp] theorem modVlt_tw (f : Vlt → Vlt) (c : Chip) : (c.modVlt f).tw = c.tw := rfl
@[simp] theorem modVlt_twm (f : Vlt → Vlt) (c : Chip) : (c.modVlt f).twm = c.twm := rfl
@[simp] theorem modVlt_tag (f : Vlt → Vlt) (c : Chip) : (c.modVlt f).tag = c.tag := rfl
@[simp] theorem modVlt_rgr (f : Vlt → Vlt) (c : Chip) : (c.modVlt f).rgr = c.rgr := rfl
@[simp] theorem modVlt_start (f : Vlt → Vlt) (c : Chip) : (c.modVlt f).start = c.start := rfl
@[simp] theorem modVlt_dbg (f : Vlt → Vlt) (c : Chip) : (c.modVlt f).dbg = c.dbg := rfl
@[simp] theorem modVlt_vit (f : Vlt → Vlt) (c : Chip) : (c.modVlt f).vit = c.vit := rfl
@[simp] theorem modVlt_bus (f : Vlt → Vlt) (c : Chip) : (c.modVlt f).bus = c.bus := rfl
@[simp] theorem modVlt_gpio (f : Vlt → Vlt) (c : Chip) : (c.modVlt f).gpio = c.gpio := rfl
@[simp] theorem modVlt_asks (f : Vlt → Vlt) (c : Chip) : (c.modVlt f).asks = c.asks := rfl

/-! `modTrn` changes `trn` alone. -/
@[simp] theorem modTrn_trn (f : Trn → Trn) (c : Chip) : (c.modTrn f).trn = f c.trn := rfl
@[simp] theorem modTrn_clk (f : Trn → Trn) (c : Chip) : (c.modTrn f).clk = c.clk := rfl
@[simp] theorem modTrn_mem (f : Trn → Trn) (c : Chip) : (c.modTrn f).mem = c.mem := rfl
@[simp] theorem modTrn_otp (f : Trn → Trn) (c : Chip) : (c.modTrn f).otp = c.otp := rfl
@[simp] theorem modTrn_time (f : Trn → Trn) (c : Chip) : (c.modTrn f).time = c.time := rfl
@[simp] theorem modTrn_phase (f : Trn → Trn) (c : Chip) : (c.modTrn f).phase = c.phase := rfl
@[simp] theorem modTrn_acc (f : Trn → Trn) (c : Chip) : (c.modTrn f).acc = c.acc := rfl
@[simp] theorem modTrn_ord (f : Trn → Trn) (c : Chip) : (c.modTrn f).ord = c.ord := rfl
@[simp] theorem modTrn_cns (f : Trn → Trn) (c : Chip) : (c.modTrn f).cns = c.cns := rfl
@[simp] theorem modTrn_vlt (f : Trn → Trn) (c : Chip) : (c.modTrn f).vlt = c.vlt := rfl
@[simp] theorem modTrn_cat (f : Trn → Trn) (c : Chip) : (c.modTrn f).cat = c.cat := rfl
@[simp] theorem modTrn_host (f : Trn → Trn) (c : Chip) : (c.modTrn f).host = c.host := rfl
@[simp] theorem modTrn_can (f : Trn → Trn) (c : Chip) : (c.modTrn f).can = c.can := rfl
@[simp] theorem modTrn_tw (f : Trn → Trn) (c : Chip) : (c.modTrn f).tw = c.tw := rfl
@[simp] theorem modTrn_twm (f : Trn → Trn) (c : Chip) : (c.modTrn f).twm = c.twm := rfl
@[simp] theorem modTrn_tag (f : Trn → Trn) (c : Chip) : (c.modTrn f).tag = c.tag := rfl
@[simp] theorem modTrn_rgr (f : Trn → Trn) (c : Chip) : (c.modTrn f).rgr = c.rgr := rfl
@[simp] theorem modTrn_start (f : Trn → Trn) (c : Chip) : (c.modTrn f).start = c.start := rfl
@[simp] theorem modTrn_dbg (f : Trn → Trn) (c : Chip) : (c.modTrn f).dbg = c.dbg := rfl
@[simp] theorem modTrn_vit (f : Trn → Trn) (c : Chip) : (c.modTrn f).vit = c.vit := rfl
@[simp] theorem modTrn_bus (f : Trn → Trn) (c : Chip) : (c.modTrn f).bus = c.bus := rfl
@[simp] theorem modTrn_gpio (f : Trn → Trn) (c : Chip) : (c.modTrn f).gpio = c.gpio := rfl
@[simp] theorem modTrn_asks (f : Trn → Trn) (c : Chip) : (c.modTrn f).asks = c.asks := rfl

/-! `modCat` changes `cat` alone. -/
@[simp] theorem modCat_cat (f : Cat → Cat) (c : Chip) : (c.modCat f).cat = f c.cat := rfl
@[simp] theorem modCat_clk (f : Cat → Cat) (c : Chip) : (c.modCat f).clk = c.clk := rfl
@[simp] theorem modCat_mem (f : Cat → Cat) (c : Chip) : (c.modCat f).mem = c.mem := rfl
@[simp] theorem modCat_otp (f : Cat → Cat) (c : Chip) : (c.modCat f).otp = c.otp := rfl
@[simp] theorem modCat_time (f : Cat → Cat) (c : Chip) : (c.modCat f).time = c.time := rfl
@[simp] theorem modCat_phase (f : Cat → Cat) (c : Chip) : (c.modCat f).phase = c.phase := rfl
@[simp] theorem modCat_acc (f : Cat → Cat) (c : Chip) : (c.modCat f).acc = c.acc := rfl
@[simp] theorem modCat_ord (f : Cat → Cat) (c : Chip) : (c.modCat f).ord = c.ord := rfl
@[simp] theorem modCat_cns (f : Cat → Cat) (c : Chip) : (c.modCat f).cns = c.cns := rfl
@[simp] theorem modCat_vlt (f : Cat → Cat) (c : Chip) : (c.modCat f).vlt = c.vlt := rfl
@[simp] theorem modCat_trn (f : Cat → Cat) (c : Chip) : (c.modCat f).trn = c.trn := rfl
@[simp] theorem modCat_host (f : Cat → Cat) (c : Chip) : (c.modCat f).host = c.host := rfl
@[simp] theorem modCat_can (f : Cat → Cat) (c : Chip) : (c.modCat f).can = c.can := rfl
@[simp] theorem modCat_tw (f : Cat → Cat) (c : Chip) : (c.modCat f).tw = c.tw := rfl
@[simp] theorem modCat_twm (f : Cat → Cat) (c : Chip) : (c.modCat f).twm = c.twm := rfl
@[simp] theorem modCat_tag (f : Cat → Cat) (c : Chip) : (c.modCat f).tag = c.tag := rfl
@[simp] theorem modCat_rgr (f : Cat → Cat) (c : Chip) : (c.modCat f).rgr = c.rgr := rfl
@[simp] theorem modCat_start (f : Cat → Cat) (c : Chip) : (c.modCat f).start = c.start := rfl
@[simp] theorem modCat_dbg (f : Cat → Cat) (c : Chip) : (c.modCat f).dbg = c.dbg := rfl
@[simp] theorem modCat_vit (f : Cat → Cat) (c : Chip) : (c.modCat f).vit = c.vit := rfl
@[simp] theorem modCat_bus (f : Cat → Cat) (c : Chip) : (c.modCat f).bus = c.bus := rfl
@[simp] theorem modCat_gpio (f : Cat → Cat) (c : Chip) : (c.modCat f).gpio = c.gpio := rfl
@[simp] theorem modCat_asks (f : Cat → Cat) (c : Chip) : (c.modCat f).asks = c.asks := rfl

/-! `modHost` changes `host` alone. -/
@[simp] theorem modHost_host (f : HostPort → HostPort) (c : Chip) : (c.modHost f).host = f c.host := rfl
@[simp] theorem modHost_clk (f : HostPort → HostPort) (c : Chip) : (c.modHost f).clk = c.clk := rfl
@[simp] theorem modHost_mem (f : HostPort → HostPort) (c : Chip) : (c.modHost f).mem = c.mem := rfl
@[simp] theorem modHost_otp (f : HostPort → HostPort) (c : Chip) : (c.modHost f).otp = c.otp := rfl
@[simp] theorem modHost_time (f : HostPort → HostPort) (c : Chip) : (c.modHost f).time = c.time := rfl
@[simp] theorem modHost_phase (f : HostPort → HostPort) (c : Chip) : (c.modHost f).phase = c.phase := rfl
@[simp] theorem modHost_acc (f : HostPort → HostPort) (c : Chip) : (c.modHost f).acc = c.acc := rfl
@[simp] theorem modHost_ord (f : HostPort → HostPort) (c : Chip) : (c.modHost f).ord = c.ord := rfl
@[simp] theorem modHost_cns (f : HostPort → HostPort) (c : Chip) : (c.modHost f).cns = c.cns := rfl
@[simp] theorem modHost_vlt (f : HostPort → HostPort) (c : Chip) : (c.modHost f).vlt = c.vlt := rfl
@[simp] theorem modHost_trn (f : HostPort → HostPort) (c : Chip) : (c.modHost f).trn = c.trn := rfl
@[simp] theorem modHost_cat (f : HostPort → HostPort) (c : Chip) : (c.modHost f).cat = c.cat := rfl
@[simp] theorem modHost_can (f : HostPort → HostPort) (c : Chip) : (c.modHost f).can = c.can := rfl
@[simp] theorem modHost_tw (f : HostPort → HostPort) (c : Chip) : (c.modHost f).tw = c.tw := rfl
@[simp] theorem modHost_twm (f : HostPort → HostPort) (c : Chip) : (c.modHost f).twm = c.twm := rfl
@[simp] theorem modHost_tag (f : HostPort → HostPort) (c : Chip) : (c.modHost f).tag = c.tag := rfl
@[simp] theorem modHost_rgr (f : HostPort → HostPort) (c : Chip) : (c.modHost f).rgr = c.rgr := rfl
@[simp] theorem modHost_start (f : HostPort → HostPort) (c : Chip) : (c.modHost f).start = c.start := rfl
@[simp] theorem modHost_dbg (f : HostPort → HostPort) (c : Chip) : (c.modHost f).dbg = c.dbg := rfl
@[simp] theorem modHost_vit (f : HostPort → HostPort) (c : Chip) : (c.modHost f).vit = c.vit := rfl
@[simp] theorem modHost_bus (f : HostPort → HostPort) (c : Chip) : (c.modHost f).bus = c.bus := rfl
@[simp] theorem modHost_gpio (f : HostPort → HostPort) (c : Chip) : (c.modHost f).gpio = c.gpio := rfl
@[simp] theorem modHost_asks (f : HostPort → HostPort) (c : Chip) : (c.modHost f).asks = c.asks := rfl

/-! `modCan` changes `can` alone. -/
@[simp] theorem modCan_can (f : Can → Can) (c : Chip) : (c.modCan f).can = f c.can := rfl
@[simp] theorem modCan_clk (f : Can → Can) (c : Chip) : (c.modCan f).clk = c.clk := rfl
@[simp] theorem modCan_mem (f : Can → Can) (c : Chip) : (c.modCan f).mem = c.mem := rfl
@[simp] theorem modCan_otp (f : Can → Can) (c : Chip) : (c.modCan f).otp = c.otp := rfl
@[simp] theorem modCan_time (f : Can → Can) (c : Chip) : (c.modCan f).time = c.time := rfl
@[simp] theorem modCan_phase (f : Can → Can) (c : Chip) : (c.modCan f).phase = c.phase := rfl
@[simp] theorem modCan_acc (f : Can → Can) (c : Chip) : (c.modCan f).acc = c.acc := rfl
@[simp] theorem modCan_ord (f : Can → Can) (c : Chip) : (c.modCan f).ord = c.ord := rfl
@[simp] theorem modCan_cns (f : Can → Can) (c : Chip) : (c.modCan f).cns = c.cns := rfl
@[simp] theorem modCan_vlt (f : Can → Can) (c : Chip) : (c.modCan f).vlt = c.vlt := rfl
@[simp] theorem modCan_trn (f : Can → Can) (c : Chip) : (c.modCan f).trn = c.trn := rfl
@[simp] theorem modCan_cat (f : Can → Can) (c : Chip) : (c.modCan f).cat = c.cat := rfl
@[simp] theorem modCan_host (f : Can → Can) (c : Chip) : (c.modCan f).host = c.host := rfl
@[simp] theorem modCan_tw (f : Can → Can) (c : Chip) : (c.modCan f).tw = c.tw := rfl
@[simp] theorem modCan_twm (f : Can → Can) (c : Chip) : (c.modCan f).twm = c.twm := rfl
@[simp] theorem modCan_tag (f : Can → Can) (c : Chip) : (c.modCan f).tag = c.tag := rfl
@[simp] theorem modCan_rgr (f : Can → Can) (c : Chip) : (c.modCan f).rgr = c.rgr := rfl
@[simp] theorem modCan_start (f : Can → Can) (c : Chip) : (c.modCan f).start = c.start := rfl
@[simp] theorem modCan_dbg (f : Can → Can) (c : Chip) : (c.modCan f).dbg = c.dbg := rfl
@[simp] theorem modCan_vit (f : Can → Can) (c : Chip) : (c.modCan f).vit = c.vit := rfl
@[simp] theorem modCan_bus (f : Can → Can) (c : Chip) : (c.modCan f).bus = c.bus := rfl
@[simp] theorem modCan_gpio (f : Can → Can) (c : Chip) : (c.modCan f).gpio = c.gpio := rfl
@[simp] theorem modCan_asks (f : Can → Can) (c : Chip) : (c.modCan f).asks = c.asks := rfl

/-! `modTw` changes `tw` alone. -/
@[simp] theorem modTw_tw (f : TwoWire → TwoWire) (c : Chip) : (c.modTw f).tw = f c.tw := rfl
@[simp] theorem modTw_clk (f : TwoWire → TwoWire) (c : Chip) : (c.modTw f).clk = c.clk := rfl
@[simp] theorem modTw_mem (f : TwoWire → TwoWire) (c : Chip) : (c.modTw f).mem = c.mem := rfl
@[simp] theorem modTw_otp (f : TwoWire → TwoWire) (c : Chip) : (c.modTw f).otp = c.otp := rfl
@[simp] theorem modTw_time (f : TwoWire → TwoWire) (c : Chip) : (c.modTw f).time = c.time := rfl
@[simp] theorem modTw_phase (f : TwoWire → TwoWire) (c : Chip) : (c.modTw f).phase = c.phase := rfl
@[simp] theorem modTw_acc (f : TwoWire → TwoWire) (c : Chip) : (c.modTw f).acc = c.acc := rfl
@[simp] theorem modTw_ord (f : TwoWire → TwoWire) (c : Chip) : (c.modTw f).ord = c.ord := rfl
@[simp] theorem modTw_cns (f : TwoWire → TwoWire) (c : Chip) : (c.modTw f).cns = c.cns := rfl
@[simp] theorem modTw_vlt (f : TwoWire → TwoWire) (c : Chip) : (c.modTw f).vlt = c.vlt := rfl
@[simp] theorem modTw_trn (f : TwoWire → TwoWire) (c : Chip) : (c.modTw f).trn = c.trn := rfl
@[simp] theorem modTw_cat (f : TwoWire → TwoWire) (c : Chip) : (c.modTw f).cat = c.cat := rfl
@[simp] theorem modTw_host (f : TwoWire → TwoWire) (c : Chip) : (c.modTw f).host = c.host := rfl
@[simp] theorem modTw_can (f : TwoWire → TwoWire) (c : Chip) : (c.modTw f).can = c.can := rfl
@[simp] theorem modTw_twm (f : TwoWire → TwoWire) (c : Chip) : (c.modTw f).twm = c.twm := rfl
@[simp] theorem modTw_tag (f : TwoWire → TwoWire) (c : Chip) : (c.modTw f).tag = c.tag := rfl
@[simp] theorem modTw_rgr (f : TwoWire → TwoWire) (c : Chip) : (c.modTw f).rgr = c.rgr := rfl
@[simp] theorem modTw_start (f : TwoWire → TwoWire) (c : Chip) : (c.modTw f).start = c.start := rfl
@[simp] theorem modTw_dbg (f : TwoWire → TwoWire) (c : Chip) : (c.modTw f).dbg = c.dbg := rfl
@[simp] theorem modTw_vit (f : TwoWire → TwoWire) (c : Chip) : (c.modTw f).vit = c.vit := rfl
@[simp] theorem modTw_bus (f : TwoWire → TwoWire) (c : Chip) : (c.modTw f).bus = c.bus := rfl
@[simp] theorem modTw_gpio (f : TwoWire → TwoWire) (c : Chip) : (c.modTw f).gpio = c.gpio := rfl
@[simp] theorem modTw_asks (f : TwoWire → TwoWire) (c : Chip) : (c.modTw f).asks = c.asks := rfl

/-! `modTwm` changes `twm` alone. -/
@[simp] theorem modTwm_twm (f : Twm → Twm) (c : Chip) : (c.modTwm f).twm = f c.twm := rfl
@[simp] theorem modTwm_clk (f : Twm → Twm) (c : Chip) : (c.modTwm f).clk = c.clk := rfl
@[simp] theorem modTwm_mem (f : Twm → Twm) (c : Chip) : (c.modTwm f).mem = c.mem := rfl
@[simp] theorem modTwm_otp (f : Twm → Twm) (c : Chip) : (c.modTwm f).otp = c.otp := rfl
@[simp] theorem modTwm_time (f : Twm → Twm) (c : Chip) : (c.modTwm f).time = c.time := rfl
@[simp] theorem modTwm_phase (f : Twm → Twm) (c : Chip) : (c.modTwm f).phase = c.phase := rfl
@[simp] theorem modTwm_acc (f : Twm → Twm) (c : Chip) : (c.modTwm f).acc = c.acc := rfl
@[simp] theorem modTwm_ord (f : Twm → Twm) (c : Chip) : (c.modTwm f).ord = c.ord := rfl
@[simp] theorem modTwm_cns (f : Twm → Twm) (c : Chip) : (c.modTwm f).cns = c.cns := rfl
@[simp] theorem modTwm_vlt (f : Twm → Twm) (c : Chip) : (c.modTwm f).vlt = c.vlt := rfl
@[simp] theorem modTwm_trn (f : Twm → Twm) (c : Chip) : (c.modTwm f).trn = c.trn := rfl
@[simp] theorem modTwm_cat (f : Twm → Twm) (c : Chip) : (c.modTwm f).cat = c.cat := rfl
@[simp] theorem modTwm_host (f : Twm → Twm) (c : Chip) : (c.modTwm f).host = c.host := rfl
@[simp] theorem modTwm_can (f : Twm → Twm) (c : Chip) : (c.modTwm f).can = c.can := rfl
@[simp] theorem modTwm_tw (f : Twm → Twm) (c : Chip) : (c.modTwm f).tw = c.tw := rfl
@[simp] theorem modTwm_tag (f : Twm → Twm) (c : Chip) : (c.modTwm f).tag = c.tag := rfl
@[simp] theorem modTwm_rgr (f : Twm → Twm) (c : Chip) : (c.modTwm f).rgr = c.rgr := rfl
@[simp] theorem modTwm_start (f : Twm → Twm) (c : Chip) : (c.modTwm f).start = c.start := rfl
@[simp] theorem modTwm_dbg (f : Twm → Twm) (c : Chip) : (c.modTwm f).dbg = c.dbg := rfl
@[simp] theorem modTwm_vit (f : Twm → Twm) (c : Chip) : (c.modTwm f).vit = c.vit := rfl
@[simp] theorem modTwm_bus (f : Twm → Twm) (c : Chip) : (c.modTwm f).bus = c.bus := rfl
@[simp] theorem modTwm_gpio (f : Twm → Twm) (c : Chip) : (c.modTwm f).gpio = c.gpio := rfl
@[simp] theorem modTwm_asks (f : Twm → Twm) (c : Chip) : (c.modTwm f).asks = c.asks := rfl

/-! `modTag` changes `tag` alone. -/
@[simp] theorem modTag_tag (f : Tag → Tag) (c : Chip) : (c.modTag f).tag = f c.tag := rfl
@[simp] theorem modTag_clk (f : Tag → Tag) (c : Chip) : (c.modTag f).clk = c.clk := rfl
@[simp] theorem modTag_mem (f : Tag → Tag) (c : Chip) : (c.modTag f).mem = c.mem := rfl
@[simp] theorem modTag_otp (f : Tag → Tag) (c : Chip) : (c.modTag f).otp = c.otp := rfl
@[simp] theorem modTag_time (f : Tag → Tag) (c : Chip) : (c.modTag f).time = c.time := rfl
@[simp] theorem modTag_phase (f : Tag → Tag) (c : Chip) : (c.modTag f).phase = c.phase := rfl
@[simp] theorem modTag_acc (f : Tag → Tag) (c : Chip) : (c.modTag f).acc = c.acc := rfl
@[simp] theorem modTag_ord (f : Tag → Tag) (c : Chip) : (c.modTag f).ord = c.ord := rfl
@[simp] theorem modTag_cns (f : Tag → Tag) (c : Chip) : (c.modTag f).cns = c.cns := rfl
@[simp] theorem modTag_vlt (f : Tag → Tag) (c : Chip) : (c.modTag f).vlt = c.vlt := rfl
@[simp] theorem modTag_trn (f : Tag → Tag) (c : Chip) : (c.modTag f).trn = c.trn := rfl
@[simp] theorem modTag_cat (f : Tag → Tag) (c : Chip) : (c.modTag f).cat = c.cat := rfl
@[simp] theorem modTag_host (f : Tag → Tag) (c : Chip) : (c.modTag f).host = c.host := rfl
@[simp] theorem modTag_can (f : Tag → Tag) (c : Chip) : (c.modTag f).can = c.can := rfl
@[simp] theorem modTag_tw (f : Tag → Tag) (c : Chip) : (c.modTag f).tw = c.tw := rfl
@[simp] theorem modTag_twm (f : Tag → Tag) (c : Chip) : (c.modTag f).twm = c.twm := rfl
@[simp] theorem modTag_rgr (f : Tag → Tag) (c : Chip) : (c.modTag f).rgr = c.rgr := rfl
@[simp] theorem modTag_start (f : Tag → Tag) (c : Chip) : (c.modTag f).start = c.start := rfl
@[simp] theorem modTag_dbg (f : Tag → Tag) (c : Chip) : (c.modTag f).dbg = c.dbg := rfl
@[simp] theorem modTag_vit (f : Tag → Tag) (c : Chip) : (c.modTag f).vit = c.vit := rfl
@[simp] theorem modTag_bus (f : Tag → Tag) (c : Chip) : (c.modTag f).bus = c.bus := rfl
@[simp] theorem modTag_gpio (f : Tag → Tag) (c : Chip) : (c.modTag f).gpio = c.gpio := rfl
@[simp] theorem modTag_asks (f : Tag → Tag) (c : Chip) : (c.modTag f).asks = c.asks := rfl

/-! `modRgr` changes `rgr` alone. -/
@[simp] theorem modRgr_rgr (f : Rgr → Rgr) (c : Chip) : (c.modRgr f).rgr = f c.rgr := rfl
@[simp] theorem modRgr_clk (f : Rgr → Rgr) (c : Chip) : (c.modRgr f).clk = c.clk := rfl
@[simp] theorem modRgr_mem (f : Rgr → Rgr) (c : Chip) : (c.modRgr f).mem = c.mem := rfl
@[simp] theorem modRgr_otp (f : Rgr → Rgr) (c : Chip) : (c.modRgr f).otp = c.otp := rfl
@[simp] theorem modRgr_time (f : Rgr → Rgr) (c : Chip) : (c.modRgr f).time = c.time := rfl
@[simp] theorem modRgr_phase (f : Rgr → Rgr) (c : Chip) : (c.modRgr f).phase = c.phase := rfl
@[simp] theorem modRgr_acc (f : Rgr → Rgr) (c : Chip) : (c.modRgr f).acc = c.acc := rfl
@[simp] theorem modRgr_ord (f : Rgr → Rgr) (c : Chip) : (c.modRgr f).ord = c.ord := rfl
@[simp] theorem modRgr_cns (f : Rgr → Rgr) (c : Chip) : (c.modRgr f).cns = c.cns := rfl
@[simp] theorem modRgr_vlt (f : Rgr → Rgr) (c : Chip) : (c.modRgr f).vlt = c.vlt := rfl
@[simp] theorem modRgr_trn (f : Rgr → Rgr) (c : Chip) : (c.modRgr f).trn = c.trn := rfl
@[simp] theorem modRgr_cat (f : Rgr → Rgr) (c : Chip) : (c.modRgr f).cat = c.cat := rfl
@[simp] theorem modRgr_host (f : Rgr → Rgr) (c : Chip) : (c.modRgr f).host = c.host := rfl
@[simp] theorem modRgr_can (f : Rgr → Rgr) (c : Chip) : (c.modRgr f).can = c.can := rfl
@[simp] theorem modRgr_tw (f : Rgr → Rgr) (c : Chip) : (c.modRgr f).tw = c.tw := rfl
@[simp] theorem modRgr_twm (f : Rgr → Rgr) (c : Chip) : (c.modRgr f).twm = c.twm := rfl
@[simp] theorem modRgr_tag (f : Rgr → Rgr) (c : Chip) : (c.modRgr f).tag = c.tag := rfl
@[simp] theorem modRgr_start (f : Rgr → Rgr) (c : Chip) : (c.modRgr f).start = c.start := rfl
@[simp] theorem modRgr_dbg (f : Rgr → Rgr) (c : Chip) : (c.modRgr f).dbg = c.dbg := rfl
@[simp] theorem modRgr_vit (f : Rgr → Rgr) (c : Chip) : (c.modRgr f).vit = c.vit := rfl
@[simp] theorem modRgr_bus (f : Rgr → Rgr) (c : Chip) : (c.modRgr f).bus = c.bus := rfl
@[simp] theorem modRgr_gpio (f : Rgr → Rgr) (c : Chip) : (c.modRgr f).gpio = c.gpio := rfl
@[simp] theorem modRgr_asks (f : Rgr → Rgr) (c : Chip) : (c.modRgr f).asks = c.asks := rfl

/-! `modStart` changes `start` alone. -/
@[simp] theorem modStart_start (f : Start → Start) (c : Chip) : (c.modStart f).start = f c.start := rfl
@[simp] theorem modStart_clk (f : Start → Start) (c : Chip) : (c.modStart f).clk = c.clk := rfl
@[simp] theorem modStart_mem (f : Start → Start) (c : Chip) : (c.modStart f).mem = c.mem := rfl
@[simp] theorem modStart_otp (f : Start → Start) (c : Chip) : (c.modStart f).otp = c.otp := rfl
@[simp] theorem modStart_time (f : Start → Start) (c : Chip) : (c.modStart f).time = c.time := rfl
@[simp] theorem modStart_phase (f : Start → Start) (c : Chip) : (c.modStart f).phase = c.phase := rfl
@[simp] theorem modStart_acc (f : Start → Start) (c : Chip) : (c.modStart f).acc = c.acc := rfl
@[simp] theorem modStart_ord (f : Start → Start) (c : Chip) : (c.modStart f).ord = c.ord := rfl
@[simp] theorem modStart_cns (f : Start → Start) (c : Chip) : (c.modStart f).cns = c.cns := rfl
@[simp] theorem modStart_vlt (f : Start → Start) (c : Chip) : (c.modStart f).vlt = c.vlt := rfl
@[simp] theorem modStart_trn (f : Start → Start) (c : Chip) : (c.modStart f).trn = c.trn := rfl
@[simp] theorem modStart_cat (f : Start → Start) (c : Chip) : (c.modStart f).cat = c.cat := rfl
@[simp] theorem modStart_host (f : Start → Start) (c : Chip) : (c.modStart f).host = c.host := rfl
@[simp] theorem modStart_can (f : Start → Start) (c : Chip) : (c.modStart f).can = c.can := rfl
@[simp] theorem modStart_tw (f : Start → Start) (c : Chip) : (c.modStart f).tw = c.tw := rfl
@[simp] theorem modStart_twm (f : Start → Start) (c : Chip) : (c.modStart f).twm = c.twm := rfl
@[simp] theorem modStart_tag (f : Start → Start) (c : Chip) : (c.modStart f).tag = c.tag := rfl
@[simp] theorem modStart_rgr (f : Start → Start) (c : Chip) : (c.modStart f).rgr = c.rgr := rfl
@[simp] theorem modStart_dbg (f : Start → Start) (c : Chip) : (c.modStart f).dbg = c.dbg := rfl
@[simp] theorem modStart_vit (f : Start → Start) (c : Chip) : (c.modStart f).vit = c.vit := rfl
@[simp] theorem modStart_bus (f : Start → Start) (c : Chip) : (c.modStart f).bus = c.bus := rfl
@[simp] theorem modStart_gpio (f : Start → Start) (c : Chip) : (c.modStart f).gpio = c.gpio := rfl
@[simp] theorem modStart_asks (f : Start → Start) (c : Chip) : (c.modStart f).asks = c.asks := rfl

/-! `modDbg` changes `dbg` alone. -/
@[simp] theorem modDbg_dbg (f : Dbg → Dbg) (c : Chip) : (c.modDbg f).dbg = f c.dbg := rfl
@[simp] theorem modDbg_clk (f : Dbg → Dbg) (c : Chip) : (c.modDbg f).clk = c.clk := rfl
@[simp] theorem modDbg_mem (f : Dbg → Dbg) (c : Chip) : (c.modDbg f).mem = c.mem := rfl
@[simp] theorem modDbg_otp (f : Dbg → Dbg) (c : Chip) : (c.modDbg f).otp = c.otp := rfl
@[simp] theorem modDbg_time (f : Dbg → Dbg) (c : Chip) : (c.modDbg f).time = c.time := rfl
@[simp] theorem modDbg_phase (f : Dbg → Dbg) (c : Chip) : (c.modDbg f).phase = c.phase := rfl
@[simp] theorem modDbg_acc (f : Dbg → Dbg) (c : Chip) : (c.modDbg f).acc = c.acc := rfl
@[simp] theorem modDbg_ord (f : Dbg → Dbg) (c : Chip) : (c.modDbg f).ord = c.ord := rfl
@[simp] theorem modDbg_cns (f : Dbg → Dbg) (c : Chip) : (c.modDbg f).cns = c.cns := rfl
@[simp] theorem modDbg_vlt (f : Dbg → Dbg) (c : Chip) : (c.modDbg f).vlt = c.vlt := rfl
@[simp] theorem modDbg_trn (f : Dbg → Dbg) (c : Chip) : (c.modDbg f).trn = c.trn := rfl
@[simp] theorem modDbg_cat (f : Dbg → Dbg) (c : Chip) : (c.modDbg f).cat = c.cat := rfl
@[simp] theorem modDbg_host (f : Dbg → Dbg) (c : Chip) : (c.modDbg f).host = c.host := rfl
@[simp] theorem modDbg_can (f : Dbg → Dbg) (c : Chip) : (c.modDbg f).can = c.can := rfl
@[simp] theorem modDbg_tw (f : Dbg → Dbg) (c : Chip) : (c.modDbg f).tw = c.tw := rfl
@[simp] theorem modDbg_twm (f : Dbg → Dbg) (c : Chip) : (c.modDbg f).twm = c.twm := rfl
@[simp] theorem modDbg_tag (f : Dbg → Dbg) (c : Chip) : (c.modDbg f).tag = c.tag := rfl
@[simp] theorem modDbg_rgr (f : Dbg → Dbg) (c : Chip) : (c.modDbg f).rgr = c.rgr := rfl
@[simp] theorem modDbg_start (f : Dbg → Dbg) (c : Chip) : (c.modDbg f).start = c.start := rfl
@[simp] theorem modDbg_vit (f : Dbg → Dbg) (c : Chip) : (c.modDbg f).vit = c.vit := rfl
@[simp] theorem modDbg_bus (f : Dbg → Dbg) (c : Chip) : (c.modDbg f).bus = c.bus := rfl
@[simp] theorem modDbg_gpio (f : Dbg → Dbg) (c : Chip) : (c.modDbg f).gpio = c.gpio := rfl
@[simp] theorem modDbg_asks (f : Dbg → Dbg) (c : Chip) : (c.modDbg f).asks = c.asks := rfl

/-! `modVit` changes `vit` alone. -/
@[simp] theorem modVit_vit (f : Vit → Vit) (c : Chip) : (c.modVit f).vit = f c.vit := rfl
@[simp] theorem modVit_clk (f : Vit → Vit) (c : Chip) : (c.modVit f).clk = c.clk := rfl
@[simp] theorem modVit_mem (f : Vit → Vit) (c : Chip) : (c.modVit f).mem = c.mem := rfl
@[simp] theorem modVit_otp (f : Vit → Vit) (c : Chip) : (c.modVit f).otp = c.otp := rfl
@[simp] theorem modVit_time (f : Vit → Vit) (c : Chip) : (c.modVit f).time = c.time := rfl
@[simp] theorem modVit_phase (f : Vit → Vit) (c : Chip) : (c.modVit f).phase = c.phase := rfl
@[simp] theorem modVit_acc (f : Vit → Vit) (c : Chip) : (c.modVit f).acc = c.acc := rfl
@[simp] theorem modVit_ord (f : Vit → Vit) (c : Chip) : (c.modVit f).ord = c.ord := rfl
@[simp] theorem modVit_cns (f : Vit → Vit) (c : Chip) : (c.modVit f).cns = c.cns := rfl
@[simp] theorem modVit_vlt (f : Vit → Vit) (c : Chip) : (c.modVit f).vlt = c.vlt := rfl
@[simp] theorem modVit_trn (f : Vit → Vit) (c : Chip) : (c.modVit f).trn = c.trn := rfl
@[simp] theorem modVit_cat (f : Vit → Vit) (c : Chip) : (c.modVit f).cat = c.cat := rfl
@[simp] theorem modVit_host (f : Vit → Vit) (c : Chip) : (c.modVit f).host = c.host := rfl
@[simp] theorem modVit_can (f : Vit → Vit) (c : Chip) : (c.modVit f).can = c.can := rfl
@[simp] theorem modVit_tw (f : Vit → Vit) (c : Chip) : (c.modVit f).tw = c.tw := rfl
@[simp] theorem modVit_twm (f : Vit → Vit) (c : Chip) : (c.modVit f).twm = c.twm := rfl
@[simp] theorem modVit_tag (f : Vit → Vit) (c : Chip) : (c.modVit f).tag = c.tag := rfl
@[simp] theorem modVit_rgr (f : Vit → Vit) (c : Chip) : (c.modVit f).rgr = c.rgr := rfl
@[simp] theorem modVit_start (f : Vit → Vit) (c : Chip) : (c.modVit f).start = c.start := rfl
@[simp] theorem modVit_dbg (f : Vit → Vit) (c : Chip) : (c.modVit f).dbg = c.dbg := rfl
@[simp] theorem modVit_bus (f : Vit → Vit) (c : Chip) : (c.modVit f).bus = c.bus := rfl
@[simp] theorem modVit_gpio (f : Vit → Vit) (c : Chip) : (c.modVit f).gpio = c.gpio := rfl
@[simp] theorem modVit_asks (f : Vit → Vit) (c : Chip) : (c.modVit f).asks = c.asks := rfl

/-! `modBus` changes `bus` alone. -/
@[simp] theorem modBus_bus (f : BusBufs → BusBufs) (c : Chip) : (c.modBus f).bus = f c.bus := rfl
@[simp] theorem modBus_clk (f : BusBufs → BusBufs) (c : Chip) : (c.modBus f).clk = c.clk := rfl
@[simp] theorem modBus_mem (f : BusBufs → BusBufs) (c : Chip) : (c.modBus f).mem = c.mem := rfl
@[simp] theorem modBus_otp (f : BusBufs → BusBufs) (c : Chip) : (c.modBus f).otp = c.otp := rfl
@[simp] theorem modBus_time (f : BusBufs → BusBufs) (c : Chip) : (c.modBus f).time = c.time := rfl
@[simp] theorem modBus_phase (f : BusBufs → BusBufs) (c : Chip) : (c.modBus f).phase = c.phase := rfl
@[simp] theorem modBus_acc (f : BusBufs → BusBufs) (c : Chip) : (c.modBus f).acc = c.acc := rfl
@[simp] theorem modBus_ord (f : BusBufs → BusBufs) (c : Chip) : (c.modBus f).ord = c.ord := rfl
@[simp] theorem modBus_cns (f : BusBufs → BusBufs) (c : Chip) : (c.modBus f).cns = c.cns := rfl
@[simp] theorem modBus_vlt (f : BusBufs → BusBufs) (c : Chip) : (c.modBus f).vlt = c.vlt := rfl
@[simp] theorem modBus_trn (f : BusBufs → BusBufs) (c : Chip) : (c.modBus f).trn = c.trn := rfl
@[simp] theorem modBus_cat (f : BusBufs → BusBufs) (c : Chip) : (c.modBus f).cat = c.cat := rfl
@[simp] theorem modBus_host (f : BusBufs → BusBufs) (c : Chip) : (c.modBus f).host = c.host := rfl
@[simp] theorem modBus_can (f : BusBufs → BusBufs) (c : Chip) : (c.modBus f).can = c.can := rfl
@[simp] theorem modBus_tw (f : BusBufs → BusBufs) (c : Chip) : (c.modBus f).tw = c.tw := rfl
@[simp] theorem modBus_twm (f : BusBufs → BusBufs) (c : Chip) : (c.modBus f).twm = c.twm := rfl
@[simp] theorem modBus_tag (f : BusBufs → BusBufs) (c : Chip) : (c.modBus f).tag = c.tag := rfl
@[simp] theorem modBus_rgr (f : BusBufs → BusBufs) (c : Chip) : (c.modBus f).rgr = c.rgr := rfl
@[simp] theorem modBus_start (f : BusBufs → BusBufs) (c : Chip) : (c.modBus f).start = c.start := rfl
@[simp] theorem modBus_dbg (f : BusBufs → BusBufs) (c : Chip) : (c.modBus f).dbg = c.dbg := rfl
@[simp] theorem modBus_vit (f : BusBufs → BusBufs) (c : Chip) : (c.modBus f).vit = c.vit := rfl
@[simp] theorem modBus_gpio (f : BusBufs → BusBufs) (c : Chip) : (c.modBus f).gpio = c.gpio := rfl
@[simp] theorem modBus_asks (f : BusBufs → BusBufs) (c : Chip) : (c.modBus f).asks = c.asks := rfl

/-! `modGpio` changes `gpio` alone. -/
@[simp] theorem modGpio_gpio (f : Gpio → Gpio) (c : Chip) : (c.modGpio f).gpio = f c.gpio := rfl
@[simp] theorem modGpio_clk (f : Gpio → Gpio) (c : Chip) : (c.modGpio f).clk = c.clk := rfl
@[simp] theorem modGpio_mem (f : Gpio → Gpio) (c : Chip) : (c.modGpio f).mem = c.mem := rfl
@[simp] theorem modGpio_otp (f : Gpio → Gpio) (c : Chip) : (c.modGpio f).otp = c.otp := rfl
@[simp] theorem modGpio_time (f : Gpio → Gpio) (c : Chip) : (c.modGpio f).time = c.time := rfl
@[simp] theorem modGpio_phase (f : Gpio → Gpio) (c : Chip) : (c.modGpio f).phase = c.phase := rfl
@[simp] theorem modGpio_acc (f : Gpio → Gpio) (c : Chip) : (c.modGpio f).acc = c.acc := rfl
@[simp] theorem modGpio_ord (f : Gpio → Gpio) (c : Chip) : (c.modGpio f).ord = c.ord := rfl
@[simp] theorem modGpio_cns (f : Gpio → Gpio) (c : Chip) : (c.modGpio f).cns = c.cns := rfl
@[simp] theorem modGpio_vlt (f : Gpio → Gpio) (c : Chip) : (c.modGpio f).vlt = c.vlt := rfl
@[simp] theorem modGpio_trn (f : Gpio → Gpio) (c : Chip) : (c.modGpio f).trn = c.trn := rfl
@[simp] theorem modGpio_cat (f : Gpio → Gpio) (c : Chip) : (c.modGpio f).cat = c.cat := rfl
@[simp] theorem modGpio_host (f : Gpio → Gpio) (c : Chip) : (c.modGpio f).host = c.host := rfl
@[simp] theorem modGpio_can (f : Gpio → Gpio) (c : Chip) : (c.modGpio f).can = c.can := rfl
@[simp] theorem modGpio_tw (f : Gpio → Gpio) (c : Chip) : (c.modGpio f).tw = c.tw := rfl
@[simp] theorem modGpio_twm (f : Gpio → Gpio) (c : Chip) : (c.modGpio f).twm = c.twm := rfl
@[simp] theorem modGpio_tag (f : Gpio → Gpio) (c : Chip) : (c.modGpio f).tag = c.tag := rfl
@[simp] theorem modGpio_rgr (f : Gpio → Gpio) (c : Chip) : (c.modGpio f).rgr = c.rgr := rfl
@[simp] theorem modGpio_start (f : Gpio → Gpio) (c : Chip) : (c.modGpio f).start = c.start := rfl
@[simp] theorem modGpio_dbg (f : Gpio → Gpio) (c : Chip) : (c.modGpio f).dbg = c.dbg := rfl
@[simp] theorem modGpio_vit (f : Gpio → Gpio) (c : Chip) : (c.modGpio f).vit = c.vit := rfl
@[simp] theorem modGpio_bus (f : Gpio → Gpio) (c : Chip) : (c.modGpio f).bus = c.bus := rfl
@[simp] theorem modGpio_asks (f : Gpio → Gpio) (c : Chip) : (c.modGpio f).asks = c.asks := rfl

/-! `ask` changes `asks` alone; `when` applies or does not; a seed spent changes `clk` alone. -/
@[simp] theorem ask_asks (a : Ask) (c : Chip) : (c.ask a).asks = c.asks ++ [a] := rfl
@[simp] theorem ask_clk (a : Ask) (c : Chip) : (c.ask a).clk = c.clk := rfl
@[simp] theorem ask_mem (a : Ask) (c : Chip) : (c.ask a).mem = c.mem := rfl
@[simp] theorem ask_otp (a : Ask) (c : Chip) : (c.ask a).otp = c.otp := rfl
@[simp] theorem ask_time (a : Ask) (c : Chip) : (c.ask a).time = c.time := rfl
@[simp] theorem ask_phase (a : Ask) (c : Chip) : (c.ask a).phase = c.phase := rfl
@[simp] theorem ask_acc (a : Ask) (c : Chip) : (c.ask a).acc = c.acc := rfl
@[simp] theorem ask_ord (a : Ask) (c : Chip) : (c.ask a).ord = c.ord := rfl
@[simp] theorem ask_cns (a : Ask) (c : Chip) : (c.ask a).cns = c.cns := rfl
@[simp] theorem ask_vlt (a : Ask) (c : Chip) : (c.ask a).vlt = c.vlt := rfl
@[simp] theorem ask_trn (a : Ask) (c : Chip) : (c.ask a).trn = c.trn := rfl
@[simp] theorem ask_cat (a : Ask) (c : Chip) : (c.ask a).cat = c.cat := rfl
@[simp] theorem ask_host (a : Ask) (c : Chip) : (c.ask a).host = c.host := rfl
@[simp] theorem ask_can (a : Ask) (c : Chip) : (c.ask a).can = c.can := rfl
@[simp] theorem ask_tw (a : Ask) (c : Chip) : (c.ask a).tw = c.tw := rfl
@[simp] theorem ask_twm (a : Ask) (c : Chip) : (c.ask a).twm = c.twm := rfl
@[simp] theorem ask_tag (a : Ask) (c : Chip) : (c.ask a).tag = c.tag := rfl
@[simp] theorem ask_rgr (a : Ask) (c : Chip) : (c.ask a).rgr = c.rgr := rfl
@[simp] theorem ask_start (a : Ask) (c : Chip) : (c.ask a).start = c.start := rfl
@[simp] theorem ask_dbg (a : Ask) (c : Chip) : (c.ask a).dbg = c.dbg := rfl
@[simp] theorem ask_vit (a : Ask) (c : Chip) : (c.ask a).vit = c.vit := rfl
@[simp] theorem ask_bus (a : Ask) (c : Chip) : (c.ask a).bus = c.bus := rfl
@[simp] theorem ask_gpio (a : Ask) (c : Chip) : (c.ask a).gpio = c.gpio := rfl
@[simp] theorem when_true (f : Chip → Chip) (c : Chip) : c.when true f = f c := rfl
@[simp] theorem when_false (f : Chip → Chip) (c : Chip) : c.when false f = c := rfl
@[simp] theorem spend_free (c : Chip) : c.spend.clk.free = c.clk.free + 1 := rfl
@[simp] theorem spend_running (c : Chip) : c.spend.clk.running = c.clk.running := rfl
@[simp] theorem spend_mem (c : Chip) : c.spend.mem = c.mem := rfl
@[simp] theorem spend_otp (c : Chip) : c.spend.otp = c.otp := rfl
@[simp] theorem spend_time (c : Chip) : c.spend.time = c.time := rfl
@[simp] theorem spend_phase (c : Chip) : c.spend.phase = c.phase := rfl
@[simp] theorem spend_acc (c : Chip) : c.spend.acc = c.acc := rfl
@[simp] theorem spend_ord (c : Chip) : c.spend.ord = c.ord := rfl
@[simp] theorem spend_cns (c : Chip) : c.spend.cns = c.cns := rfl
@[simp] theorem spend_vlt (c : Chip) : c.spend.vlt = c.vlt := rfl
@[simp] theorem spend_trn (c : Chip) : c.spend.trn = c.trn := rfl
@[simp] theorem spend_cat (c : Chip) : c.spend.cat = c.cat := rfl
@[simp] theorem spend_host (c : Chip) : c.spend.host = c.host := rfl
@[simp] theorem spend_can (c : Chip) : c.spend.can = c.can := rfl
@[simp] theorem spend_tw (c : Chip) : c.spend.tw = c.tw := rfl
@[simp] theorem spend_twm (c : Chip) : c.spend.twm = c.twm := rfl
@[simp] theorem spend_tag (c : Chip) : c.spend.tag = c.tag := rfl
@[simp] theorem spend_rgr (c : Chip) : c.spend.rgr = c.rgr := rfl
@[simp] theorem spend_start (c : Chip) : c.spend.start = c.start := rfl
@[simp] theorem spend_dbg (c : Chip) : c.spend.dbg = c.dbg := rfl
@[simp] theorem spend_vit (c : Chip) : c.spend.vit = c.vit := rfl
@[simp] theorem spend_bus (c : Chip) : c.spend.bus = c.bus := rfl
@[simp] theorem spend_gpio (c : Chip) : c.spend.gpio = c.gpio := rfl
@[simp] theorem spend_asks (c : Chip) : c.spend.asks = c.asks := rfl

/-! An alert changes `rgr` alone, a found code `start` alone. -/
@[simp] theorem alert_clk (m : Nat) (c : Chip) : (c.alert m).clk = c.clk := rfl
@[simp] theorem alert_mem (m : Nat) (c : Chip) : (c.alert m).mem = c.mem := rfl
@[simp] theorem alert_otp (m : Nat) (c : Chip) : (c.alert m).otp = c.otp := rfl
@[simp] theorem alert_time (m : Nat) (c : Chip) : (c.alert m).time = c.time := rfl
@[simp] theorem alert_phase (m : Nat) (c : Chip) : (c.alert m).phase = c.phase := rfl
@[simp] theorem alert_acc (m : Nat) (c : Chip) : (c.alert m).acc = c.acc := rfl
@[simp] theorem alert_ord (m : Nat) (c : Chip) : (c.alert m).ord = c.ord := rfl
@[simp] theorem alert_cns (m : Nat) (c : Chip) : (c.alert m).cns = c.cns := rfl
@[simp] theorem alert_vlt (m : Nat) (c : Chip) : (c.alert m).vlt = c.vlt := rfl
@[simp] theorem alert_trn (m : Nat) (c : Chip) : (c.alert m).trn = c.trn := rfl
@[simp] theorem alert_cat (m : Nat) (c : Chip) : (c.alert m).cat = c.cat := rfl
@[simp] theorem alert_host (m : Nat) (c : Chip) : (c.alert m).host = c.host := rfl
@[simp] theorem alert_can (m : Nat) (c : Chip) : (c.alert m).can = c.can := rfl
@[simp] theorem alert_tw (m : Nat) (c : Chip) : (c.alert m).tw = c.tw := rfl
@[simp] theorem alert_twm (m : Nat) (c : Chip) : (c.alert m).twm = c.twm := rfl
@[simp] theorem alert_tag (m : Nat) (c : Chip) : (c.alert m).tag = c.tag := rfl
@[simp] theorem alert_start (m : Nat) (c : Chip) : (c.alert m).start = c.start := rfl
@[simp] theorem alert_dbg (m : Nat) (c : Chip) : (c.alert m).dbg = c.dbg := rfl
@[simp] theorem alert_vit (m : Nat) (c : Chip) : (c.alert m).vit = c.vit := rfl
@[simp] theorem alert_bus (m : Nat) (c : Chip) : (c.alert m).bus = c.bus := rfl
@[simp] theorem alert_gpio (m : Nat) (c : Chip) : (c.alert m).gpio = c.gpio := rfl
@[simp] theorem alert_asks (m : Nat) (c : Chip) : (c.alert m).asks = c.asks := rfl
@[simp] theorem noteFinding_clk (m : Nat) (c : Chip) : (c.noteFinding m).clk = c.clk := rfl
@[simp] theorem noteFinding_mem (m : Nat) (c : Chip) : (c.noteFinding m).mem = c.mem := rfl
@[simp] theorem noteFinding_otp (m : Nat) (c : Chip) : (c.noteFinding m).otp = c.otp := rfl
@[simp] theorem noteFinding_time (m : Nat) (c : Chip) : (c.noteFinding m).time = c.time := rfl
@[simp] theorem noteFinding_phase (m : Nat) (c : Chip) : (c.noteFinding m).phase = c.phase := rfl
@[simp] theorem noteFinding_acc (m : Nat) (c : Chip) : (c.noteFinding m).acc = c.acc := rfl
@[simp] theorem noteFinding_ord (m : Nat) (c : Chip) : (c.noteFinding m).ord = c.ord := rfl
@[simp] theorem noteFinding_cns (m : Nat) (c : Chip) : (c.noteFinding m).cns = c.cns := rfl
@[simp] theorem noteFinding_vlt (m : Nat) (c : Chip) : (c.noteFinding m).vlt = c.vlt := rfl
@[simp] theorem noteFinding_trn (m : Nat) (c : Chip) : (c.noteFinding m).trn = c.trn := rfl
@[simp] theorem noteFinding_cat (m : Nat) (c : Chip) : (c.noteFinding m).cat = c.cat := rfl
@[simp] theorem noteFinding_host (m : Nat) (c : Chip) : (c.noteFinding m).host = c.host := rfl
@[simp] theorem noteFinding_can (m : Nat) (c : Chip) : (c.noteFinding m).can = c.can := rfl
@[simp] theorem noteFinding_tw (m : Nat) (c : Chip) : (c.noteFinding m).tw = c.tw := rfl
@[simp] theorem noteFinding_twm (m : Nat) (c : Chip) : (c.noteFinding m).twm = c.twm := rfl
@[simp] theorem noteFinding_tag (m : Nat) (c : Chip) : (c.noteFinding m).tag = c.tag := rfl
@[simp] theorem noteFinding_rgr (m : Nat) (c : Chip) : (c.noteFinding m).rgr = c.rgr := rfl
@[simp] theorem noteFinding_dbg (m : Nat) (c : Chip) : (c.noteFinding m).dbg = c.dbg := rfl
@[simp] theorem noteFinding_vit (m : Nat) (c : Chip) : (c.noteFinding m).vit = c.vit := rfl
@[simp] theorem noteFinding_bus (m : Nat) (c : Chip) : (c.noteFinding m).bus = c.bus := rfl
@[simp] theorem noteFinding_gpio (m : Nat) (c : Chip) : (c.noteFinding m).gpio = c.gpio := rfl
@[simp] theorem noteFinding_asks (m : Nat) (c : Chip) : (c.noteFinding m).asks = c.asks := rfl

/-! A set value changes `cat` alone. -/
@[simp] theorem setVal_clk (i j : Nat) (v : Bytes) (c : Chip) : (c.setVal i j v).clk = c.clk := rfl
@[simp] theorem setVal_mem (i j : Nat) (v : Bytes) (c : Chip) : (c.setVal i j v).mem = c.mem := rfl
@[simp] theorem setVal_otp (i j : Nat) (v : Bytes) (c : Chip) : (c.setVal i j v).otp = c.otp := rfl
@[simp] theorem setVal_time (i j : Nat) (v : Bytes) (c : Chip) : (c.setVal i j v).time = c.time := rfl
@[simp] theorem setVal_phase (i j : Nat) (v : Bytes) (c : Chip) : (c.setVal i j v).phase = c.phase := rfl
@[simp] theorem setVal_acc (i j : Nat) (v : Bytes) (c : Chip) : (c.setVal i j v).acc = c.acc := rfl
@[simp] theorem setVal_ord (i j : Nat) (v : Bytes) (c : Chip) : (c.setVal i j v).ord = c.ord := rfl
@[simp] theorem setVal_cns (i j : Nat) (v : Bytes) (c : Chip) : (c.setVal i j v).cns = c.cns := rfl
@[simp] theorem setVal_vlt (i j : Nat) (v : Bytes) (c : Chip) : (c.setVal i j v).vlt = c.vlt := rfl
@[simp] theorem setVal_trn (i j : Nat) (v : Bytes) (c : Chip) : (c.setVal i j v).trn = c.trn := rfl
@[simp] theorem setVal_host (i j : Nat) (v : Bytes) (c : Chip) : (c.setVal i j v).host = c.host := rfl
@[simp] theorem setVal_can (i j : Nat) (v : Bytes) (c : Chip) : (c.setVal i j v).can = c.can := rfl
@[simp] theorem setVal_tw (i j : Nat) (v : Bytes) (c : Chip) : (c.setVal i j v).tw = c.tw := rfl
@[simp] theorem setVal_twm (i j : Nat) (v : Bytes) (c : Chip) : (c.setVal i j v).twm = c.twm := rfl
@[simp] theorem setVal_tag (i j : Nat) (v : Bytes) (c : Chip) : (c.setVal i j v).tag = c.tag := rfl
@[simp] theorem setVal_rgr (i j : Nat) (v : Bytes) (c : Chip) : (c.setVal i j v).rgr = c.rgr := rfl
@[simp] theorem setVal_start (i j : Nat) (v : Bytes) (c : Chip) : (c.setVal i j v).start = c.start := rfl
@[simp] theorem setVal_dbg (i j : Nat) (v : Bytes) (c : Chip) : (c.setVal i j v).dbg = c.dbg := rfl
@[simp] theorem setVal_vit (i j : Nat) (v : Bytes) (c : Chip) : (c.setVal i j v).vit = c.vit := rfl
@[simp] theorem setVal_bus (i j : Nat) (v : Bytes) (c : Chip) : (c.setVal i j v).bus = c.bus := rfl
@[simp] theorem setVal_gpio (i j : Nat) (v : Bytes) (c : Chip) : (c.setVal i j v).gpio = c.gpio := rfl
@[simp] theorem setVal_asks (i j : Nat) (v : Bytes) (c : Chip) : (c.setVal i j v).asks = c.asks := rfl
@[simp] theorem setNum_clk (i j n : Nat) (c : Chip) : (c.setNum i j n).clk = c.clk := rfl
@[simp] theorem setNum_mem (i j n : Nat) (c : Chip) : (c.setNum i j n).mem = c.mem := rfl
@[simp] theorem setNum_otp (i j n : Nat) (c : Chip) : (c.setNum i j n).otp = c.otp := rfl
@[simp] theorem setNum_time (i j n : Nat) (c : Chip) : (c.setNum i j n).time = c.time := rfl
@[simp] theorem setNum_phase (i j n : Nat) (c : Chip) : (c.setNum i j n).phase = c.phase := rfl
@[simp] theorem setNum_acc (i j n : Nat) (c : Chip) : (c.setNum i j n).acc = c.acc := rfl
@[simp] theorem setNum_ord (i j n : Nat) (c : Chip) : (c.setNum i j n).ord = c.ord := rfl
@[simp] theorem setNum_cns (i j n : Nat) (c : Chip) : (c.setNum i j n).cns = c.cns := rfl
@[simp] theorem setNum_vlt (i j n : Nat) (c : Chip) : (c.setNum i j n).vlt = c.vlt := rfl
@[simp] theorem setNum_trn (i j n : Nat) (c : Chip) : (c.setNum i j n).trn = c.trn := rfl
@[simp] theorem setNum_host (i j n : Nat) (c : Chip) : (c.setNum i j n).host = c.host := rfl
@[simp] theorem setNum_can (i j n : Nat) (c : Chip) : (c.setNum i j n).can = c.can := rfl
@[simp] theorem setNum_tw (i j n : Nat) (c : Chip) : (c.setNum i j n).tw = c.tw := rfl
@[simp] theorem setNum_twm (i j n : Nat) (c : Chip) : (c.setNum i j n).twm = c.twm := rfl
@[simp] theorem setNum_tag (i j n : Nat) (c : Chip) : (c.setNum i j n).tag = c.tag := rfl
@[simp] theorem setNum_rgr (i j n : Nat) (c : Chip) : (c.setNum i j n).rgr = c.rgr := rfl
@[simp] theorem setNum_start (i j n : Nat) (c : Chip) : (c.setNum i j n).start = c.start := rfl
@[simp] theorem setNum_dbg (i j n : Nat) (c : Chip) : (c.setNum i j n).dbg = c.dbg := rfl
@[simp] theorem setNum_vit (i j n : Nat) (c : Chip) : (c.setNum i j n).vit = c.vit := rfl
@[simp] theorem setNum_bus (i j n : Nat) (c : Chip) : (c.setNum i j n).bus = c.bus := rfl
@[simp] theorem setNum_gpio (i j n : Nat) (c : Chip) : (c.setNum i j n).gpio = c.gpio := rfl
@[simp] theorem setNum_asks (i j n : Nat) (c : Chip) : (c.setNum i j n).asks = c.asks := rfl

/-! A record that arises changes `acc` alone; an event with alert bits `acc` and `rgr`. -/
@[simp] theorem ariseRec_clk (k : Nat) (r : Record) (c : Chip) (t : Nat) : (c.ariseRec k r t).clk = c.clk := by
  rfl
@[simp] theorem ariseRec_mem (k : Nat) (r : Record) (c : Chip) (t : Nat) : (c.ariseRec k r t).mem = c.mem := by
  rfl
@[simp] theorem ariseRec_otp (k : Nat) (r : Record) (c : Chip) (t : Nat) : (c.ariseRec k r t).otp = c.otp := by
  rfl
@[simp] theorem ariseRec_time (k : Nat) (r : Record) (c : Chip) (t : Nat) : (c.ariseRec k r t).time = c.time := by
  rfl
@[simp] theorem ariseRec_phase (k : Nat) (r : Record) (c : Chip) (t : Nat) : (c.ariseRec k r t).phase = c.phase := by
  rfl
@[simp] theorem ariseRec_ord (k : Nat) (r : Record) (c : Chip) (t : Nat) : (c.ariseRec k r t).ord = c.ord := by
  rfl
@[simp] theorem ariseRec_cns (k : Nat) (r : Record) (c : Chip) (t : Nat) : (c.ariseRec k r t).cns = c.cns := by
  rfl
@[simp] theorem ariseRec_vlt (k : Nat) (r : Record) (c : Chip) (t : Nat) : (c.ariseRec k r t).vlt = c.vlt := by
  rfl
@[simp] theorem ariseRec_trn (k : Nat) (r : Record) (c : Chip) (t : Nat) : (c.ariseRec k r t).trn = c.trn := by
  rfl
@[simp] theorem ariseRec_cat (k : Nat) (r : Record) (c : Chip) (t : Nat) : (c.ariseRec k r t).cat = c.cat := by
  rfl
@[simp] theorem ariseRec_host (k : Nat) (r : Record) (c : Chip) (t : Nat) : (c.ariseRec k r t).host = c.host := by
  rfl
@[simp] theorem ariseRec_can (k : Nat) (r : Record) (c : Chip) (t : Nat) : (c.ariseRec k r t).can = c.can := by
  rfl
@[simp] theorem ariseRec_tw (k : Nat) (r : Record) (c : Chip) (t : Nat) : (c.ariseRec k r t).tw = c.tw := by
  rfl
@[simp] theorem ariseRec_twm (k : Nat) (r : Record) (c : Chip) (t : Nat) : (c.ariseRec k r t).twm = c.twm := by
  rfl
@[simp] theorem ariseRec_tag (k : Nat) (r : Record) (c : Chip) (t : Nat) : (c.ariseRec k r t).tag = c.tag := by
  rfl
@[simp] theorem ariseRec_rgr (k : Nat) (r : Record) (c : Chip) (t : Nat) : (c.ariseRec k r t).rgr = c.rgr := by
  rfl
@[simp] theorem ariseRec_start (k : Nat) (r : Record) (c : Chip) (t : Nat) : (c.ariseRec k r t).start = c.start := by
  rfl
@[simp] theorem ariseRec_dbg (k : Nat) (r : Record) (c : Chip) (t : Nat) : (c.ariseRec k r t).dbg = c.dbg := by
  rfl
@[simp] theorem ariseRec_vit (k : Nat) (r : Record) (c : Chip) (t : Nat) : (c.ariseRec k r t).vit = c.vit := by
  rfl
@[simp] theorem ariseRec_bus (k : Nat) (r : Record) (c : Chip) (t : Nat) : (c.ariseRec k r t).bus = c.bus := by
  rfl
@[simp] theorem ariseRec_gpio (k : Nat) (r : Record) (c : Chip) (t : Nat) : (c.ariseRec k r t).gpio = c.gpio := by
  rfl
@[simp] theorem ariseRec_asks (k : Nat) (r : Record) (c : Chip) (t : Nat) : (c.ariseRec k r t).asks = c.asks := by
  rfl
@[simp] theorem arise_clk (k a b d : Nat) (c : Chip) : (c.arise k a b d).clk = c.clk := ariseRec_clk ..
@[simp] theorem arise_mem (k a b d : Nat) (c : Chip) : (c.arise k a b d).mem = c.mem := ariseRec_mem ..
@[simp] theorem arise_otp (k a b d : Nat) (c : Chip) : (c.arise k a b d).otp = c.otp := ariseRec_otp ..
@[simp] theorem arise_time (k a b d : Nat) (c : Chip) : (c.arise k a b d).time = c.time := ariseRec_time ..
@[simp] theorem arise_phase (k a b d : Nat) (c : Chip) : (c.arise k a b d).phase = c.phase := ariseRec_phase ..
@[simp] theorem arise_ord (k a b d : Nat) (c : Chip) : (c.arise k a b d).ord = c.ord := ariseRec_ord ..
@[simp] theorem arise_cns (k a b d : Nat) (c : Chip) : (c.arise k a b d).cns = c.cns := ariseRec_cns ..
@[simp] theorem arise_vlt (k a b d : Nat) (c : Chip) : (c.arise k a b d).vlt = c.vlt := ariseRec_vlt ..
@[simp] theorem arise_trn (k a b d : Nat) (c : Chip) : (c.arise k a b d).trn = c.trn := ariseRec_trn ..
@[simp] theorem arise_cat (k a b d : Nat) (c : Chip) : (c.arise k a b d).cat = c.cat := ariseRec_cat ..
@[simp] theorem arise_host (k a b d : Nat) (c : Chip) : (c.arise k a b d).host = c.host := ariseRec_host ..
@[simp] theorem arise_can (k a b d : Nat) (c : Chip) : (c.arise k a b d).can = c.can := ariseRec_can ..
@[simp] theorem arise_tw (k a b d : Nat) (c : Chip) : (c.arise k a b d).tw = c.tw := ariseRec_tw ..
@[simp] theorem arise_twm (k a b d : Nat) (c : Chip) : (c.arise k a b d).twm = c.twm := ariseRec_twm ..
@[simp] theorem arise_tag (k a b d : Nat) (c : Chip) : (c.arise k a b d).tag = c.tag := ariseRec_tag ..
@[simp] theorem arise_rgr (k a b d : Nat) (c : Chip) : (c.arise k a b d).rgr = c.rgr := ariseRec_rgr ..
@[simp] theorem arise_start (k a b d : Nat) (c : Chip) : (c.arise k a b d).start = c.start := ariseRec_start ..
@[simp] theorem arise_dbg (k a b d : Nat) (c : Chip) : (c.arise k a b d).dbg = c.dbg := ariseRec_dbg ..
@[simp] theorem arise_vit (k a b d : Nat) (c : Chip) : (c.arise k a b d).vit = c.vit := ariseRec_vit ..
@[simp] theorem arise_bus (k a b d : Nat) (c : Chip) : (c.arise k a b d).bus = c.bus := ariseRec_bus ..
@[simp] theorem arise_gpio (k a b d : Nat) (c : Chip) : (c.arise k a b d).gpio = c.gpio := ariseRec_gpio ..
@[simp] theorem arise_asks (k a b d : Nat) (c : Chip) : (c.arise k a b d).asks = c.asks := ariseRec_asks ..
@[simp] theorem ariseAt_clk (k a b d : Nat) (st : Dword) (an : Half) (cy q : Byte) (c : Chip) :
    (c.ariseAt k a b d st an cy q).clk = c.clk := ariseRec_clk ..
@[simp] theorem ariseAt_mem (k a b d : Nat) (st : Dword) (an : Half) (cy q : Byte) (c : Chip) :
    (c.ariseAt k a b d st an cy q).mem = c.mem := ariseRec_mem ..
@[simp] theorem ariseAt_otp (k a b d : Nat) (st : Dword) (an : Half) (cy q : Byte) (c : Chip) :
    (c.ariseAt k a b d st an cy q).otp = c.otp := ariseRec_otp ..
@[simp] theorem ariseAt_time (k a b d : Nat) (st : Dword) (an : Half) (cy q : Byte) (c : Chip) :
    (c.ariseAt k a b d st an cy q).time = c.time := ariseRec_time ..
@[simp] theorem ariseAt_phase (k a b d : Nat) (st : Dword) (an : Half) (cy q : Byte) (c : Chip) :
    (c.ariseAt k a b d st an cy q).phase = c.phase := ariseRec_phase ..
@[simp] theorem ariseAt_ord (k a b d : Nat) (st : Dword) (an : Half) (cy q : Byte) (c : Chip) :
    (c.ariseAt k a b d st an cy q).ord = c.ord := ariseRec_ord ..
@[simp] theorem ariseAt_cns (k a b d : Nat) (st : Dword) (an : Half) (cy q : Byte) (c : Chip) :
    (c.ariseAt k a b d st an cy q).cns = c.cns := ariseRec_cns ..
@[simp] theorem ariseAt_vlt (k a b d : Nat) (st : Dword) (an : Half) (cy q : Byte) (c : Chip) :
    (c.ariseAt k a b d st an cy q).vlt = c.vlt := ariseRec_vlt ..
@[simp] theorem ariseAt_trn (k a b d : Nat) (st : Dword) (an : Half) (cy q : Byte) (c : Chip) :
    (c.ariseAt k a b d st an cy q).trn = c.trn := ariseRec_trn ..
@[simp] theorem ariseAt_cat (k a b d : Nat) (st : Dword) (an : Half) (cy q : Byte) (c : Chip) :
    (c.ariseAt k a b d st an cy q).cat = c.cat := ariseRec_cat ..
@[simp] theorem ariseAt_host (k a b d : Nat) (st : Dword) (an : Half) (cy q : Byte) (c : Chip) :
    (c.ariseAt k a b d st an cy q).host = c.host := ariseRec_host ..
@[simp] theorem ariseAt_can (k a b d : Nat) (st : Dword) (an : Half) (cy q : Byte) (c : Chip) :
    (c.ariseAt k a b d st an cy q).can = c.can := ariseRec_can ..
@[simp] theorem ariseAt_tw (k a b d : Nat) (st : Dword) (an : Half) (cy q : Byte) (c : Chip) :
    (c.ariseAt k a b d st an cy q).tw = c.tw := ariseRec_tw ..
@[simp] theorem ariseAt_twm (k a b d : Nat) (st : Dword) (an : Half) (cy q : Byte) (c : Chip) :
    (c.ariseAt k a b d st an cy q).twm = c.twm := ariseRec_twm ..
@[simp] theorem ariseAt_tag (k a b d : Nat) (st : Dword) (an : Half) (cy q : Byte) (c : Chip) :
    (c.ariseAt k a b d st an cy q).tag = c.tag := ariseRec_tag ..
@[simp] theorem ariseAt_rgr (k a b d : Nat) (st : Dword) (an : Half) (cy q : Byte) (c : Chip) :
    (c.ariseAt k a b d st an cy q).rgr = c.rgr := ariseRec_rgr ..
@[simp] theorem ariseAt_start (k a b d : Nat) (st : Dword) (an : Half) (cy q : Byte) (c : Chip) :
    (c.ariseAt k a b d st an cy q).start = c.start := ariseRec_start ..
@[simp] theorem ariseAt_dbg (k a b d : Nat) (st : Dword) (an : Half) (cy q : Byte) (c : Chip) :
    (c.ariseAt k a b d st an cy q).dbg = c.dbg := ariseRec_dbg ..
@[simp] theorem ariseAt_vit (k a b d : Nat) (st : Dword) (an : Half) (cy q : Byte) (c : Chip) :
    (c.ariseAt k a b d st an cy q).vit = c.vit := ariseRec_vit ..
@[simp] theorem ariseAt_bus (k a b d : Nat) (st : Dword) (an : Half) (cy q : Byte) (c : Chip) :
    (c.ariseAt k a b d st an cy q).bus = c.bus := ariseRec_bus ..
@[simp] theorem ariseAt_gpio (k a b d : Nat) (st : Dword) (an : Half) (cy q : Byte) (c : Chip) :
    (c.ariseAt k a b d st an cy q).gpio = c.gpio := ariseRec_gpio ..
@[simp] theorem ariseAt_asks (k a b d : Nat) (st : Dword) (an : Half) (cy q : Byte) (c : Chip) :
    (c.ariseAt k a b d st an cy q).asks = c.asks := ariseRec_asks ..
@[simp] theorem timeEvent_clk (a b d : Nat) (c : Chip) : (c.timeEvent a b d).clk = c.clk := ariseRec_clk ..
@[simp] theorem timeEvent_mem (a b d : Nat) (c : Chip) : (c.timeEvent a b d).mem = c.mem := ariseRec_mem ..
@[simp] theorem timeEvent_otp (a b d : Nat) (c : Chip) : (c.timeEvent a b d).otp = c.otp := ariseRec_otp ..
@[simp] theorem timeEvent_time (a b d : Nat) (c : Chip) : (c.timeEvent a b d).time = c.time := ariseRec_time ..
@[simp] theorem timeEvent_phase (a b d : Nat) (c : Chip) : (c.timeEvent a b d).phase = c.phase := ariseRec_phase ..
@[simp] theorem timeEvent_ord (a b d : Nat) (c : Chip) : (c.timeEvent a b d).ord = c.ord := ariseRec_ord ..
@[simp] theorem timeEvent_cns (a b d : Nat) (c : Chip) : (c.timeEvent a b d).cns = c.cns := ariseRec_cns ..
@[simp] theorem timeEvent_vlt (a b d : Nat) (c : Chip) : (c.timeEvent a b d).vlt = c.vlt := ariseRec_vlt ..
@[simp] theorem timeEvent_trn (a b d : Nat) (c : Chip) : (c.timeEvent a b d).trn = c.trn := ariseRec_trn ..
@[simp] theorem timeEvent_cat (a b d : Nat) (c : Chip) : (c.timeEvent a b d).cat = c.cat := ariseRec_cat ..
@[simp] theorem timeEvent_host (a b d : Nat) (c : Chip) : (c.timeEvent a b d).host = c.host := ariseRec_host ..
@[simp] theorem timeEvent_can (a b d : Nat) (c : Chip) : (c.timeEvent a b d).can = c.can := ariseRec_can ..
@[simp] theorem timeEvent_tw (a b d : Nat) (c : Chip) : (c.timeEvent a b d).tw = c.tw := ariseRec_tw ..
@[simp] theorem timeEvent_twm (a b d : Nat) (c : Chip) : (c.timeEvent a b d).twm = c.twm := ariseRec_twm ..
@[simp] theorem timeEvent_tag (a b d : Nat) (c : Chip) : (c.timeEvent a b d).tag = c.tag := ariseRec_tag ..
@[simp] theorem timeEvent_rgr (a b d : Nat) (c : Chip) : (c.timeEvent a b d).rgr = c.rgr := ariseRec_rgr ..
@[simp] theorem timeEvent_start (a b d : Nat) (c : Chip) : (c.timeEvent a b d).start = c.start := ariseRec_start ..
@[simp] theorem timeEvent_dbg (a b d : Nat) (c : Chip) : (c.timeEvent a b d).dbg = c.dbg := ariseRec_dbg ..
@[simp] theorem timeEvent_vit (a b d : Nat) (c : Chip) : (c.timeEvent a b d).vit = c.vit := ariseRec_vit ..
@[simp] theorem timeEvent_bus (a b d : Nat) (c : Chip) : (c.timeEvent a b d).bus = c.bus := ariseRec_bus ..
@[simp] theorem timeEvent_gpio (a b d : Nat) (c : Chip) : (c.timeEvent a b d).gpio = c.gpio := ariseRec_gpio ..
@[simp] theorem timeEvent_asks (a b d : Nat) (c : Chip) : (c.timeEvent a b d).asks = c.asks := ariseRec_asks ..
@[simp] theorem secEvent_clk (a b d : Nat) (c : Chip) : (secEvent a b d c).clk = c.clk := ariseRec_clk ..
@[simp] theorem secEvent_mem (a b d : Nat) (c : Chip) : (secEvent a b d c).mem = c.mem := ariseRec_mem ..
@[simp] theorem secEvent_otp (a b d : Nat) (c : Chip) : (secEvent a b d c).otp = c.otp := ariseRec_otp ..
@[simp] theorem secEvent_time (a b d : Nat) (c : Chip) : (secEvent a b d c).time = c.time := ariseRec_time ..
@[simp] theorem secEvent_phase (a b d : Nat) (c : Chip) : (secEvent a b d c).phase = c.phase := ariseRec_phase ..
@[simp] theorem secEvent_ord (a b d : Nat) (c : Chip) : (secEvent a b d c).ord = c.ord := ariseRec_ord ..
@[simp] theorem secEvent_cns (a b d : Nat) (c : Chip) : (secEvent a b d c).cns = c.cns := ariseRec_cns ..
@[simp] theorem secEvent_vlt (a b d : Nat) (c : Chip) : (secEvent a b d c).vlt = c.vlt := ariseRec_vlt ..
@[simp] theorem secEvent_trn (a b d : Nat) (c : Chip) : (secEvent a b d c).trn = c.trn := ariseRec_trn ..
@[simp] theorem secEvent_cat (a b d : Nat) (c : Chip) : (secEvent a b d c).cat = c.cat := ariseRec_cat ..
@[simp] theorem secEvent_host (a b d : Nat) (c : Chip) : (secEvent a b d c).host = c.host := ariseRec_host ..
@[simp] theorem secEvent_can (a b d : Nat) (c : Chip) : (secEvent a b d c).can = c.can := ariseRec_can ..
@[simp] theorem secEvent_tw (a b d : Nat) (c : Chip) : (secEvent a b d c).tw = c.tw := ariseRec_tw ..
@[simp] theorem secEvent_twm (a b d : Nat) (c : Chip) : (secEvent a b d c).twm = c.twm := ariseRec_twm ..
@[simp] theorem secEvent_tag (a b d : Nat) (c : Chip) : (secEvent a b d c).tag = c.tag := ariseRec_tag ..
@[simp] theorem secEvent_start (a b d : Nat) (c : Chip) : (secEvent a b d c).start = c.start := ariseRec_start ..
@[simp] theorem secEvent_dbg (a b d : Nat) (c : Chip) : (secEvent a b d c).dbg = c.dbg := ariseRec_dbg ..
@[simp] theorem secEvent_vit (a b d : Nat) (c : Chip) : (secEvent a b d c).vit = c.vit := ariseRec_vit ..
@[simp] theorem secEvent_bus (a b d : Nat) (c : Chip) : (secEvent a b d c).bus = c.bus := ariseRec_bus ..
@[simp] theorem secEvent_gpio (a b d : Nat) (c : Chip) : (secEvent a b d c).gpio = c.gpio := ariseRec_gpio ..
@[simp] theorem secEvent_asks (a b d : Nat) (c : Chip) : (secEvent a b d c).asks = c.asks := ariseRec_asks ..
@[simp] theorem powerEvent_clk (a b d : Nat) (c : Chip) : (powerEvent a b d c).clk = c.clk := ariseRec_clk ..
@[simp] theorem powerEvent_mem (a b d : Nat) (c : Chip) : (powerEvent a b d c).mem = c.mem := ariseRec_mem ..
@[simp] theorem powerEvent_otp (a b d : Nat) (c : Chip) : (powerEvent a b d c).otp = c.otp := ariseRec_otp ..
@[simp] theorem powerEvent_time (a b d : Nat) (c : Chip) : (powerEvent a b d c).time = c.time := ariseRec_time ..
@[simp] theorem powerEvent_phase (a b d : Nat) (c : Chip) : (powerEvent a b d c).phase = c.phase := ariseRec_phase ..
@[simp] theorem powerEvent_ord (a b d : Nat) (c : Chip) : (powerEvent a b d c).ord = c.ord := ariseRec_ord ..
@[simp] theorem powerEvent_cns (a b d : Nat) (c : Chip) : (powerEvent a b d c).cns = c.cns := ariseRec_cns ..
@[simp] theorem powerEvent_vlt (a b d : Nat) (c : Chip) : (powerEvent a b d c).vlt = c.vlt := ariseRec_vlt ..
@[simp] theorem powerEvent_trn (a b d : Nat) (c : Chip) : (powerEvent a b d c).trn = c.trn := ariseRec_trn ..
@[simp] theorem powerEvent_cat (a b d : Nat) (c : Chip) : (powerEvent a b d c).cat = c.cat := ariseRec_cat ..
@[simp] theorem powerEvent_host (a b d : Nat) (c : Chip) : (powerEvent a b d c).host = c.host := ariseRec_host ..
@[simp] theorem powerEvent_can (a b d : Nat) (c : Chip) : (powerEvent a b d c).can = c.can := ariseRec_can ..
@[simp] theorem powerEvent_tw (a b d : Nat) (c : Chip) : (powerEvent a b d c).tw = c.tw := ariseRec_tw ..
@[simp] theorem powerEvent_twm (a b d : Nat) (c : Chip) : (powerEvent a b d c).twm = c.twm := ariseRec_twm ..
@[simp] theorem powerEvent_tag (a b d : Nat) (c : Chip) : (powerEvent a b d c).tag = c.tag := ariseRec_tag ..
@[simp] theorem powerEvent_start (a b d : Nat) (c : Chip) : (powerEvent a b d c).start = c.start := ariseRec_start ..
@[simp] theorem powerEvent_dbg (a b d : Nat) (c : Chip) : (powerEvent a b d c).dbg = c.dbg := ariseRec_dbg ..
@[simp] theorem powerEvent_vit (a b d : Nat) (c : Chip) : (powerEvent a b d c).vit = c.vit := ariseRec_vit ..
@[simp] theorem powerEvent_bus (a b d : Nat) (c : Chip) : (powerEvent a b d c).bus = c.bus := ariseRec_bus ..
@[simp] theorem powerEvent_gpio (a b d : Nat) (c : Chip) : (powerEvent a b d c).gpio = c.gpio := ariseRec_gpio ..
@[simp] theorem powerEvent_asks (a b d : Nat) (c : Chip) : (powerEvent a b d c).asks = c.asks := ariseRec_asks ..
@[simp] theorem healthEvent_clk (a b d : Nat) (c : Chip) : (healthEvent a b d c).clk = c.clk := ariseRec_clk ..
@[simp] theorem healthEvent_mem (a b d : Nat) (c : Chip) : (healthEvent a b d c).mem = c.mem := ariseRec_mem ..
@[simp] theorem healthEvent_otp (a b d : Nat) (c : Chip) : (healthEvent a b d c).otp = c.otp := ariseRec_otp ..
@[simp] theorem healthEvent_time (a b d : Nat) (c : Chip) : (healthEvent a b d c).time = c.time := ariseRec_time ..
@[simp] theorem healthEvent_phase (a b d : Nat) (c : Chip) : (healthEvent a b d c).phase = c.phase := ariseRec_phase ..
@[simp] theorem healthEvent_ord (a b d : Nat) (c : Chip) : (healthEvent a b d c).ord = c.ord := ariseRec_ord ..
@[simp] theorem healthEvent_cns (a b d : Nat) (c : Chip) : (healthEvent a b d c).cns = c.cns := ariseRec_cns ..
@[simp] theorem healthEvent_vlt (a b d : Nat) (c : Chip) : (healthEvent a b d c).vlt = c.vlt := ariseRec_vlt ..
@[simp] theorem healthEvent_trn (a b d : Nat) (c : Chip) : (healthEvent a b d c).trn = c.trn := ariseRec_trn ..
@[simp] theorem healthEvent_cat (a b d : Nat) (c : Chip) : (healthEvent a b d c).cat = c.cat := ariseRec_cat ..
@[simp] theorem healthEvent_host (a b d : Nat) (c : Chip) : (healthEvent a b d c).host = c.host := ariseRec_host ..
@[simp] theorem healthEvent_can (a b d : Nat) (c : Chip) : (healthEvent a b d c).can = c.can := ariseRec_can ..
@[simp] theorem healthEvent_tw (a b d : Nat) (c : Chip) : (healthEvent a b d c).tw = c.tw := ariseRec_tw ..
@[simp] theorem healthEvent_twm (a b d : Nat) (c : Chip) : (healthEvent a b d c).twm = c.twm := ariseRec_twm ..
@[simp] theorem healthEvent_tag (a b d : Nat) (c : Chip) : (healthEvent a b d c).tag = c.tag := ariseRec_tag ..
@[simp] theorem healthEvent_start (a b d : Nat) (c : Chip) : (healthEvent a b d c).start = c.start := ariseRec_start ..
@[simp] theorem healthEvent_dbg (a b d : Nat) (c : Chip) : (healthEvent a b d c).dbg = c.dbg := ariseRec_dbg ..
@[simp] theorem healthEvent_vit (a b d : Nat) (c : Chip) : (healthEvent a b d c).vit = c.vit := ariseRec_vit ..
@[simp] theorem healthEvent_bus (a b d : Nat) (c : Chip) : (healthEvent a b d c).bus = c.bus := ariseRec_bus ..
@[simp] theorem healthEvent_gpio (a b d : Nat) (c : Chip) : (healthEvent a b d c).gpio = c.gpio := ariseRec_gpio ..
@[simp] theorem healthEvent_asks (a b d : Nat) (c : Chip) : (healthEvent a b d c).asks = c.asks := ariseRec_asks ..

end Chip

/-! A command on the chip alone. -/
@[simp] theorem State.onChip_chip (f : Chip → Chip) (s : State) : (s.onChip f).dev.chip = f s.dev.chip := rfl
@[simp] theorem State.onChip_cur (f : Chip → Chip) (s : State) : (s.onChip f).dev.cur = s.dev.cur := rfl
@[simp] theorem State.onChip_reg (f : Chip → Chip) (s : State) : (s.onChip f).dev.reg = s.dev.reg := rfl
@[simp] theorem State.onChip_pending (f : Chip → Chip) (s : State) : (s.onChip f).pending = s.pending := rfl

end Sys2Proof.Machine
end

