-- ==== Sys2Proof/Laws/Device.lean ====
section
/-! SUPPORT. The two cores as fields of the device, results in flight, and what the shared operations over the device do: commands
on a chip that asks for nothing, and the issue of an instruction. -/

namespace Sys2Proof.Machine

open Sys2Proof

/-! ## The two cores -/

namespace Device

@[simp] theorem core_setCore (w : CoreId) (k : Core) (d : Device) : (d.setCore w k).core w = k := by cases w <;> rfl
@[simp] theorem core_setCore_other (w : CoreId) (k : Core) (d : Device) :
    (d.setCore w k).core (otherCore w) = d.core (otherCore w) := by cases w <;> rfl
@[simp] theorem chip_setCore (w : CoreId) (k : Core) (d : Device) : (d.setCore w k).chip = d.chip := by cases w <;> rfl
@[simp] theorem core_modChip (w : CoreId) (f : Chip → Chip) (d : Device) : (d.modChip f).core w = d.core w := by cases w <;> rfl
@[simp] theorem chip_modChip (f : Chip → Chip) (d : Device) : (d.modChip f).chip = f d.chip := rfl
@[simp] theorem cur_modChip (f : Chip → Chip) (d : Device) : (d.modChip f).cur = d.cur := rfl
@[simp] theorem reg_modChip (f : Chip → Chip) (d : Device) : (d.modChip f).reg = d.reg := rfl
@[simp] theorem core_withChip (w : CoreId) (c : Chip) (d : Device) : Device.core w { d with chip := c } = d.core w := by cases w <;> rfl
@[simp] theorem core_modCore (w : CoreId) (f : Core → Core) (d : Device) : (d.modCore w f).core w = f (d.core w) := by cases w <;> rfl
@[simp] theorem core_modCore_other (w : CoreId) (f : Core → Core) (d : Device) :
    (d.modCore w f).core (otherCore w) = d.core (otherCore w) := by cases w <;> rfl
@[simp] theorem chip_modCore (w : CoreId) (f : Core → Core) (d : Device) : (d.modCore w f).chip = d.chip := by cases w <;> rfl

/-- With nothing asked, settling changes nothing. -/
@[simp] theorem settle_quiet (d : Device) (h : d.chip.asks = []) : d.settle = d := by simp [settle, settleN, h]

theorem settleN_asks (n : Nat) (d : Device) : (settleN n d).chip.asks = [] := by
  induction n generalizing d with
  | zero => rfl
  | succ n ih => unfold settleN; split <;> simp_all

/-- Settling leaves nothing asked. -/
@[simp] theorem settle_asks (d : Device) : d.settle.chip.asks = [] := settleN_asks 4 d

/-- At a boundary with neither a step nor a halt due the device stays. -/
theorem boundary_quiet (w : CoreId) (d : Device) (h1 : (d.core w).stepping = false) (h2 : (d.core w).haltReq = false) :
    d.boundary w = d := by
  cases w
  · simp only [core] at h1 h2; simp [boundary, h1, h2]
  · rfl

end Device

/-! ## Commands on the chip -/

theorem State.onAll_quiet (f : Chip → Chip) (s : State) (h : (f s.dev.chip).asks = []) : s.onAll f = s.onChip f := by
  simp [State.onAll, State.onDevice, State.onChip, Device.modChip, h]

/-- A command of the main domain on a running device is its effect on the chip. -/
theorem State.onRun_live (f : Chip → Chip) (s : State) (h : s.dev.chip.clk.running = true) (h' : (f s.dev.chip).asks = []) :
    s.onRun f = s.onChip f := by
  simp [State.onRun, State.onAll, State.onDevice, State.onChip, Device.modChip, h, h']

theorem State.onMain_live (f : Chip → Chip) (s : State) (h : s.dev.chip.clk.running = true) : s.onMain f = s.onChip f := by
  simp [State.onMain, State.onChip, h]

@[simp] theorem State.onDevice_pending (f : Device → Device) (s : State) : (s.onDevice f).pending = s.pending := rfl
@[simp] theorem State.onAll_pending (f : Chip → Chip) (s : State) : (s.onAll f).pending = s.pending := rfl
@[simp] theorem State.onRun_pending (f : Chip → Chip) (s : State) : (s.onRun f).pending = s.pending := rfl
@[simp] theorem State.issue_pending (w : CoreId) (n : Nat) (b : Bool) (body : Device → Core → Issued) (s : State) :
    (s.issue w n b body).pending = s.pending := rfl

/-! ## Results in flight -/

namespace Core

@[simp] theorem landAll_nil (k : Core) : landAll [] k = k := rfl
@[simp] theorem landAll_cons (l : Landing) (ls : List Landing) (k : Core) : landAll (l :: ls) k = landAll ls (landOne k l) := rfl
theorem landAll_append (a b : List Landing) (k : Core) : landAll (a ++ b) k = landAll b (landAll a k) := by
  simp [landAll, List.foldl_append]

/-- A landing writes registers, ST, WT or VBASE and nothing else. -/
structure LandFrame (k k' : Core) : Prop where
  pc : k'.pc = k.pc
  flight : k'.flight = k.flight
  slot : k'.slot = k.slot
  branch : k'.branch = k.branch
  longMid : k'.longMid = k.longMid
  fwt : k'.fwt = k.fwt
  trap : k'.trap = k.trap
  lock : k'.lock = k.lock
  rsLost : k'.rsLost = k.rsLost
  stack : k'.stack = k.stack
  alarm : k'.alarm = k.alarm
  cycle : k'.cycle = k.cycle
  wbuf : k'.wbuf = k.wbuf
  frozen : k'.frozen = k.frozen
  waiting : k'.waiting = k.waiting
  halted : k'.halted = k.halted
  haltReq : k'.haltReq = k.haltReq
  stepping : k'.stepping = k.stepping
  pastBp : k'.pastBp = k.pastBp
  running : k'.running = k.running

theorem landOne_frame (k : Core) (l : Landing) : LandFrame k (k.landOne l) := by
  unfold landOne; split <;> constructor <;> rfl

theorem landAll_frame (ls : List Landing) (k : Core) : LandFrame k (k.landAll ls) := by
  induction ls generalizing k with
  | nil => constructor <;> rfl
  | cons l ls ih =>
    have a := landOne_frame k l
    have b := ih (k.landOne l)
    constructor <;> simp only [landAll_cons] <;>
      first
      | rw [b.pc, a.pc] | rw [b.flight, a.flight] | rw [b.slot, a.slot] | rw [b.branch, a.branch] | rw [b.longMid, a.longMid]
      | rw [b.fwt, a.fwt] | rw [b.trap, a.trap] | rw [b.lock, a.lock] | rw [b.rsLost, a.rsLost] | rw [b.stack, a.stack]
      | rw [b.alarm, a.alarm] | rw [b.cycle, a.cycle] | rw [b.wbuf, a.wbuf] | rw [b.frozen, a.frozen]
      | rw [b.waiting, a.waiting] | rw [b.halted, a.halted] | rw [b.haltReq, a.haltReq] | rw [b.stepping, a.stepping]
      | rw [b.pastBp, a.pastBp] | rw [b.running, a.running]

/-- The core as it reads its operands: progress and everything that does not land stays. -/
theorem arrive_pc (k : Core) : k.arrive.pc = k.pc := (landAll_frame _ k).pc
theorem arrive_slot (k : Core) : k.arrive.slot = k.slot := (landAll_frame _ k).slot
theorem arrive_branch (k : Core) : k.arrive.branch = k.branch := (landAll_frame _ k).branch
theorem arrive_stepping (k : Core) : k.arrive.stepping = k.stepping := (landAll_frame _ k).stepping
theorem arrive_haltReq (k : Core) : k.arrive.haltReq = k.haltReq := (landAll_frame _ k).haltReq

end Core

/-! ## Issue -/

/-- An instruction that may issue runs its body on the core as it reads its operands, and its result is finished. -/
theorem State.issue_canRun (s : State) (w : CoreId) (words : Nat) (noSlot : Bool) (body : Device → Core → Issued)
    (h : CanRun s w words) :
    s.issue w words noSlot body = { s with dev := Device.settle (Device.finish w words
      (if (s.dev.core w).longMid then 0 else s.dev.chip.fetchWait w (s.dev.core w) words)
      (if noSlot && (operandsOf s w).branch.isSome then
        .fault slotFaultInfo (s.dev.modChip (Chip.fetched w (s.dev.core w) words)) (operandsOf s w)
       else body (s.dev.modChip (Chip.fetched w (s.dev.core w) words)) (operandsOf s w))) } := by
  obtain ⟨_, h2, h3, h4, _⟩ := h
  simp only [State.issue, State.onDevice, Device.issue, h2, h3, h4]
  rfl

end Sys2Proof.Machine
end

