-- ==== Sys2Proof/Laws/Frame.lean ====
section
/-! SUPPORT. Frames by block: how `ChipOnly` composes, and the frame of each shared operation of the chip. -/

namespace Sys2Proof.Machine

open Sys2Proof

theorem sameOn_refl (b : Block) (c : Chip) : sameOn b c c := by cases b <;> rfl

theorem sameOn_trans {b : Block} {c d e : Chip} (h : sameOn b c d) (h' : sameOn b d e) : sameOn b c e := by
  cases b <;> exact Eq.trans h h'

/-- No frame forbids a step that does nothing. -/
theorem ChipOnly.refl (bs : List Block) (c : Chip) : ChipOnly bs c c := ⟨rfl, fun b _ => sameOn_refl b c⟩

theorem ChipOnly.trans {bs : List Block} {c d e : Chip} (h : ChipOnly bs c d) (h' : ChipOnly bs d e) : ChipOnly bs c e :=
  ⟨h'.1.trans h.1, fun b hb => sameOn_trans (h.2 b hb) (h'.2 b hb)⟩

theorem ChipOnly.mono {bs cs : List Block} {c d : Chip} (h : ChipOnly bs c d) (hs : ∀ b ∈ bs, b ∈ cs) : ChipOnly cs c d :=
  ⟨h.1, fun b hb => h.2 b fun hc => hb (hs b hc)⟩

/-- A chip frame is a state frame for a command on the chip alone. -/
theorem OnlyBlocks.onChip {bs : List Block} {s : State} {f : Chip → Chip} (h : ChipOnly bs s.dev.chip (f s.dev.chip)) :
    OnlyBlocks bs s (s.onChip f) := ⟨rfl, rfl, rfl, h⟩

namespace Chip

theorem modClk_only {bs : List Block} (f : Clk → Clk) (c : Chip) (h : Block.clk ∈ bs) : ChipOnly bs c (c.modClk f) :=
  ⟨rfl, fun b hb => by cases b <;> first | rfl | exact absurd h hb⟩
theorem modMem_only {bs : List Block} (f : Mem → Mem) (c : Chip) (h : Block.mem ∈ bs) : ChipOnly bs c (c.modMem f) :=
  ⟨rfl, fun b hb => by cases b <;> first | rfl | exact absurd h hb⟩
theorem modOtp_only {bs : List Block} (f : Otp → Otp) (c : Chip) (h : Block.otp ∈ bs) : ChipOnly bs c (c.modOtp f) :=
  ⟨rfl, fun b hb => by cases b <;> first | rfl | exact absurd h hb⟩
theorem modTime_only {bs : List Block} (f : TimeBase → TimeBase) (c : Chip) (h : Block.time ∈ bs) : ChipOnly bs c (c.modTime f) :=
  ⟨rfl, fun b hb => by cases b <;> first | rfl | exact absurd h hb⟩
theorem modPhase_only {bs : List Block} (f : Phase → Phase) (c : Chip) (h : Block.phase ∈ bs) : ChipOnly bs c (c.modPhase f) :=
  ⟨rfl, fun b hb => by cases b <;> first | rfl | exact absurd h hb⟩
theorem modAcc_only {bs : List Block} (f : Acc → Acc) (c : Chip) (h : Block.acc ∈ bs) : ChipOnly bs c (c.modAcc f) :=
  ⟨rfl, fun b hb => by cases b <;> first | rfl | exact absurd h hb⟩
theorem modOrd_only {bs : List Block} (f : Ord → Ord) (c : Chip) (h : Block.ord ∈ bs) : ChipOnly bs c (c.modOrd f) :=
  ⟨rfl, fun b hb => by cases b <;> first | rfl | exact absurd h hb⟩
theorem modCns_only {bs : List Block} (f : Cns → Cns) (c : Chip) (h : Block.cns ∈ bs) : ChipOnly bs c (c.modCns f) :=
  ⟨rfl, fun b hb => by cases b <;> first | rfl | exact absurd h hb⟩
theorem modVlt_only {bs : List Block} (f : Vlt → Vlt) (c : Chip) (h : Block.vlt ∈ bs) : ChipOnly bs c (c.modVlt f) :=
  ⟨rfl, fun b hb => by cases b <;> first | rfl | exact absurd h hb⟩
theorem modTrn_only {bs : List Block} (f : Trn → Trn) (c : Chip) (h : Block.trn ∈ bs) : ChipOnly bs c (c.modTrn f) :=
  ⟨rfl, fun b hb => by cases b <;> first | rfl | exact absurd h hb⟩
theorem modCat_only {bs : List Block} (f : Cat → Cat) (c : Chip) (h : Block.cat ∈ bs) : ChipOnly bs c (c.modCat f) :=
  ⟨rfl, fun b hb => by cases b <;> first | rfl | exact absurd h hb⟩
theorem modHost_only {bs : List Block} (f : HostPort → HostPort) (c : Chip) (h : Block.host ∈ bs) : ChipOnly bs c (c.modHost f) :=
  ⟨rfl, fun b hb => by cases b <;> first | rfl | exact absurd h hb⟩
theorem modCan_only {bs : List Block} (f : Can → Can) (c : Chip) (h : Block.can ∈ bs) : ChipOnly bs c (c.modCan f) :=
  ⟨rfl, fun b hb => by cases b <;> first | rfl | exact absurd h hb⟩
theorem modTw_only {bs : List Block} (f : TwoWire → TwoWire) (c : Chip) (h : Block.tw ∈ bs) : ChipOnly bs c (c.modTw f) :=
  ⟨rfl, fun b hb => by cases b <;> first | rfl | exact absurd h hb⟩
theorem modTwm_only {bs : List Block} (f : Twm → Twm) (c : Chip) (h : Block.twm ∈ bs) : ChipOnly bs c (c.modTwm f) :=
  ⟨rfl, fun b hb => by cases b <;> first | rfl | exact absurd h hb⟩
theorem modTag_only {bs : List Block} (f : Tag → Tag) (c : Chip) (h : Block.tag ∈ bs) : ChipOnly bs c (c.modTag f) :=
  ⟨rfl, fun b hb => by cases b <;> first | rfl | exact absurd h hb⟩
theorem modRgr_only {bs : List Block} (f : Rgr → Rgr) (c : Chip) (h : Block.rgr ∈ bs) : ChipOnly bs c (c.modRgr f) :=
  ⟨rfl, fun b hb => by cases b <;> first | rfl | exact absurd h hb⟩
theorem modStart_only {bs : List Block} (f : Start → Start) (c : Chip) (h : Block.start ∈ bs) : ChipOnly bs c (c.modStart f) :=
  ⟨rfl, fun b hb => by cases b <;> first | rfl | exact absurd h hb⟩
theorem modDbg_only {bs : List Block} (f : Dbg → Dbg) (c : Chip) (h : Block.dbg ∈ bs) : ChipOnly bs c (c.modDbg f) :=
  ⟨rfl, fun b hb => by cases b <;> first | rfl | exact absurd h hb⟩
theorem modVit_only {bs : List Block} (f : Vit → Vit) (c : Chip) (h : Block.vit ∈ bs) : ChipOnly bs c (c.modVit f) :=
  ⟨rfl, fun b hb => by cases b <;> first | rfl | exact absurd h hb⟩
theorem modBus_only {bs : List Block} (f : BusBufs → BusBufs) (c : Chip) (h : Block.bus ∈ bs) : ChipOnly bs c (c.modBus f) :=
  ⟨rfl, fun b hb => by cases b <;> first | rfl | exact absurd h hb⟩
theorem modGpio_only {bs : List Block} (f : Gpio → Gpio) (c : Chip) (h : Block.gpio ∈ bs) : ChipOnly bs c (c.modGpio f) :=
  ⟨rfl, fun b hb => by cases b <;> first | rfl | exact absurd h hb⟩

theorem ariseRec_only {bs : List Block} (k : Nat) (r : Record) (c : Chip) (t : Nat) (h : Block.acc ∈ bs) :
    ChipOnly bs c (c.ariseRec k r t) := by
  exact modAcc_only _ _ h

theorem arise_only {bs : List Block} (k a b d : Nat) (c : Chip) (h : Block.acc ∈ bs) : ChipOnly bs c (c.arise k a b d) :=
  ariseRec_only _ _ _ _ h
theorem timeEvent_only {bs : List Block} (a b d : Nat) (c : Chip) (h : Block.acc ∈ bs) : ChipOnly bs c (c.timeEvent a b d) :=
  ariseRec_only _ _ _ _ h
theorem secEvent_only {bs : List Block} (a b d : Nat) (c : Chip) (h : Block.acc ∈ bs) (h' : Block.rgr ∈ bs) :
    ChipOnly bs c (secEvent a b d c) := (modRgr_only _ _ h').trans (ariseRec_only _ _ _ _ h)
theorem powerEvent_only {bs : List Block} (a b d : Nat) (c : Chip) (h : Block.acc ∈ bs) (h' : Block.rgr ∈ bs) :
    ChipOnly bs c (powerEvent a b d c) := (modRgr_only _ _ h').trans (ariseRec_only _ _ _ _ h)
theorem healthEvent_only {bs : List Block} (a b d : Nat) (c : Chip) (h : Block.acc ∈ bs) (h' : Block.rgr ∈ bs) :
    ChipOnly bs c (healthEvent a b d c) := (modRgr_only _ _ h').trans (ariseRec_only _ _ _ _ h)

theorem when_only {bs : List Block} (p : Bool) (f : Chip → Chip) (c : Chip) (h : ChipOnly bs c (f c)) : ChipOnly bs c (c.when p f) := by
  cases p
  · exact ChipOnly.refl _ _
  · exact h

/-- A chain of steps with one frame has that frame. -/
theorem foldl_only {bs : List Block} {α : Type} (f : Chip → α → Chip) (h : ∀ c a, ChipOnly bs c (f c a)) (l : List α) (c : Chip) :
    ChipOnly bs c (l.foldl f c) := by
  induction l generalizing c with
  | nil => exact ChipOnly.refl _ _
  | cons a l ih => exact (h c a).trans (ih _)

theorem modWin_only {bs : List Block} (w : CoreId) (f : FlashWin → FlashWin) (c : Chip) (h : Block.cns ∈ bs) :
    ChipOnly bs c (c.modWin w f) := modCns_only _ _ h

theorem touchWord_only (o : Nat) (c : Chip) : ChipOnly [.cns, .acc, .rgr] c (c.touchWord o) := by
  unfold touchWord; split
  · exact ChipOnly.refl _ _
  · exact modCns_only _ _ (by simp)
  · exact (modCns_only _ _ (by simp)).trans (healthEvent_only _ _ _ _ (by simp) (by simp))

theorem touchFlash_only (o n : Nat) (c : Chip) : ChipOnly [.cns, .acc, .rgr] c (c.touchFlash o n) :=
  foldl_only _ (fun c _ => touchWord_only _ c) _ _

theorem readRequest_only (b : Option Nat) (c : Chip) : ChipOnly [.cns, .acc, .rgr] c (c.readRequest b) := by
  have h : Block.cns ∈ [Block.cns, Block.acc, Block.rgr] := by simp
  unfold readRequest
  repeat' first
    | exact modCns_only _ _ h
    | exact (modCns_only _ _ h).trans (modWin_only _ _ _ h)
    | split

/-- A read through the bus may suspend an erase, count a corrected or failed word, and record a failed one. -/
theorem touchRead_only (a n : Nat) (c : Chip) : ChipOnly [.cns, .acc, .rgr] c (c.touchRead a n) := by
  unfold touchRead; split
  · exact (readRequest_only _ _).trans (touchFlash_only _ _ _)
  · split
    · exact readRequest_only _ _
    · exact ChipOnly.refl _ _

/-- What the fetch of an instruction can change. -/
theorem fetched_only (w : CoreId) (k : Core) (n : Nat) (c : Chip) : ChipOnly [.clk, .cns, .acc, .rgr] c (c.fetched w k n) := by
  refine foldl_only _ (fun c a => ?_) _ _
  split
  · split
    · exact ChipOnly.refl _ _
    · exact ((touchRead_only _ _ _).mono (by simp)).trans (modClk_only _ _ (by simp))
  · exact ChipOnly.refl _ _

theorem refuseTransfer_only (i : Fin 7) (a : Nat) (c : Chip) : ChipOnly [.vit, .acc, .rgr] c (c.refuseTransfer i a) := by
  unfold refuseTransfer
  refine (modVit_only _ _ (by simp)).trans (when_only _ _ _ ?_)
  exact (modRgr_only _ _ (by simp)).trans (secEvent_only _ _ _ _ (by simp) (by simp))

end Chip

end Sys2Proof.Machine
end

