-- ==== Sys2Proof/Laws/Commands.lean ====
section
/-! SUPPORT. How a command of a running device comes to what a statement says of it: one lemma for an effect spelled out, one for
an effect told in part, and records in the terms of Safety.lean. -/

namespace Sys2Proof.Machine

open Sys2Proof

/-- A command whose effect on the chip is spelled out. -/
theorem becomes_of {s : State} {i : Instr} {f g : Chip → Chip} (h : Live s) (hx : exec i s = .next (s.onRun f))
    (hg : f s.dev.chip = g s.dev.chip) (ha : (g s.dev.chip).asks = s.dev.chip.asks) : Becomes s i g := by
  unfold Becomes
  rw [hx, State.onRun_live _ _ h.1 (by rw [hg, ha, h.2])]
  simp [State.onChip, hg]

/-- The same for a command that also reaches a stopped main domain. -/
theorem becomes_onAll {s : State} {i : Instr} {f g : Chip → Chip} (h : s.dev.chip.asks = []) (hx : exec i s = .next (s.onAll f))
    (hg : f s.dev.chip = g s.dev.chip) (ha : (g s.dev.chip).asks = s.dev.chip.asks) : Becomes s i g := by
  unfold Becomes
  rw [hx, State.onAll_quiet _ _ (by rw [hg, ha, h])]
  simp [State.onChip, hg]

/-- A command with its frame and what it leaves. -/
theorem leaves_of {s : State} {i : Instr} {bs : List Block} {P : Chip → Prop} {f : Chip → Chip} (h : Live s)
    (hx : exec i s = .next (s.onRun f)) (ho : ChipOnly bs s.dev.chip (f s.dev.chip)) (hp : P (f s.dev.chip)) : Leaves s i bs P := by
  refine ⟨_, hx, ?_, ?_⟩
  · rw [State.onRun_live _ _ h.1 (by rw [ho.1, h.2])]; exact OnlyBlocks.onChip ho
  · rw [State.onRun_live _ _ h.1 (by rw [ho.1, h.2])]; exact hp

/-- The same for a command that also reaches a stopped main domain. -/
theorem leaves_onAll {s : State} {i : Instr} {bs : List Block} {P : Chip → Prop} {f : Chip → Chip} (h : s.dev.chip.asks = [])
    (hx : exec i s = .next (s.onAll f)) (ho : ChipOnly bs s.dev.chip (f s.dev.chip)) (hp : P (f s.dev.chip)) : Leaves s i bs P := by
  refine ⟨_, hx, ?_, ?_⟩
  · rw [State.onAll_quiet _ _ (by rw [ho.1, h])]; exact OnlyBlocks.onChip ho
  · rw [State.onAll_quiet _ _ (by rw [ho.1, h])]; exact hp

/-- A command on the chip alone. -/
theorem becomes_onChip {s : State} {i : Instr} {f g : Chip → Chip} (hx : exec i s = .next (s.onChip f))
    (hg : f s.dev.chip = g s.dev.chip) : Becomes s i g := by
  unfold Becomes
  rw [hx]
  simp [State.onChip, hg]

/-- The same with its frame and what it leaves. -/
theorem leaves_onChip {s : State} {i : Instr} {bs : List Block} {P : Chip → Prop} {f : Chip → Chip}
    (hx : exec i s = .next (s.onChip f)) (ho : ChipOnly bs s.dev.chip (f s.dev.chip)) (hp : P (f s.dev.chip)) : Leaves s i bs P :=
  ⟨_, hx, OnlyBlocks.onChip ho, hp⟩

/-- A command that asks for a Cold start and for nothing else. -/
theorem restarts_onAll {s : State} {i : Instr} {cause : Nat} {env : StartEnv} {f g : Chip → Chip} (hx : exec i s = .next (s.onAll f))
    (ha : (f s.dev.chip).asks = [.cold cause env]) (hg : { f s.dev.chip with asks := [] } = { g s.dev.chip with asks := [] }) :
    Restarts s i cause env g := by
  unfold Restarts
  rw [hx]
  simp only [State.onAll, State.onDevice, Device.modChip, restarted, Device.settle, Device.settleN, ha, Device.answerAsks, hg, reduceCtorEq,
    if_false]

/-- The same for a command of the main domain. -/
theorem restarts_onRun {s : State} {i : Instr} {cause : Nat} {env : StartEnv} {f g : Chip → Chip} (h : s.dev.chip.clk.running = true)
    (hx : exec i s = .next (s.onRun f)) (ha : (f s.dev.chip).asks = [.cold cause env])
    (hg : { f s.dev.chip with asks := [] } = { g s.dev.chip with asks := [] }) : Restarts s i cause env g := by
  refine restarts_onAll hx ?_ ?_
  · simp [h, ha]
  · simp [h, hg]

/-- Two chips that are spelled out differ only where they are seen to. -/
theorem ChipOnly.of_eq {bs : List Block} {c d : Chip} (ha : d.asks = c.asks) (h : ∀ b, b ∉ bs → sameOn b c d) : ChipOnly bs c d := ⟨ha, h⟩

theorem Chip.arise_logs (cls kind src data : Nat) (c : Chip) : c.arise cls kind src data = logs cls kind src data c := by
  unfold Chip.arise Chip.ariseRec logs arose recordNow Chip.modAcc Acc.enter Acc.lose laneSize
  cases c.acc.en <;> rfl

theorem Chip.timeEvent_logs (code detail data : Nat) (c : Chip) : c.timeEvent code detail data = logs clsTime 4 (code * 256 + detail) data c :=
  Chip.arise_logs ..

theorem Chip.phaseEvent_logs (code detail data : Nat) (c : Chip) :
    c.phaseEvent code detail data = logs clsTime 5 (code * 256 + detail) data c := Chip.arise_logs ..

theorem Chip.alert_alerted (m : Nat) (c : Chip) : c.alert m = alerted (BitVec.ofNat 8 m) c := rfl

theorem Chip.secEvent_logs (code detail data : Nat) (c : Chip) :
    Chip.secEvent code detail data c = logs clsSec 9 (code * 256 + detail) data (alerted (if code = 8 then 0x88 else 0x80) c) := by
  unfold Chip.secEvent
  rw [Chip.arise_logs, Chip.alert_alerted]
  split <;> rfl

theorem Chip.powerEvent_logs (code detail data : Nat) (c : Chip) :
    Chip.powerEvent code detail data c = logs clsSec 10 (code * 256 + detail) data (alerted (if code = 2 then 2 else 0) c) := by
  unfold Chip.powerEvent
  rw [Chip.arise_logs, Chip.alert_alerted]
  split <;> rfl

theorem Chip.healthEvent_logs (code detail data : Nat) (c : Chip) :
    Chip.healthEvent code detail data c
      = logs clsHealth 11 (code * 256 + detail) data (alerted (BitVec.ofNat 8 (Chip.healthAlert code)) c) := by
  unfold Chip.healthEvent
  rw [Chip.arise_logs, Chip.alert_alerted]

theorem Chip.setVal_withValue (idx sub : Nat) (v : Bytes) (c : Chip) : c.setVal idx sub v = withValue idx sub v c := rfl

@[simp] theorem alerted_zero (c : Chip) : alerted 0 c = c := by simp [alerted]

@[simp] theorem logs_asks (cls kind src data : Nat) (c : Chip) : (logs cls kind src data c).asks = c.asks := rfl

theorem logs_only {bs : List Block} (cls kind src data : Nat) (c : Chip) (h : Block.acc ∈ bs) : ChipOnly bs c (logs cls kind src data c) :=
  ⟨rfl, fun b hb => by cases b <;> first | rfl | exact absurd h hb⟩

theorem alerted_only {bs : List Block} (m : Byte) (c : Chip) (h : Block.rgr ∈ bs) : ChipOnly bs c (alerted m c) :=
  ⟨rfl, fun b hb => by cases b <;> first | rfl | exact absurd h hb⟩

theorem withValue_only {bs : List Block} (i j : Nat) (v : Bytes) (c : Chip) (h : Block.cat ∈ bs) : ChipOnly bs c (withValue i j v c) :=
  ⟨rfl, fun b hb => by cases b <;> first | rfl | exact absurd h hb⟩

end Sys2Proof.Machine
end

