-- ==== Sys2Proof/Laws/Jarley.lean ====
section
/-! SUPPORT. Jarley instructions that only send results on their way: one lemma turns the results of such an instruction into
`Computes`. -/

namespace Sys2Proof.Machine

open Sys2Proof

/-- What is asked of the device is unchanged by a fetch. -/
theorem fetched_asks (w : CoreId) (k : Core) (n : Nat) (c : Chip) : (c.fetched w k n).asks = c.asks := (Chip.fetched_only w k n c).1

namespace Core

theorem issued_seq_pc (words n : Nat) (k : Core) : (k.issued words .seq n).pc = seqPc k words := by
  rcases hb : k.branch with _ | ⟨_ | _ | m, t⟩ <;> simp [issued, advance, seqPc, hb] <;> cases t <;> simp

theorem issued_seq_branch (words n : Nat) (k : Core) : (k.issued words .seq n).branch = seqSlots k := by
  rcases hb : k.branch with _ | ⟨_ | _ | m, t⟩ <;> simp [issued, advance, seqSlots, hb]

theorem issued_seq_longMid (words n : Nat) (k : Core) : (k.issued words .seq n).longMid = false := by
  rcases hb : k.branch with _ | ⟨_ | _ | m, t⟩ <;> simp [issued, advance, hb]

theorem issued_slot (words n : Nat) (fl : Flow) (k : Core) : (k.issued words fl n).slot = k.slot + 1 := by
  unfold issued advance; split <;> (try split) <;> rfl

/-- Progress leaves what a core computes with. -/
theorem issued_keeps (words n : Nat) (fl : Flow) (k : Core) :
    (k.issued words fl n).regs = k.regs ∧ (k.issued words fl n).st = k.st ∧ (k.issued words fl n).flight = k.flight ∧
    (k.issued words fl n).wt = k.wt ∧ (k.issued words fl n).vbase = k.vbase ∧ (k.issued words fl n).fwt = k.fwt ∧
    (k.issued words fl n).trap = k.trap ∧ (k.issued words fl n).lock = k.lock ∧ (k.issued words fl n).rsLost = k.rsLost ∧
    (k.issued words fl n).stack = k.stack ∧ (k.issued words fl n).alarm = k.alarm ∧ (k.issued words fl n).wbuf = k.wbuf ∧
    (k.issued words fl n).frozen = k.frozen ∧ (k.issued words fl n).waiting = k.waiting ∧
    (k.issued words fl n).halted = k.halted ∧ (k.issued words fl n).haltReq = k.haltReq ∧
    (k.issued words fl n).stepping = k.stepping ∧ (k.issued words fl n).running = k.running := by
  unfold issued advance
  split <;> (try split) <;> simp

/-- Landings on two cores that agree where results land agree there. -/
theorem landAll_congr (ls : List Landing) (k k' : Core) (h : k'.regs = k.regs ∧ k'.st = k.st ∧ k'.wt = k.wt ∧ k'.vbase = k.vbase) :
    (landAll ls k').regs = (landAll ls k).regs ∧ (landAll ls k').st = (landAll ls k).st ∧
    (landAll ls k').wt = (landAll ls k).wt ∧ (landAll ls k').vbase = (landAll ls k).vbase := by
  induction ls generalizing k k' with
  | nil => exact h
  | cons l ls ih =>
    refine ih _ _ ?_
    obtain ⟨h1, h2, h3, h4⟩ := h
    unfold landOne; split <;> simp [h1, h2, h3, h4]

/-- The core with results on their way, once all have landed: those results last. -/
theorem fly_complete (ls : List Landing) (k k' : Core)
    (h : k'.regs = k.regs ∧ k'.st = k.st ∧ k'.flight = (k.fly ls).flight ∧ k'.wt = k.wt ∧ k'.vbase = k.vbase) :
    k'.complete.regs = (landAll ls k.complete).regs ∧ k'.complete.st = (landAll ls k.complete).st ∧
    k'.complete.wt = (landAll ls k.complete).wt ∧ k'.complete.vbase = (landAll ls k.complete).vbase := by
  obtain ⟨h1, h2, h3, h4, h5⟩ := h
  have e : k'.flight = k.flight ++ ls := h3
  simp only [complete, e, landAll_append]
  have a := landAll_congr k.flight k k' ⟨h1, h2, h4, h5⟩
  have b := landAll_congr ls (landAll k.flight k) (landAll k.flight k') a
  have c := landAll_congr ls (landAll k.flight k) { landAll k.flight k with flight := [] } ⟨rfl, rfl, rfl, rfl⟩
  exact ⟨b.1.trans c.1.symm, b.2.1.trans c.2.1.symm, b.2.2.1.trans c.2.2.1.symm, b.2.2.2.trans c.2.2.2.symm⟩

end Core

/-- The device after an instruction that ran to its end. -/
theorem State.issue_done (s : State) (w : CoreId) (words : Nat) (noSlot : Bool) (body : Device → Core → Issued) (h : CanRun s w words)
    (hs : noSlot = true → (s.dev.core w).branch = none) (d' : Device) (k' : Core) (fl : Flow) (n : Nat)
    (hb : body (s.dev.modChip (Chip.fetched w (s.dev.core w) words)) (operandsOf s w) = .done d' k' fl n)
    (ha : d'.chip.asks = []) (h1 : k'.stepping = (operandsOf s w).stepping) (h2 : k'.haltReq = (operandsOf s w).haltReq) :
    ∃ m, s.issue w words noSlot body = { s with dev := d'.setCore w (k'.issued words fl m) } := by
  have hk : (noSlot && (operandsOf s w).branch.isSome) = false := by
    cases noSlot
    · rfl
    · have := hs rfl
      simp [operandsOf, Core.arrive_branch, this]
  rw [State.issue_canRun s w words noSlot body h, hk]
  obtain ⟨_, _, _, _, h3, h4⟩ := h
  simp only [Bool.false_eq_true, if_false, hb, Device.finish]
  generalize (n + if (s.dev.core w).longMid = true then 0 else s.dev.chip.fetchWait w (s.dev.core w) words) = m
  refine ⟨m, ?_⟩
  have e := Core.issued_keeps words m fl k'
  rw [Device.boundary_quiet, Device.settle_quiet]
  · simpa using ha
  · simp only [Device.core_setCore, e.2.2.2.2.2.2.2.2.2.2.2.2.2.2.2.2.1, h1, operandsOf, Core.arrive_stepping, h3]
  · simp only [Device.core_setCore, e.2.2.2.2.2.2.2.2.2.2.2.2.2.2.2.1, h2, operandsOf, Core.arrive_haltReq, h4]

/-! ## What the landings of each shape do -/

/-- Landings write the listed registers and flags, and neither WT nor VBASE. -/
def Lands (regs : List (Fin 16 × Byte)) (f : Option FlagEffect) (ls : List Landing) : Prop :=
  ∀ k, RegsAre regs k (Core.landAll ls k) ∧ FlagsAre f k (Core.landAll ls k) ∧ (Core.landAll ls k).wt = k.wt ∧
    (Core.landAll ls k).vbase = k.vbase

/-- An instruction that sends results on their way and buffers stores. -/
theorem computes_of_done (s : State) (i : Instr) (w : CoreId) (words : Nat) (dist : Fin 16 → Nat) (regs : List (Fin 16 × Byte))
    (f : Option FlagEffect) (noSlot : Bool) (body : Device → Core → Issued) (ls : List Landing) (b : List BufStore) (n : Nat) (c' : Chip)
    (hx : exec i s = .next (s.issue w words noSlot body)) (h : CanRun s w words) (hs : noSlot = true → (s.dev.core w).branch = none)
    (hb : body (s.dev.modChip (Chip.fetched w (s.dev.core w) words)) (operandsOf s w)
      = .done { s.dev with chip := c' } ({ operandsOf s w with wbuf := (operandsOf s w).wbuf ++ b }.fly ls) .seq n)
    (hc : c'.asks = []) (hl : Lands regs f ls)
    (hd : ∀ l ∈ ls, l.due = (s.dev.core w).slot + (match l.target with | .reg r => dist r | _ => 2)) :
    ComputesWith s i w words c' dist regs f b := by
  obtain ⟨m, hm⟩ := State.issue_done s w words noSlot body h hs _ _ _ _ hb hc rfl rfl
  refine ⟨_, hx, ?_⟩
  rw [hm]
  let k0 : Core := { operandsOf s w with wbuf := (operandsOf s w).wbuf ++ b }
  have e := Core.issued_keeps words m .seq (k0.fly ls)
  have q := Core.fly_complete ls (operandsOf s w) ((k0.fly ls).issued words .seq m)
    ⟨e.1, e.2.1, e.2.2.1, e.2.2.2.1, e.2.2.2.2.1⟩
  have l := hl (operandsOf s w).complete
  refine ⟨rfl, ?_, ?_, ?_, ?_, ?_, ?_, ?_, ?_, ?_⟩
  · simp
  · simp
  · simpa [k0, Core.fly] using e.1
  · simpa [k0, Core.fly] using e.2.1
  · intro r
    have := l.1 r
    simpa [Core.byte, q.1, k0] using this
  · have := l.2.1
    unfold FlagsAre at *
    split at this <;> simpa [q.2.1, k0] using this
  · simp only [Device.core_setCore]
    have cg := Core.landAll_congr (operandsOf s w).flight (operandsOf s w) k0 ⟨rfl, rfl, rfl, rfl⟩
    refine ⟨(q.2.2.1.trans l.2.2.1).trans cg.2.2.1.symm, (q.2.2.2.trans l.2.2.2).trans cg.2.2.2.symm, ?_⟩
    simp only [k0] at e
    simp only [e]
    simp [Core.fly]
  · simp only [Device.core_setCore]
    refine ⟨?_, ?_, Core.issued_seq_longMid .., ?_⟩
    · rw [Core.issued_seq_pc]
      simp only [seqPc, operandsOf, Core.fly, Core.arrive_pc, Core.arrive_branch]
    · rw [Core.issued_seq_branch]
      simp only [seqSlots, operandsOf, Core.fly, Core.arrive_branch]
    · rw [Core.issued_slot]
      simp [Core.fly, operandsOf, Core.arrive_slot]
  · intro x hx
    simp only [Device.core_setCore] at hx
    rw [e.2.2.1] at hx
    rcases List.mem_append.1 hx with hx | hx
    · exact .inl hx
    · exact .inr (hd x hx)

/-- An instruction that only sends results on their way. -/
theorem computes_of_fly (s : State) (i : Instr) (w : CoreId) (words dist : Nat) (regs : List (Fin 16 × Byte)) (f : Option FlagEffect)
    (ls : List Landing) (g : Core → Core) (hx : exec i s = .next (s.alu w words g)) (h : CanRun s w words)
    (hb : g (operandsOf s w) = (operandsOf s w).fly ls) (hl : Lands regs f ls)
    (hd : ∀ l ∈ ls, l.due = (s.dev.core w).slot + (match l.target with | .reg _ => dist | _ => 2)) :
    Computes s i w words dist regs f :=
  computes_of_done s i w words _ regs f false _ ls [] 1 _ hx h (by simp) (by simp [hb, Core.fly, Device.modChip])
    (by rw [fetched_asks, h.1]) hl hd

theorem lands_byte (k : Core) (n : Nat) (d : Fin 16) (v : Byte) : Lands [(d, v)] none (k.landByte n d v) := by
  intro K
  refine ⟨fun r => ?_, rfl, rfl, rfl⟩
  by_cases h : d = r
  · subst h; simp [Core.landByte, Core.land, Core.landOne, Core.byte]
  · have : d.val ≠ r.val := fun e => h (Fin.ext e)
    simp [Core.landByte, Core.land, Core.landOne, Core.byte, h, this]

theorem lands_pair (k : Core) (n : Nat) (d : Fin 8) (v : Half) :
    Lands [(loReg d, v.setWidth 8), (hiReg d, (v >>> 8).setWidth 8)] none (k.landPair n d v) := by
  intro K
  refine ⟨fun r => ?_, rfl, rfl, rfl⟩
  have e : BitVec.setWidth 8 (BitVec.setWidth 32 v >>> 8) = (v >>> 8).setWidth 8 := by
    apply BitVec.eq_of_getLsbD_eq; intro i hi; simp [hi]; intro; omega
  by_cases h : loReg d = r
  · subst h
    simp [Core.landPair, Core.land, Core.landOne, Core.byte, loReg, hiReg]
  · have h1 : 2 * d.val ≠ r.val := fun e => h (Fin.ext e)
    by_cases h' : hiReg d = r
    · subst h'
      simp [Core.landPair, Core.land, Core.landOne, Core.byte, loReg, hiReg, e]
    · have h2 : 2 * d.val + 1 ≠ r.val := fun e => h' (Fin.ext e)
      simp [Core.landPair, Core.land, Core.landOne, Core.byte, loReg, hiReg, h1, h2, Fin.ext_iff]

/-- Registers first, then the flags. -/
theorem lands_append {regs : List (Fin 16 × Byte)} {f : Option FlagEffect} {a b : List Landing}
    (ha : Lands regs none a) (hb : Lands [] f b) : Lands regs f (a ++ b) := by
  intro K
  have x := ha K
  have y := hb (Core.landAll a K)
  rw [Core.landAll_append]
  refine ⟨fun r => ?_, ?_, y.2.2.1.trans x.2.2.1, y.2.2.2.trans x.2.2.2⟩
  · have := y.1 r
    simp at this
    rw [this, x.1 r]
  · have hx : (Core.landAll a K).st = K.st := x.2.1
    have := y.2.1
    unfold FlagsAre at *
    split <;> simpa [hx] using this

theorem lands_regs_append {r1 r2 : List (Fin 16 × Byte)} {a b : List Landing} (ha : Lands r1 none a) (hb : Lands r2 none b) :
    Lands (r2 ++ r1) none (a ++ b) := by
  intro K
  have x := ha K
  have y := hb (Core.landAll a K)
  rw [Core.landAll_append]
  refine ⟨fun r => ?_, ?_, y.2.2.1.trans x.2.2.1, y.2.2.2.trans x.2.2.2⟩
  · rw [y.1 r, x.1 r, List.find?_append]
    cases List.find? (fun e => e.1 == r) r2 <;> simp
  · exact Eq.trans y.2.1 x.2.1

theorem lands_nil : Lands [] none [] := fun _ => ⟨fun _ => rfl, rfl, rfl, rfl⟩

@[simp] theorem bitWord_bit (b : Bool) : (Core.bitWord b).getLsbD 0 = b := by cases b <;> rfl

theorem stBit_getLsbD (i j : Nat) (b : Bool) (st : Half) (hj : j < 16) :
    (stBit i b st).getLsbD j = if i = j then b else st.getLsbD j := by
  have e : (BitVec.ofNat 16 (2 ^ i)).getLsbD j = decide (i = j) := by
    rw [BitVec.getLsbD_ofNat, Nat.testBit_two_pow]; simp [hj]
  have f : (~~~BitVec.ofNat 16 (2 ^ i)).getLsbD j = !decide (i = j) := by
    rw [BitVec.getLsbD_not, e]; simp [hj]
  cases b
  · simp only [stBit, Bool.false_eq_true, if_false, BitVec.getLsbD_and, f]
    by_cases h : i = j <;> simp [h]
  · simp only [stBit, if_true, BitVec.getLsbD_or, e]
    by_cases h : i = j <;> simp [h]

/-- The bits 15:4 do not see a flag. -/
theorem stBit_high (i : Nat) (b : Bool) (st : Half) (hi : i < 4) : stBit i b st &&& 0xFFF0 = st &&& 0xFFF0 := by
  have m : ∀ j : Fin 16, (0xFFF0#16).getLsbD j.val = decide (4 ≤ j.val) := by decide
  apply BitVec.eq_of_getLsbD_eq
  intro j hj
  have := m ⟨j, hj⟩
  rw [BitVec.getLsbD_and, BitVec.getLsbD_and, stBit_getLsbD i j b st hj, show (0xFFF0 : Half).getLsbD j = decide (4 ≤ j) from this]
  by_cases h : 4 ≤ j
  · rw [if_neg (by omega)]
  · simp [h]

theorem stBit_flags (st : Half) (c z n v : Bool) :
    let x := stBit 3 v (stBit 2 n (stBit 1 z (stBit 0 c st)))
    flagC x = c ∧ flagZ x = z ∧ flagN x = n ∧ flagV x = v ∧ x &&& 0xFFF0 = st &&& 0xFFF0 := by
  refine ⟨?_, ?_, ?_, ?_, ?_⟩
  · simp only [flagC, stBit_getLsbD, Nat.reduceLT]; rfl
  · simp only [flagZ, stBit_getLsbD, Nat.reduceLT]; rfl
  · simp only [flagN, stBit_getLsbD, Nat.reduceLT]; rfl
  · simp only [flagV, stBit_getLsbD, Nat.reduceLT]; rfl
  · simp only [stBit_high _ _ _ (show 0 < 4 by decide), stBit_high _ _ _ (show 1 < 4 by decide),
      stBit_high _ _ _ (show 2 < 4 by decide), stBit_high _ _ _ (show 3 < 4 by decide)]

theorem lands_flags {w : Nat} (k : Core) (r : AluRes w) : Lands [] (some (r.carry, r.zero, r.neg, r.ovf)) (k.landFlags r) := by
  intro K
  unfold Core.landFlags
  cases hc : r.carry with
  | none =>
    refine ⟨fun _ => rfl, ?_, rfl, rfl⟩
    have := stBit_flags K.st (flagC K.st) r.zero r.neg r.ovf
    simp only [FlagsAre, List.nil_append, Core.landAll_cons, Core.landAll_nil, Core.land, Core.landOne, bitWord_bit, Option.getD_none]
    refine ⟨?_, ?_, ?_, ?_, ?_⟩
    · simp only [flagC, stBit_getLsbD, Nat.reduceLT]; rfl
    · simp only [flagZ, stBit_getLsbD, Nat.reduceLT]; rfl
    · simp only [flagN, stBit_getLsbD, Nat.reduceLT]; rfl
    · simp only [flagV, stBit_getLsbD, Nat.reduceLT]; rfl
    · simp only [stBit_high _ _ _ (show 1 < 4 by decide), stBit_high _ _ _ (show 2 < 4 by decide),
        stBit_high _ _ _ (show 3 < 4 by decide)]
  | some c =>
    refine ⟨fun _ => rfl, ?_, rfl, rfl⟩
    simpa only [FlagsAre, List.cons_append, List.nil_append, Core.landAll_cons, Core.landAll_nil, Core.land, Core.landOne, bitWord_bit,
      Option.getD_some] using stBit_flags K.st c r.zero r.neg r.ovf

/-- The results of a byte ALU instruction. -/
theorem lands_aluByte (k : Core) (d : Fin 16) (r : AluRes 8) :
    Lands [(d, r.val)] (some (r.carry, r.zero, r.neg, r.ovf)) (k.landByte 2 d r.val ++ k.landFlags r) :=
  lands_append (lands_byte k 2 d r.val) (lands_flags k r)

/-- The results of a pair ALU instruction. -/
theorem lands_aluPair (k : Core) (d : Fin 8) (r : AluRes 16) :
    Lands [(loReg d, r.val.setWidth 8), (hiReg d, (r.val >>> 8).setWidth 8)] (some (r.carry, r.zero, r.neg, r.ovf))
      (k.landPair 2 d r.val ++ k.landFlags r) :=
  lands_append (lands_pair k 2 d r.val) (lands_flags k r)

/-- Distances of the results of each shape. -/
theorem due_byte (k : Core) (n : Nat) (d : Fin 16) (v : Byte) :
    ∀ l ∈ k.landByte n d v, l.due = k.slot + n ∧ ∃ r, l.target = .reg r := by simp [Core.landByte, Core.land]
theorem due_pair (k : Core) (n : Nat) (d : Fin 8) (v : Half) :
    ∀ l ∈ k.landPair n d v, l.due = k.slot + n ∧ ∃ r, l.target = .reg r := by simp [Core.landPair, Core.land]
theorem due_quad (k : Core) (n : Nat) (d : Fin 8) (v : Word) :
    ∀ l ∈ k.landQuad n d v, l.due = k.slot + n ∧ ∃ r, l.target = .reg r := by simp [Core.landQuad, Core.landPair, Core.land]
theorem due_flags {w : Nat} (k : Core) (r : AluRes w) :
    ∀ l ∈ k.landFlags r, l.due = k.slot + 2 ∧ ∀ q, l.target ≠ .reg q := by
  cases h : r.carry <;> simp [Core.landFlags, Core.land, h]

/-- An instruction that begins delay slots. -/
theorem delays_of_done (s : State) (i : Instr) (w : CoreId) (words : Nat) (target : Option Half) (stack : List StackEntry) (lost : Bool)
    (body : Device → Core → Issued) (n : Nat) (hx : exec i s = .next (s.issue w words true body)) (h : CanRun s w words)
    (hs : (s.dev.core w).branch = none)
    (hb : body (s.dev.modChip (Chip.fetched w (s.dev.core w) words)) (operandsOf s w)
      = .done (s.dev.modChip (Chip.fetched w (s.dev.core w) words)) { operandsOf s w with stack := stack, rsLost := lost }
        (.delayed target) n) :
    Delays s i w words target stack lost := by
  obtain ⟨m, hm⟩ := State.issue_done s w words true body h (fun _ => hs) _ _ _ _ hb (by simp [fetched_asks, h.1]) rfl rfl
  refine ⟨_, hx, ?_⟩
  rw [hm]
  refine ⟨rfl, by simp, by simp, ?_⟩
  simp [Core.issued, Core.advance, operandsOf, Core.arrive_pc, Core.arrive_slot]

/-! ## The results as Safety.lean writes them -/

/-- A result as value and flags. -/
def AluRes.out {w : Nat} (r : AluRes w) : BitVec w × FlagEffect := (r.val, r.carry, r.zero, r.neg, r.ovf)

theorem aluAdd_out {w : Nat} (a b : BitVec w) (y : Bool) : (aluAdd a b y).out = sumOf a b y := by
  have e : a + b + BitVec.ofNat w (bit y) = BitVec.ofNat w (a.toNat + b.toNat + bit y) := by
    apply BitVec.eq_of_toNat_eq; simp [BitVec.toNat_add]
  simp only [AluRes.out, sumOf, aluAdd, AluRes.zero, AluRes.neg, e, outOfRange]
  simp

theorem aluSub_out {w : Nat} (a b : BitVec w) (y : Bool) : (aluSub a b y).out = differenceOf a b y := by
  have e : a - b - BitVec.ofNat w (bit y) = BitVec.ofInt w ((a.toNat : Int) - b.toNat - bit y) := by
    simp [Int.sub_eq_add_neg, BitVec.ofInt_add, BitVec.ofInt_neg, BitVec.ofInt_natCast, BitVec.sub_eq_add_neg]
  simp only [AluRes.out, differenceOf, aluSub, AluRes.zero, AluRes.neg, e, outOfRange]
  simp

theorem aluLogic_out {w : Nat} (v : BitVec w) : (aluLogic v).out = logicOf v := rfl

theorem aluShl_out {w : Nat} (a : BitVec w) (n : Nat) : (aluShl a n).out = leftOf a n := by
  have e : a <<< n = BitVec.ofNat w (a.toNat * 2 ^ n) := by
    apply BitVec.eq_of_toNat_eq; simp [Nat.shiftLeft_eq]
  simp only [AluRes.out, aluShl, leftOf, aluShift, shiftedOf, AluRes.zero, AluRes.neg, e]

theorem aluShr_out {w : Nat} (a : BitVec w) (n : Nat) : (aluShr a n).out = rightOf a n := by
  have e : a >>> n = BitVec.ofNat w (a.toNat / 2 ^ n) := by
    apply BitVec.eq_of_toNat_eq; simp [Nat.shiftRight_eq_div_pow]
    exact (Nat.mod_eq_of_lt (Nat.lt_of_le_of_lt (Nat.div_le_self _ _) a.isLt)).symm
  simp only [AluRes.out, aluShr, rightOf, aluShift, shiftedOf, AluRes.zero, AluRes.neg, e]

theorem aluAsr_out {w : Nat} (a : BitVec w) (n : Nat) : (aluAsr a n).out = arithOf a n := by
  have e : a.sshiftRight n = BitVec.ofInt w (a.toInt / 2 ^ n) := by
    simp [BitVec.sshiftRight, Int.shiftRight_eq_div_pow]
  simp only [AluRes.out, aluAsr, arithOf, aluShift, shiftedOf, AluRes.zero, AluRes.neg, e]

theorem aluRol_out {w : Nat} (a : BitVec w) (n : Nat) (h : n < w) : (aluRol a n).out = rotLeftOf a n := by
  have e : a.rotateLeft n = a <<< n ||| a >>> (w - n) := by
    simp [BitVec.rotateLeft, BitVec.rotateLeftAux, Nat.mod_eq_of_lt h]
  simp only [AluRes.out, aluRol, rotLeftOf, aluShift, shiftedOf, AluRes.zero, AluRes.neg, e]

theorem aluRor_out {w : Nat} (a : BitVec w) (n : Nat) (h : n < w) : (aluRor a n).out = rotRightOf a n := by
  have e : a.rotateRight n = a >>> n ||| a <<< (w - n) := by
    simp [BitVec.rotateRight, BitVec.rotateRightAux, Nat.mod_eq_of_lt h]
  simp only [AluRes.out, aluRor, rotRightOf, aluShift, shiftedOf, AluRes.zero, AluRes.neg, e]

/-! ## One lemma per shape of instruction -/

theorem computes_aluByte (s : State) (i : Instr) (w : CoreId) (words : Nat) (d : Fin 16) (f : Core → AluRes 8) (h : CanRun s w words)
    (hx : exec i s = .next (s.alu w words fun k => k.aluByte d (f k) true)) : SetsByte s i w words d (f (operandsOf s w)).out := by
  refine computes_of_fly _ _ _ _ _ _ _ _ _ hx h rfl (lands_aluByte _ _ _) ?_
  intro l hl
  rcases List.mem_append.1 hl with hl | hl
  · obtain ⟨a, q, b⟩ := due_byte _ _ _ _ l hl
    simp [a, b, operandsOf, Core.arrive_slot]
  · obtain ⟨a, b⟩ := due_flags _ _ l hl
    rw [a]; simp only [operandsOf, Core.arrive_slot]

theorem computes_aluPair (s : State) (i : Instr) (w : CoreId) (words : Nat) (d : Fin 8) (f : Core → AluRes 16) (h : CanRun s w words)
    (hx : exec i s = .next (s.alu w words fun k => k.aluPair d (f k) true)) : SetsPair s i w words d (f (operandsOf s w)).out := by
  refine computes_of_fly _ _ _ _ _ _ _ _ _ hx h rfl (lands_aluPair _ _ _) ?_
  intro l hl
  rcases List.mem_append.1 hl with hl | hl
  · obtain ⟨a, q, b⟩ := due_pair _ _ _ _ l hl
    simp [a, b, operandsOf, Core.arrive_slot]
  · obtain ⟨a, b⟩ := due_flags _ _ l hl
    rw [a]; simp only [operandsOf, Core.arrive_slot]

/-- CMP and TST in their forms. -/
theorem computes_flags {n : Nat} (s : State) (i : Instr) (w : CoreId) (words : Nat) (f : Core → AluRes n) (h : CanRun s w words)
    (g : Core → Core) (hx : exec i s = .next (s.alu w words g)) (hg : ∀ k, g k = k.fly (k.landFlags (f k))) :
    SetsFlags s i w words (f (operandsOf s w)).out := by
  refine computes_of_fly _ _ _ _ _ _ _ _ _ hx h (hg _) (lands_flags _ _) ?_
  intro l hl
  obtain ⟨a, b⟩ := due_flags _ _ l hl
  rw [a]; simp only [operandsOf, Core.arrive_slot]

/-- Instructions that write registers and no flag. -/
theorem computes_regs (s : State) (i : Instr) (w : CoreId) (words n : Nat) (regs : List (Fin 16 × Byte)) (g : Core → List Landing)
    (h : CanRun s w words) (hx : exec i s = .next (s.alu w words fun k => k.fly (g k))) (hl : Lands regs none (g (operandsOf s w)))
    (hd : ∀ l ∈ g (operandsOf s w), l.due = (operandsOf s w).slot + n ∧ ∃ r, l.target = .reg r) :
    Computes s i w words n regs none := by
  refine computes_of_fly _ _ _ _ _ _ _ _ _ hx h rfl hl ?_
  intro l hl
  obtain ⟨a, q, b⟩ := hd l hl
  simp [a, b, operandsOf, Core.arrive_slot]

end Sys2Proof.Machine
end

