-- ==== Sys2Proof/Laws/Memory.lean ====
section
/-! SUPPORT. Memories as canonical lists: a byte read after a write, every other byte, and the form that every operation keeps. -/

namespace Sys2Proof.Machine

open Sys2Proof

/-! ## Keyed lists -/

/-- Keys strictly rise from above `lo`. -/
def keysFrom {α : Type} : Option Nat → List (Nat × α) → Prop
  | _, [] => True
  | lo, (a, _) :: r => (∀ l ∈ lo, l < a) ∧ keysFrom (some a) r

theorem keysFrom_mono {α : Type} {m : List (Nat × α)} {lo lo' : Option Nat} (h : keysFrom lo m) (hl : ∀ x ∈ lo', ∃ y ∈ lo, x ≤ y) :
    keysFrom lo' m := by
  cases m with
  | nil => trivial
  | cons e r =>
    refine ⟨fun l hl' => ?_, h.2⟩
    obtain ⟨y, hy, hxy⟩ := hl l hl'
    have := h.1 y hy
    omega

theorem assoc_assocIns {α : Type} (m : List (Nat × α)) (k j : Nat) (x : α) :
    assoc j (assocIns k x m) = if j = k then some x else assoc j m := by
  induction m with
  | nil => by_cases h : j = k <;> simp [assocIns, assoc, h]; exact fun e => h e.symm
  | cons e r ih =>
    obtain ⟨a, b⟩ := e
    simp only [assocIns]
    split
    · by_cases hj : a = j
      · subst hj; simp [assoc, show a ≠ k by omega]
      · simp [assoc, hj, ih]
    · split
      · rename_i _ e
        subst e
        by_cases hj : j = a
        · subst hj; simp [assoc]
        · have : a ≠ j := fun e => hj e.symm
          simp [assoc, hj, this]
      · by_cases hj : j = k
        · subst hj; simp [assoc]
        · have : k ≠ j := fun e => hj e.symm
          simp [assoc, hj, this]

theorem assoc_filter {α : Type} (m : List (Nat × α)) (k j : Nat) :
    assoc j (m.filter fun e => e.1 != k) = if j = k then none else assoc j m := by
  induction m with
  | nil => simp [assoc]
  | cons e r ih =>
    obtain ⟨a, b⟩ := e
    by_cases ha : a = k
    · subst ha
      by_cases hj : j = a
      · subst hj; simpa using ih
      · have : a ≠ j := fun e => hj e.symm
        simpa [assoc, this, hj] using ih
    · by_cases hj : a = j
      · subst hj; simp [assoc, ha]
      · simp [assoc, ha, hj, ih]

/-- A key just bound reads as bound; every other key as before. -/
theorem assoc_assocPut {α : Type} (m : List (Nat × α)) (k j : Nat) (v : Option α) :
    assoc j (assocPut k v m) = if j = k then v else assoc j m := by
  cases v with
  | none => exact assoc_filter m k j
  | some x => exact assoc_assocIns m k j x

theorem keysFrom_filter {α : Type} (p : Nat × α → Bool) (m : List (Nat × α)) (lo : Option Nat) (h : keysFrom lo m) :
    keysFrom lo (m.filter p) := by
  induction m generalizing lo with
  | nil => trivial
  | cons e r ih =>
    simp only [List.filter]
    split
    · exact ⟨h.1, ih _ h.2⟩
    · exact ih _ (keysFrom_mono h.2 fun x hx => ⟨e.1, rfl, Nat.le_of_lt (h.1 x hx)⟩)

theorem assocIns_keys {α : Type} (m : List (Nat × α)) (lo : Option Nat) (h : keysFrom lo m) (k : Nat) (hk : ∀ l ∈ lo, l < k)
    (x : α) : keysFrom lo (assocIns k x m) := by
  induction m generalizing lo with
  | nil => exact ⟨hk, trivial⟩
  | cons e r ih =>
    obtain ⟨a, b⟩ := e
    simp only [assocIns]
    split
    · rename_i hlt
      exact ⟨h.1, ih (some a) h.2 (by simpa using hlt)⟩
    · split
      · rename_i _ e
        subst e
        exact ⟨h.1, h.2⟩
      · exact ⟨hk, ⟨by simp; omega, h.2⟩⟩

theorem assocPut_keys {α : Type} (m : List (Nat × α)) (h : keysFrom none m) (k : Nat) (v : Option α) : keysFrom none (assocPut k v m) := by
  cases v with
  | none => exact keysFrom_filter _ m none h
  | some x => exact assocIns_keys m none h k (by simp) x

theorem assocPut_values {α : Type} (m : List (Nat × α)) (k : Nat) (v : Option α) : ∀ e ∈ assocPut k v m, e ∈ m ∨ some e.2 = v := by
  cases v with
  | none => exact fun e he => .inl (List.mem_filter.1 he).1
  | some x =>
    induction m with
    | nil => simp [assocPut, assocIns]
    | cons y r ih =>
      intro e
      simp only [assocPut, assocIns] at ih ⊢
      split
      · intro h
        rcases List.mem_cons.1 h with h | h
        · exact .inl (h ▸ List.mem_cons_self)
        · exact (ih e h).imp (List.mem_cons_of_mem _) id
      · split
        · intro h
          rcases List.mem_cons.1 h with h | h
          · exact .inr (by rw [h])
          · exact .inl (List.mem_cons_of_mem _ h)
        · intro h
          rcases List.mem_cons.1 h with h | h
          · exact .inr (by rw [h])
          · exact .inl h

/-! ## Memories -/

theorem Cells.wfFrom_iff (d : Byte) (lo : Option Nat) (m : Cells) :
    m.wfFrom d lo = true ↔ keysFrom lo m ∧ ∀ e ∈ m, e.2 ≠ d := by
  induction m generalizing lo with
  | nil => simp [wfFrom, keysFrom]
  | cons e r ih =>
    obtain ⟨a, b⟩ := e
    cases lo with
    | none => simp [wfFrom, keysFrom, ih, and_left_comm]
    | some l => simp [wfFrom, keysFrom, ih, and_left_comm, and_assoc]

/-- A written byte reads back; every other byte reads as before. -/
theorem Cells.get_put (d : Byte) (m : Cells) (a x : Nat) (b : Byte) : (m.put d a b).get d x = if x = a then b else m.get d x := by
  unfold Cells.get Cells.put
  rw [assoc_assocPut]
  by_cases hx : x = a
  · by_cases hb : b = d <;> simp [hx, hb]
  · simp [hx]

/-- After a write of several bytes: those bytes, and every other as before. -/
theorem Cells.get_write (d : Byte) (m : Cells) (a x : Nat) (bs : Bytes) :
    (m.write d a bs).get d x = if a ≤ x ∧ x < a + bs.length then bs.getD (x - a) 0 else m.get d x := by
  induction bs generalizing m a with
  | nil => rw [if_neg fun h => absurd (Nat.lt_of_le_of_lt h.1 h.2) (by simp)]; rfl
  | cons b bs ih =>
    rw [Cells.write, ih, Cells.get_put]
    by_cases h1 : x = a
    · subst h1
      rw [if_neg (by omega), if_pos rfl, if_pos (by simp)]
      simp
    · by_cases h2 : a + 1 ≤ x ∧ x < a + 1 + bs.length
      · have : x - a = (x - (a + 1)) + 1 := by omega
        simp [h2, this, show a ≤ x by omega, show x < a + (bs.length + 1) by omega]
      · rw [if_neg h2, if_neg h1, if_neg (by simp; omega)]

/-- A write keeps the canonical form. -/
theorem Cells.put_wf (d : Byte) (m : Cells) (h : m.wf d = true) (a : Nat) (b : Byte) : (m.put d a b).wf d = true := by
  have hw := (Cells.wfFrom_iff d none m).1 h
  refine (Cells.wfFrom_iff d none _).2 ⟨assocPut_keys m hw.1 a _, fun e he => ?_⟩
  rcases assocPut_values _ _ _ e he with h' | h'
  · exact hw.2 e h'
  · by_cases hb : b = d
    · simp [hb] at h'
    · simp [hb] at h'; rwa [h']

theorem Cells.write_wf (d : Byte) (m : Cells) (h : m.wf d = true) (a : Nat) (bs : Bytes) : (m.write d a bs).wf d = true := by
  induction bs generalizing m a with
  | nil => exact h
  | cons b bs ih => exact ih _ (Cells.put_wf d m h a b) _

/-- Clearing keeps the canonical form. -/
theorem Cells.clear_wf (d : Byte) (m : Cells) (h : m.wf d = true) (a n : Nat) : (m.clear a n).wf d = true := by
  have hw := (Cells.wfFrom_iff d none m).1 h
  exact (Cells.wfFrom_iff d none _).2 ⟨keysFrom_filter _ m none hw.1, fun e he => hw.2 e (List.mem_filter.1 he).1⟩

/-- What an unlisted address of the canonical form reads as is said once: the empty memory is canonical. -/
theorem Cells.empty_wf (d : Byte) : Cells.wf d [] = true := rfl

end Sys2Proof.Machine
end

