-- ==== Sys2Proof/WellFormed.lean ====
section
/-! DEFINITION. The operands that the world outside can bring. The types of `Instr` fix most of them; what a type leaves too wide
is checked here. `exec` has an answer for the others too. -/

namespace Sys2Proof

/-- Data lengths of a CAN FD frame, and of a classical one (09 R382, R391; ISO 11898-1, log 20). -/
def canLengths (fd : Bool) : List Nat := List.range 9 ++ if fd then [12, 16, 20, 24, 32, 48, 64] else []

/-- A frame's identifier and length fit its format; an FD frame is no remote frame (ISO 11898-1, log 20). -/
def canOk (h : CanHead) (d : Bytes) : Bool :=
  h.id < (if h.ext then 536870912 else 2048) && !(h.fd && h.rtr) && (canLengths h.fd).contains d.length && (!h.rtr || d = [])

/-- A host frame carries at most 256 payload bytes (08 R352, Table 08-1). -/
def payloadOk (p : Bytes) : Bool := p.length ≤ 256

/-- A short APDU carries at most 255 data bytes (10 R450). -/
def apduOk (a : Apdu) : Bool := a.data.length ≤ 255 && a.lc ≤ 255

/-- Bit errors lie in the 4 KB of the OTP (13 R549). -/
def sensingOk (s : Sensing) : Bool := s.all fun p => (p.1 ++ p.2).all fun e => e.1 < 4096

def envOk (e : StartEnv) : Bool :=
  sensingOk e.sensing && (e.keyFaults.all fun n => n < 9 || (16 ≤ n && n < 32)) && (e.busFaults.all fun x => x.1 < 7) &&
  e.epochFaults < 512 && e.heldCeilings.all (· < 4)

/-- The checks. -/
def Instr.wf : Instr → Bool
  | .powerGood env | .resetNReleased env | .startTimerExpiry env | .retry _ env | .retryWithOverride _ env => envOk env
  | .fieldOn senses faults => sensingOk [senses] && faults.all fun n => n = 7 || n = 23
  | .shadowCompare s | .otpProgramDone _ s | .transitionDone _ _ s => sensingOk s
  -- 02 R59: the 100 elements of a frame
  | .irigFrame _ es => es.length = 100
  -- 05 R193, R194: the words of a page and of a block
  | .programDone l => l.all (· < 64)
  | .passBlockInterval l => l.all (· < 1024)
  -- 06 R272: three runs
  | .checkpointSigned n => n ≤ 3
  | .vaultCommandDone e => e.faults ≤ 3
  -- 06 R278: the start-up test
  | .entropyStartupTestDone l => l.length ≤ 1024
  | .hostOrder _ _ _ p | .status _ _ _ p | .catRead _ _ _ p | .catWrite _ _ _ p | .recRead _ _ _ p | .recStatus _ _ _ p
  | .todSet _ _ _ p | .loanGetChallenge _ _ _ p | .loanPresent _ _ _ p | .imageBlock _ _ _ p => payloadOk p
  | .capRead _ h d | .capWrite _ h d | .capWriteInit _ h d | .capWriteSeg _ h d | .capReadSeg _ h d
  | .capEndTransfer _ h d | .canTimeFrame _ (h, d) => canOk h d
  -- 09 Table 09-11, ISO 11898-1: 0 and 7 of LEC are no errors
  | .canBusError _ _ n => n != 0 && n != 7
  -- 09 Table 09-13: RBUF has 32 bytes
  | .twmTransferDone _ _ _ r => r.length ≤ 32
  -- ISO/IEC 14443-3: 40 known bits make the command a SELECT, which carries four bytes of the UID and their check byte
  | .anticollision _ l => l.length < 40
  | .select _ b => b.length = 5
  -- ISO/IEC 14443-4: WTXM
  | .sWtxResponse n => 1 ≤ n && n ≤ 59
  | .selectApp a | .verifyPassword a | .auth1 a | .auth2 a | .getPlacard a | .readJournal a | .readObject a | .writeMemo a => apduOk a
  -- 09 Table 09-13: the failures of TWM_RES
  | .externalSensorPoll (.failed n) => n = 3 || n = 4 || n = 6 || n = 7
  -- 07 R295: a value has at most 256 bytes
  | .blockData _ d => d.length ≤ 256
  -- 13 R589: LEN is a byte
  | .debugRd _ n _ _ => n < 256
  | .debugWr _ d _ _ => d.length < 256
  -- 14 R633: the buffer has four entries
  | .fence _ l => l.length ≤ 4
  | _ => true

end Sys2Proof
end

