-- ==== Sys2Proof/Tests/Slice0.lean ====
section
/-! SUPPORT. The author's own tests: the checks of WellFormed, small runs of single commands, and for every statement of
Obligations.lean states and operands that meet the hypotheses of its clauses. -/

namespace Sys2Proof.Tests

open Sys2Proof Sys2Proof.Machine

-- One theorem at a time: their kernel evaluations are many.
set_option Elab.async false

/-! ## Well-formedness: each check refuses -/

theorem wf_env : (Instr.powerGood { sensing := [([(4096, 1)], [])], pllLocked := true, keyFaults := [] }).wf = false := by decide +kernel
theorem wf_keyFaults : (Instr.retry .host { sensing := [], pllLocked := true, keyFaults := [9] }).wf = false := by decide +kernel
theorem wf_envFaults : ∀ e ∈ [({ sensing := [], pllLocked := true, keyFaults := [], epochFaults := 512 } : StartEnv),
    { sensing := [], pllLocked := true, keyFaults := [], busFaults := [(7, 0)] },
    { sensing := [], pllLocked := true, keyFaults := [], heldCeilings := [4] }], (Instr.resetNReleased e).wf = false := by decide +kernel
theorem wf_fieldOn : (Instr.fieldOn ([], [(4096, 1)]) []).wf = false ∧ (Instr.fieldOn ([], []) [8]).wf = false := by decide +kernel
theorem wf_shadows : (Instr.shadowCompare [([(5000, 1)], [])]).wf = false := by decide +kernel
theorem wf_otp : (Instr.otpProgramDone true [([], [(5000, 1)])]).wf = false := by decide +kernel
theorem wf_irig_length : (Instr.irigFrame 4 [2, 0, 1]).wf = false := by decide +kernel
theorem wf_page : (Instr.programDone [64]).wf = false := by decide +kernel
theorem wf_block : (Instr.passBlockInterval [1024]).wf = false := by decide +kernel
theorem wf_signature : (Instr.checkpointSigned 4).wf = false := by decide +kernel
theorem wf_samples : (Instr.entropyStartupTestDone (List.replicate 1025 true)).wf = false := by decide +kernel
theorem wf_payload : (Instr.catWrite 0 0 0 (List.replicate 257 0)).wf = false := by decide +kernel
theorem wf_can : ∀ x ∈ [(({ id := 1 } : CanHead), 9), ({ id := 1, fd := false }, 12), ({ id := 2048 }, 8), ({ id := 536870912, ext := true }, 8),
    ({ id := 1, rtr := true }, 0), ({ id := 1, fd := false, rtr := true }, 1)], (Instr.capRead true x.1 (List.replicate x.2 0)).wf = false := by
  decide +kernel
theorem wf_can_time : (Instr.canTimeFrame true ({ id := 1 }, List.replicate 11 0)).wf = false := by decide +kernel
theorem wf_can_error : (Instr.canBusError true true 7).wf = false := by decide +kernel
theorem wf_twm : (Instr.twmTransferDone 0 true false (List.replicate 33 0)).wf = false := by decide +kernel
theorem wf_anticollision : (Instr.anticollision 0 (List.replicate 40 true)).wf = false := by decide +kernel
theorem wf_select : (Instr.select 0 [0x88, 1, 2, 3]).wf = false := by decide +kernel
theorem wf_wtx : (Instr.sWtxResponse 60).wf = false := by decide +kernel
theorem wf_apdu : ∀ a ∈ [({ cla := 0x80, ins := 0x34, p1 := 0, p2 := 0, data := List.replicate 256 0 } : Apdu),
    { cla := 0x80, ins := 0x34, p1 := 0, p2 := 0, data := [], lc := 256 }], (Instr.readObject a).wf = false := by decide +kernel
theorem wf_sensor : (Instr.externalSensorPoll (.failed 5)).wf = false := by decide +kernel
theorem wf_block_data : (Instr.blockData .canA (List.replicate 257 0)).wf = false := by decide +kernel
theorem wf_debug : (Instr.debugRd 0 256 true false).wf = false ∧ (Instr.debugWr 0 (List.replicate 256 0) true false).wf = false := by decide +kernel
theorem wf_fence : (Instr.fence .curator [true, true, true, true, true]).wf = false := by decide +kernel
theorem wf_accepts : (Instr.capRead true { id := 2047 } (List.replicate 12 0)).wf = true ∧
    (Instr.capRead true { id := 536870911, fd := false, ext := true, rtr := true } []).wf = true ∧
    (Instr.anticollision 0 (List.replicate 39 true)).wf = true ∧ (Instr.irigFrame 4 (List.replicate 100 8000000)).wf = true ∧
    (Instr.externalSensorPoll (.failed 7)).wf = true ∧ (Instr.fieldOn ([], []) [7, 23]).wf = true := by decide +kernel

/-! ## Helpers -/

/-- A chip that runs with its store loaded. -/
def chip0 : Chip :=
  { clk := { running := true, vio := true, good := true, raw := 900000000 }, cat := { loaded := true }, acc := { en := true }
    start := { mode := 1, regIn := true, life := .field } }

/-- Catalogue values put in force. -/
def vals (l : List (Nat × Nat × Nat)) (c : Chip) : Chip := l.foldl (fun c e => c.setNum e.1 e.2.1 e.2.2) c

def atTick (n : Nat) (c : Chip) : Chip := { c with clk := { c.clk with raw := n } }

def state (c : Chip) : State := { dev := { chip := c }, pending := [] }

/-- A core that runs with window 0 on its own SRAM and window 1 on a place where nothing is. -/
def core0 (page : Nat) : Core :=
  { regs := #v[0x12, 0x80, 0x7F, 0xFF, 0x00, 0x01, 0x34, 0x02, 0x40, 0x02, 0x10, 0x03, 0x03, 0x00, 0x55, 0xAA], pc := 0x0100, st := 0x0025
    wt := ((Vector.replicate 15 0).set 0 (BitVec.ofNat 32 (0x80000000 + page))).set 1 0x80050000
    fwt := (Vector.replicate 15 0).set 0 (BitVec.ofNat 32 (0x80000000 + page)), running := true, vbase := 0x0200 }

/-- Vectors 0 to 9 and 16 name the handler at 0x0900; then data. -/
def sram0 : Cells :=
  [(0x201, 9), (0x205, 9), (0x209, 9), (0x20D, 9), (0x211, 9), (0x215, 9), (0x219, 9), (0x21D, 9)] ++
  [(0x221, 9), (0x225, 9), (0x234, 1), (0x235, 2), (0x236, 3), (0x241, 9), (0x340, 7)]

/-- Both cores run on `sram0`, the Curator as `f` changes it. -/
def cores (f : Core → Core) : State :=
  { dev := { chip := { chip0 with mem := { curSram := sram0, regSram := sram0 } }, cur := f (core0 0x10000), reg := core0 0x12000 }, pending := [] }

def call1 : StackEntry := { pc := 0x400, st := 0x0123, exc := false }
def exc1 : StackEntry := { pc := 0x402, st := 0x0041, exc := true }
def full : List StackEntry := List.replicate 16 call1
/-- One buffered byte. -/
def byteAt (n : Nat) : BufStore := { addr := 0x10000000 + n, bytes := [0x5A], fromRom := false }

/-! ## Witnesses: Jarley -/

theorem run1 : CanRun (cores id) .curator 1 ∧ CanRun (cores id) .registrar 1 := by unfold CanRun; decide +kernel
theorem run2 : CanRun (cores id) .curator 2 ∧ CanRun (cores id) .registrar 2 := by unfold CanRun; decide +kernel

theorem hyps_ByteArithmetic : CanRun (cores id) .curator 1 := run1.1
theorem hyps_ByteShifts : CanRun (cores id) .registrar 1 := run1.2
theorem hyps_PairArithmetic : CanRun (cores id) .curator 1 := run1.1
theorem hyps_MultiplyAndExtend : CanRun (cores id) .curator 1 ∧ (6 : Fin 8).val % 2 = 0 := ⟨run1.1, by decide⟩
theorem hyps_ByteImmediates : CanRun (cores id) .curator 1 ∧ CanRun (cores id) .curator 2 := ⟨run1.1, run2.1⟩
theorem hyps_PairImmediates : CanRun (cores id) .registrar 2 := run2.2
theorem hyps_ImmediateShifts : CanRun (cores id) .curator 1 := run1.1

/-- Z is clear and C set: condition 1 fails, 3 holds and 14 is the last of the table. -/
theorem hyps_BranchesAndJumps :
    let s := cores id
    let k := operandsOf s .curator
    CanRun s .curator 1 ∧ CanRun s .curator 2 ∧ (s.dev.core .curator).branch = none ∧
    Taken 3 (flagC k.st) (flagZ k.st) (flagN k.st) (flagV k.st) ∧ ¬Taken 1 (flagC k.st) (flagZ k.st) (flagN k.st) (flagV k.st) ∧
    Taken 14 (flagC k.st) (flagZ k.st) (flagN k.st) (flagV k.st) ∧ (0xFFFE : Half).getLsbD 0 = false ∧ (k.pair 3).getLsbD 0 = false := by
  refine ⟨run1.1, run2.1, rfl, ?_, ?_, ?_, by decide +kernel⟩
  · change flagC _ = true; decide +kernel
  · change ¬(flagZ _ = true); decide +kernel
  · change flagZ _ = true ∨ flagN _ ≠ flagV _; decide +kernel

theorem hyps_Calls :
    let s := cores id
    let u := cores fun k => { k with stack := full }
    CanRun s .curator 1 ∧ CanRun s .curator 2 ∧ (s.dev.core .curator).branch = none ∧ (operandsOf s .curator).stack.length < 16 ∧
    CanRun u .curator 1 ∧ CanRun u .curator 2 ∧ (u.dev.core .curator).branch = none ∧ 16 ≤ (operandsOf u .curator).stack.length ∧
    (operandsOf u .curator).trap = false ∧ ((operandsOf u .curator).pair 3).getLsbD 0 = false ∧ (0xFFFE : Half).getLsbD 0 = false := by
  unfold CanRun; decide +kernel

theorem hyps_Returns :
    let s := cores fun k => { k with stack := [exc1, call1] }
    let u := cores fun k => { k with stack := [call1, exc1] }
    let v := cores fun k => { k with stack := [call1], alarm := some exc1 }
    CanRun s .curator 1 ∧ (s.dev.core .curator).branch = none ∧ (operandsOf s .curator).stack.getLast? = some call1 ∧ call1.exc = false ∧
    CanRun v .curator 1 ∧ (v.dev.core .curator).branch = none ∧ (operandsOf v .curator).alarm = some exc1 ∧
    CanRun u .curator 1 ∧ (u.dev.core .curator).branch = none ∧ (operandsOf u .curator).alarm = none ∧
    (operandsOf u .curator).stack.getLast? = some exc1 ∧ exc1.exc = true := by
  unfold CanRun; decide +kernel

def answers (o : Loaded) : Bool := match o with | .bytes _ c _ => c.asks.isEmpty | _ => false

theorem answers_bytes {o : Loaded} (h : answers o = true) : ∃ b c' wait, c'.asks = [] ∧ o = .bytes b c' wait := by
  unfold answers at h
  split at h
  · exact ⟨_, _, _, by simpa using h, rfl⟩
  · cases h

/-- A load of a byte at a pointer, of the last quad of the page, and of a pair at its start. -/
theorem hyps_Loads :
    let s := cores id
    let k := operandsOf s .curator
    let dev (n : Nat) : Device := s.dev.modChip (Chip.fetched .curator (s.dev.core .curator) n)
    CanRun s .curator 1 ∧ CanRun s .curator 2 ∧ fieldOk .quad 6 = true ∧ fieldOk .byte 15 = true ∧ (true && overlapsPtr .byte 15 3) = false ∧
    (∃ b c' wait, c'.asks = [] ∧ loadFrom .curator (dev 1) k (k.pair 3).toNat (sizeBytes .byte) false = .bytes b c' wait) ∧
    (∃ b c' wait, c'.asks = [] ∧ loadFrom .curator (dev 2) k (k.pair 3 + 0x0DC8).toNat (sizeBytes .quad) false = .bytes b c' wait) ∧
    ∃ b c' wait, c'.asks = [] ∧ loadFrom .curator (dev 2) k (0 : Half).toNat (sizeBytes .pair) false = .bytes b c' wait :=
  ⟨run1.1, run2.1, by decide, by decide, by decide, answers_bytes (by decide +kernel), answers_bytes (by decide +kernel),
    answers_bytes (by decide +kernel)⟩

/-- The last quad of page 0 of the Curator's SRAM, with one buffered byte in it. -/
theorem hyps_SramLoads :
    let s := cores fun k => { k with wbuf := [byteAt 0xFFD] }
    (4 = 1 ∨ 4 = 2 ∨ 4 = 4) ∧ 0xFFC % 4 = 0 ∧ InSram 0x10000FFC 4 ∧
    (∃ e, tableEntry s.dev.cur.wt 0xFFC = some e ∧ e.getLsbD 31 = true ∧ 0x10000FFC = (e.toNat % 1048576) * 4096 + 0xFFC % 4096) ∧
    s.dev.chip.judge (coreNo .curator) .read 0x10000FFC false = 0 :=
  ⟨by decide, by decide, by unfold InSram; decide +kernel, ⟨0x80010000, by decide +kernel⟩, by decide +kernel⟩

theorem hyps_Stores :
    let s := cores fun k => { k with wbuf := [byteAt 1, byteAt 2, byteAt 3] }
    let k := operandsOf s .curator
    fieldOk .byte 15 = true ∧ fieldOk .quad 6 = true ∧ k.wbuf.length < 4 ∧ CanRun s .curator 1 ∧ CanRun s .curator 2 ∧
    dataPlace k (k.pair 3).toNat (sizeBytes .byte) = .ok (.phys 0x10000234) ∧
    dataPlace k (k.pair 3 + 0x0DC8).toNat (sizeBytes .quad) = .ok (.phys 0x10000FFC) ∧
    dataPlace k (0 : Half).toNat (sizeBytes .pair) = .ok (.phys 0x10000000) :=
  ⟨by decide, by decide, by decide +kernel, by unfold CanRun; decide +kernel, by unfold CanRun; decide +kernel, rfl, rfl, rfl⟩

theorem hyps_Drains :
    let s := cores fun k => { k with wbuf := [byteAt 0xFFFFF, byteAt 0] }
    Live s ∧ (s.dev.core .curator).wbuf = byteAt 0xFFFFF :: [byteAt 0] ∧ InSram (byteAt 0xFFFFF).addr 1 ∧
    s.dev.chip.judge (coreNo .curator) .write (byteAt 0xFFFFF).addr false = 0 := by
  unfold Live InSram; decide +kernel

theorem hyps_Fence :
    let s := cores fun k => { k with wbuf := [byteAt 0xFFFFF, byteAt 0, byteAt 0, byteAt 1] }
    CanRun s .curator 1 ∧ ∀ x ∈ (s.dev.core .curator).wbuf, InSram x.addr x.bytes.length ∧
      s.dev.chip.judge (coreNo .curator) .write x.addr false = 0 := by
  unfold CanRun InSram; decide +kernel

theorem hyps_SpecialPageStores :
    CanRun (cores id) .curator 2 ∧ fieldOk .quad 6 = true ∧ fieldOk .pair 7 = true := ⟨run2.1, by decide, by decide⟩

theorem hyps_LongInstructionsAtZero :
    let s := cores fun k => { k with regs := (k.regs.set 12 0).set 13 0 }
    CanRun s .curator 1 ∧ (s.dev.core .curator).branch = none ∧ (operandsOf s .curator).complete.pair 6 = 0 := by
  unfold CanRun; decide +kernel

/-- S is 0x0240 and D 0x0234, and the count is 3: elements are left; with D the place of an equal byte, BCMP goes on. -/
theorem hyps_LongInstructionElements :
    let s := cores fun k => { k with regs := (((k.regs.set 8 0x34).set 9 2).set 10 0x40).set 11 2 }
    let k := (operandsOf s .curator).complete
    let u := cores fun k => { k with regs := (((k.regs.set 8 0x34).set 9 2).set 10 0x34).set 11 2 }
    let j := (operandsOf u .curator).complete
    CanRun s .curator 1 ∧ (s.dev.core .curator).branch = none ∧ k.pair 6 ≠ 0 ∧ CanRun u .curator 1 ∧ (u.dev.core .curator).branch = none ∧
    j.pair 6 ≠ 0 ∧ ownByte s.dev.chip .curator k (k.pair 4) = some 1 ∧ storePlace k (k.pair 5) = some 0x10000240 ∧
    ownByte s.dev.chip .curator k (k.pair 5) = some 0 ∧ (1 : Byte) ≠ 0 ∧ ownByte u.dev.chip .curator j (j.pair 4) = some 1 ∧
    ownByte u.dev.chip .curator j (j.pair 5) = some 1 ∧ ownPair s.dev.chip .curator k (k.pair 4) = some 0x0201 ∧
    ownPair s.dev.chip .curator k (k.pair 5) = some 0x0900 := by
  unfold CanRun; decide +kernel

/-- Two of three elements: the CRC of 1, 2 and a fill of two bytes. -/
theorem hyps_LongInstructionRuns :
    let s := cores fun k => { k with regs := (((k.regs.set 8 0x34).set 9 2).set 10 0x40).set 11 2 }
    let k := (operandsOf s .curator).complete
    let b : Bytes := [1, 2]
    let p : List Nat := [0x10000240, 0x10000241]
    CanRun s .curator 1 ∧ (s.dev.core .curator).branch = none ∧ 2 = min (1 + 1) (k.pair 6).toNat ∧ k.pair 6 ≠ 0 ∧ b.length = 2 ∧
    (∀ i, (h : i < b.length) → ownByte s.dev.chip .curator k (k.pair 4 + BitVec.ofNat 16 i) = some b[i]) ∧
    p.length = 2 ∧ k.wbuf.length + 2 ≤ 4 ∧
    ∀ i, (h : i < p.length) → dataPlace k (k.pair 5 + BitVec.ofNat 16 i).toNat 1 = .ok (.phys p[i]) := by
  refine ⟨by unfold CanRun; decide +kernel, rfl, by decide +kernel, by decide +kernel, rfl, by decide +kernel, rfl, by decide +kernel, ?_⟩
  intro i h
  match i, h with
  | 0, _ => rfl
  | 1, _ => rfl

theorem hyps_SystemInstructions : CanRun (cores id) .curator 1 ∧ ((cores id).dev.core .curator).branch = none := ⟨run1.1, rfl⟩

theorem hyps_InstructionFaults_legal :
    let s := cores id
    let k := operandsOf s .curator
    (∀ v, v ∈ [1, 3, 4, 5, 9] → CanFault s .curator v 0x900) ∧ CanRun s .curator 1 ∧ CanRun s .curator 2 ∧ k.branch = none ∧
    legalWords (0x7FFF : Half).toNat (0 : Half).toNat = false ∧ (7 : Fin 8).val % 2 = 1 ∧ fieldOk .pair 8 = false ∧
    (true && overlapsPtr .byte 6 3) = true ∧ (0x0901 : Half).getLsbD 0 = true := by
  unfold CanFault CanRun; decide +kernel

theorem hyps_InstructionFaults_slot :
    let s := cores fun k => { k with branch := some (2, some 0x300) }
    CanFault s .curator 2 0x900 ∧ CanRun s .curator 1 ∧ (operandsOf s .curator).branch ≠ none := by
  unfold CanFault CanRun; decide +kernel

/-- Pair 2 holds 0x0100 and pair 0 0x8012; pair 1, 0xFF7F, is odd. -/
theorem hyps_InstructionFaults_address :
    let s := cores id
    let k := operandsOf s .curator
    (k.pair 1).getLsbD 0 = true ∧ fieldOk .pair 7 = true ∧ fieldOk .quad 6 = true ∧ (0x0235 : Half).toNat % sizeBytes .pair ≠ 0 ∧
    (0x0236 : Half).toNat % sizeBytes .quad ≠ 0 ∧
    (0xEFFC : Half).toNat % sizeBytes .quad = 0 ∧ tableEntry k.wt (0xEFFC : Half).toNat = some 0 ∧ (0 : Word).getLsbD 31 = false ∧
    (0xF000 : Half).toNat % sizeBytes .pair = 0 ∧ 0xF000 ≤ (0xF000 : Half).toNat ∧
    specialWidthOk ((0xF000 : Half).toNat % 4096) (sizeBytes .pair) = false ∧
    dataPlace k (0x1000 : Half).toNat (sizeBytes .quad) = .ok (.phys 0x50000000) ∧ k.wbuf = [] ∧
    s.dev.chip.judge (coreNo .curator) .read 0x50000000 false = 2 ∧ (2 : Nat) ≠ 0 := by
  refine ⟨by decide +kernel, by decide, by decide, by decide, by decide, by decide, by decide +kernel, by decide, by decide, by decide,
    by decide +kernel, rfl, by decide +kernel, by decide +kernel, by decide⟩

theorem hyps_InstructionFaults_stack :
    let s := cores id
    let u := cores fun k => { k with stack := [call1, exc1] }
    let v := cores fun k => { k with stack := [exc1, call1] }
    CanRun s .curator 1 ∧ (operandsOf s .curator).branch = none ∧ CanFault s .curator 7 0x900 ∧ (operandsOf s .curator).stack = [] ∧
    (operandsOf s .curator).alarm = none ∧ CanRun u .curator 1 ∧ (operandsOf u .curator).branch = none ∧ CanFault u .curator 6 0x900 ∧
    (operandsOf u .curator).stack.getLast? = some exc1 ∧ exc1.exc = true ∧ CanRun v .curator 1 ∧ (operandsOf v .curator).branch = none ∧
    CanFault v .curator 6 0x900 ∧ (operandsOf v .curator).stack.getLast? = some call1 ∧ call1.exc = false ∧
    (operandsOf v .curator).alarm = none := by
  unfold CanFault CanRun; decide +kernel

theorem hyps_AlarmEntry :
    let s := cores fun k => { k with st := 0x00C5 }
    let u := cores fun k => { k with trap := true, stack := full }
    ∀ x : State, x = s ∨ x = u → (x.dev.core .curator).alarm = none ∧ (0x0900 : Half).getLsbD 0 = false ∧
      handlerAt x.dev.chip .curator (operandsOf x .curator).complete (operandsOf x .curator).vbase 0 = some 0x900 ∧
      (x = s → CanRun x .curator 1 ∧ 6 ≤ mlOf (operandsOf x .curator).st ∧ legalWords (0x7FFF : Half).toNat (0 : Half).toNat = false) ∧
      (x = u → CanRun x .curator 2 ∧ (operandsOf x .curator).branch = none ∧ (operandsOf x .curator).trap = true ∧
        (operandsOf x .curator).stack.length = 16) := by
  intro s u x h
  rcases h with rfl | rfl
  · refine ⟨rfl, rfl, by decide +kernel, fun _ => by unfold CanRun; decide +kernel, fun h => ?_⟩
    exact absurd (congrArg (fun x : State => x.dev.cur.trap) h) (by decide)
  · refine ⟨rfl, rfl, by decide +kernel, fun h => ?_, fun _ => by unfold CanRun; decide +kernel⟩
    exact absurd (congrArg (fun x : State => x.dev.cur.trap) h) (by decide)

/-- PFW, vector 16, with a handler of its own, at a core that waits. -/
theorem hyps_InterruptEntry :
    let c := (cores id).dev.chip
    let c' : Chip := { c with mem := { c.mem with curSram := sram0.take 10 ++ [(0x240, 2), (0x241, 9)] }
                              vit := { c.vit with cur := { c.vit.cur with pfwLatch := true } } }
    let s : State := { dev := { chip := c', cur := { core0 0x10000 with waiting := true }, reg := core0 0x12000 }, pending := [] }
    let k := s.dev.core .curator
    Live s ∧ k.running = true ∧ k.halted = false ∧ k.frozen = none ∧ k.branch = none ∧ k.stack.length < 16 ∧
    s.dev.chip.takenSource .curator (mlOf k.st) = some (16, 6) ∧ (0x0902 : Half).getLsbD 0 = false ∧
    handlerAt s.dev.chip .curator k.complete k.vbase 16 = some 0x902 := by
  unfold Live; decide +kernel

theorem hyps_FreezeEnds :
    let s := cores fun k => { k with frozen := some (.st .byte 15 3 true), wbuf := [byteAt 1, byteAt 2, byteAt 3] }
    let u := cores fun k => { k with frozen := some (.ld .byte 15 3 true false) }
    let k := u.dev.core .curator
    Live s ∧ (s.dev.core .curator).running = true ∧ (s.dev.core .curator).stepping = false ∧ (s.dev.core .curator).haltReq = false ∧
    fieldOk .byte 15 = true ∧ (s.dev.core .curator).wbuf.length < 4 ∧
    dataPlace (s.dev.core .curator) ((s.dev.core .curator).pair 3).toNat (sizeBytes .byte) = .ok (.phys 0x10000234) ∧
    Live u ∧ k.running = true ∧ k.stepping = false ∧ k.haltReq = false ∧ (true && overlapsPtr .byte 15 3) = false ∧
    ∃ b c' wait, c'.asks = [] ∧ loadFrom .curator u.dev { k with frozen := none, cycle := k.cycle + BitVec.ofNat 32 5 } (k.pair 3).toNat
      (sizeBytes .byte) false = .bytes b c' wait := by
  refine ⟨by unfold Live; decide +kernel, rfl, rfl, rfl, rfl, by decide +kernel, rfl, by unfold Live; decide +kernel, rfl, rfl, rfl,
    by decide, answers_bytes (by decide +kernel)⟩

/-! ## Witnesses: time base and mains phase -/

/-- PPS and IRIG in use, at rank 3: the last PPS edge 1 s ago on the local count. -/
def base3 (t : TimeBase → TimeBase) : Chip :=
  { vals [(0x2010, 1, 1), (0x2010, 2, 150), (0x2010, 3, 1)] chip0 with
    time := t { rank := 3, local_ := 400001000, lastPps := some 1000, ppsRaw := some 500000000, sec := 100, tick := 140, irigValid := true } }

theorem spaced {c : Chip} {l r : Nat} (h : c.time.lastPps = some l) (g : c.time.ppsRaw = some r)
    (k : 1000000000 < c.clk.raw - r ∨ ((c.time.local_ : Int) - l - 400000000).natAbs ≤ 40000) : PpsSpaced c := by
  intro l' r' h' g'
  cases h.symm.trans h'
  cases g.symm.trans g'
  exact k

/-- An IRIG edge 400 µs from the PPS edge names its second, one 700 µs away none. -/
theorem hyps_PpsEdge :
    let none_ := base3 id
    let off : Chip := vals [(0x2010, 1, 0)] none_
    let late := base3 fun t => { t with local_ := 400041001 }
    let tod := base3 fun t => { t with tod := some 7 }
    let near := base3 fun t => { t with irigEdge := some (500000300, 99) }
    let far := base3 fun t => { t with irigEdge := some (500700300, 99) }
    let irig (c : Chip) := if c.irigOk then c.irigPair ((c.clk.raw : Int) - ticksNs (c.cfgI 0x2010 2)) else none
    (∀ c ∈ [none_, off, late, tod, near, far], c.clk.running = true ∧ c.asks = [] ∧ c.cfgB 0x2010 1 = (c != off)) ∧ 49 < 50 ∧
    ¬PpsSpaced late ∧ PpsSpaced none_ ∧ PpsSpaced tod ∧ PpsSpaced near ∧ PpsSpaced far ∧
    irig none_ = none ∧ ppsNames none_ = none ∧ irig tod = none ∧ ppsNames tod = some 7 ∧ irig near = some (some 100, -360) ∧
    irig far = some (none, -700360) := by
  intro none_ off late tod near far irig
  refine ⟨by decide +kernel, by decide, fun h => ?_, spaced rfl rfl (by decide), spaced rfl rfl (by decide), spaced rfl rfl (by decide),
    spaced rfl rfl (by decide), by decide +kernel⟩
  exact absurd (h 1000 500000000 rfl rfl) (by decide)

/-- The elements of a frame, in ns: 8, 5 or 2 ms, with 0.5 ms of tolerance; one bits stand at the places of `l`. -/
def irigBits (l : List Nat) : List Nat :=
  (List.range 100).map fun i => if i = 0 ∨ i % 10 = 9 then 8500000 else if l.contains i then 4500000 else 1500000

/-- 2001-01-01, 00:00:00: day 1 and year 1. -/
theorem hyps_IrigSignals :
    let b (ieee : Nat) : Chip := vals [(0x2010, 3, 1), (0x2010, 4, ieee), (0x2010, 5, 4), (0x2010, 1, 0)] chip0
    let t : TimeBase := { rank := 2, sync := .locked, sec := 31622400 + 37, tick := 200 }
    let c (ieee : Nat) : Chip := { b ieee with time := { t with irigNext := some (31622400 + 37), irigValid := true } }
    let e (l : List Nat) := (irigBits l).map Chip.irigElement
    (∀ ieee ∈ [0, 1], (c ieee).clk.running = true ∧ (c ieee).asks = [] ∧ (c ieee).cfgB 0x2010 3 = true ∧
      (c ieee).cfgB 0x2010 4 = decide (ieee = 1) ∧
      Chip.irigUtc (e [30, 50]) (some (10 * Chip.irigNum (e [30, 50]) [55, 56, 57, 58] + Chip.irigNum (e [30, 50]) [50, 51, 52, 53]))
        (((c ieee).time.sec - (c ieee).offsetO) / 86400) = some 31622400) ∧
    Chip.irigShape (((irigBits []).set 99 1500000).map Chip.irigElement) = false ∧
    Chip.irigShape (((irigBits []).set 98 5500001).map Chip.irigElement) = false ∧ Chip.irigShape (e [30, 50]) = true ∧
    (Chip.irigNum (e [30, 50]) [55, 56, 57, 58] ≤ 9 ∧ Chip.irigNum (e [30, 50]) [50, 51, 52, 53] ≤ 9) ∧
    (Chip.irigCf (e [30, 50, 73])).tq ≤ (c 1).cfg 0x2010 5 ∧ (Chip.irigCf (e [30, 50, 73])).tq ≠ 15 ∧
    ({ b 0 with time := t }.time.irigNext = none) ∧ (c 0).time.irigNext = some (31622400 + 37) ∧ (c 0).time.irigValid = true ∧
    (c 0).ppsPairs ((c 0).clk.raw - ticksNs ((c 0).cfgI 0x2010 6)) = false ∧ (c 0).time.offsetStep = 0 := by
  decide +kernel

/-- Whichever parity the frames of IEEE 1344 carry, one of two frames has it. -/
theorem hyps_IrigSignals_parity :
    ∃ l ∈ [[30, 50], [30, 50, 75]], (Chip.irigCf ((irigBits l).map Chip.irigElement)).parityOk = true := by
  have k (l : List Nat) (o : Bool)
      (h : (let e := (irigBits l).map Chip.irigElement; decide ((((e.take 75).filter (· = 1)).length + e.getD 75 0) % 2 = 1)) = o) :
      (Chip.irigCf ((irigBits l).map Chip.irigElement)).parityOk = (o == Config.irigParityOdd) := by rw [← h]; rfl
  cases h : Config.irigParityOdd
  · exact ⟨[30, 50], by simp, by rw [k [30, 50] false (by decide +kernel), h]; rfl⟩
  · exact ⟨[30, 50, 75], by simp, by rw [k [30, 50, 75] true (by decide +kernel), h]; rfl⟩

theorem hyps_TimeLimits :
    let c (f : Chip → Chip) (t : TimeBase) : Chip := { f (atTick 3000000000 chip0) with time := t }
    let s := c id { sync := .locked, rank := 2, lastEdge := some 1999999999 }
    let a := c id { sync := .acquiring, rank := 2, lastEdge := some 1999999999 }
    let h := c (vals [(0x2010, 8, 7)]) { sync := .holdover, holdSince := some 199999999 }
    let l := c (vals [(0x2030, 2, 1), (0x2030, 3, 77)]) { sec := 77 }
    let p (on sync : Bool) (n : Nat) := c (vals [(0x2010, 9, 1), (0x2010, 0xB, if on then 1 else 0)])
      { sync := if sync then .locked else .free, tick := n }
    let q := c id { ppsOut := true, ppsOutEnd := 3000000000 }
    (∀ d ∈ [s, a, h, l, p true false 0, q], d.clk.running = true ∧ d.asks = []) ∧
    (s.time.lastEdge = some 1999999999 ∧ 1000000000 < s.clk.raw - 1999999999 ∧ s.time.sync = .locked) ∧
    (a.time.lastEdge = some 1999999999 ∧ 1000000000 < a.clk.raw - 1999999999 ∧ a.time.sync = .acquiring) ∧
    (h.time.sync = .holdover ∧ h.time.holdSince = some 199999999 ∧ h.cfg 0x2010 8 ≠ 0 ∧
      400000000 * h.cfg 0x2010 8 < h.clk.raw - 199999999) ∧
    (l.leapL ≠ 0 ∧ l.cfg 0x2030 3 ≤ l.time.sec) ∧
    (∀ d ∈ [p true false 0, p true false 2, p false true 2], d.cfgB 0x2010 9 = true ∧ (d.cfgB 0x2010 0xB = true ∨ d.time.sync ≠ .free) ∧
      d.ppsOutTick ≤ d.time.tick ∧ d.time.tick ≤ d.ppsOutTick + 2 ∧ d.time.ppsOutSec ≠ some d.time.sec ∧ d.time.ppsOut = false) ∧
    (q.time.ppsOut = true ∧ q.time.ppsOutEnd ≤ q.clk.raw) := by
  decide +kernel

theorem hyps_ClockMonitor :
    let c (r : Rgr) : Chip := { atTick 3000000000 chip0 with rgr := r }
    let s (n : Nat) := c { pllBad := n }
    let u := c { backup := true, goodSince := some 2600000000 }
    (∀ d ∈ [s 1, s 2, u], d.clk.running = true ∧ d.asks = []) ∧ (600 : Int).natAbs ≤ 600 ∧ 600 < (-601 : Int).natAbs ∧ (s 1).rgr.pllBad < 2 ∧
    (s 2).rgr.backup = false ∧ 2 ≤ (s 2).rgr.pllBad ∧ (s 2).time.sync = .free ∧
    u.rgr.backup = true ∧ u.rgr.goodSince = some 2600000000 ∧ 2600000000 + 400000000 ≤ u.clk.raw := by
  decide +kernel

/-- An input with a crossing 20 ms before the instant, as `f` changes it. -/
def zcState (n : Nat) (ref : Option (Fin 3)) (f : PhaseIn → PhaseIn) : Chip :=
  { atTick n chip0 with phase := {
    ins := (Vector.replicate 3 {}).set 1 (f { lastX := some 2992000000, lastRise := some 2992000000, period := some 8000000, valid := 3 })
    ref } }

theorem hyps_PhaseCommands :
    let s := zcState 3000000000 none fun q => { q with valid := 6 }
    let t := zcState 3000000000 none fun q => { q with valid := 7 }
    let u := zcState 3000400001 none fun q => q
    let v := zcState 3000000000 (some 1) fun q => { q with valid := 8, locked := true }
    let w := zcState 3004000000 none fun q => { q with valid := 8, locked := true }
    let y := zcState 3000000000 none fun q => { q with suppUntil := some 3000000000 }
    let z := zcState 3000000000 none fun q => { q with suppUntil := some 3000000000, locked := true }
    let near (c : Chip) : Bool :=
      let x : Int := (c.clk.raw : Int) - ticksNs (c.cfgI 0x2020 7)
      periodInRange (x - 2992000000) && periodNear (x - 2992000000) 8000000
    let on (c : Chip) := c.phase.ins[(1 : Fin 3)]
    (∀ c ∈ [s, t, u, v, w, y, z], c.clk.running = true ∧ c.asks = [] ∧ (∀ e : Fin 16, c.ord.hold[e] = none) ∧ c.ord.loose = [] ∧
      c.cat.crossing = []) ∧
    (∀ c ∈ [s, t, u, v], c.zcTaken 1 = true ∧ (on c).gap = false ∧ (on c).lastX = some 2992000000 ∧ (on c).period = some 8000000) ∧
    ((on s).locked = false ∧ s.phase.ref ≠ some 1 ∧ (s.phase.ins[(0 : Fin 3)]).locked = false ∧ near s = true ∧ (on s).valid < 7) ∧
    ((on t).locked = false ∧ near t = true ∧ 7 ≤ (on t).valid) ∧ ((on u).locked = false ∧ near u = false) ∧
    ((on v).locked = true ∧ v.phase.ref = some 1 ∧ near v = true) ∧
    ((on w).locked = true ∧ (on w).lastRise = some 2992000000 ∧ 600000000000 ≤ (w.clk.raw - 2992000000) * w.cfg 0x2020 1) ∧
    ((on y).suppUntil = some 3000000000 ∧ 3000000000 ≤ y.clk.raw ∧ (on y).locked = (on y).lastRec) ∧
    ((on z).suppUntil = some 3000000000 ∧ (on z).locked = true ∧ (on z).lastRec = false) := by
  decide +kernel

/-! ## Witnesses: resets, supplies and starts -/

theorem hyps_SupplyPins :
    let c (k : Clk) : Chip := { chip0 with clk := k }
    let k : Clk := chip0.clk
    let prog : RunOp := { op := .winProgram .curator 0 [1], guarded := false, nested := false }
    let held := c { k with resetLow := true, resetDeferred := true }
    let dark := c { k with good := false, resetLow := true }
    let off := c { k with running := false }
    let live := c k
    let busy : Chip := { c k with cns := { run := some prog } }
    let low := c { k with pfw := true }
    (∀ d ∈ [held, dark, off, live, busy, low], d.asks = []) ∧ dark.clk.good = false ∧ dark.clk.resetLow = true ∧ 899 < 900 ∧ 1000 ≤ 1000 ∧
    (off.clk.resetLow = false ∧ off.clk.running = false ∧ off.clk.pfw = false) ∧
    (live.clk.resetLow = false ∧ live.clk.running = true ∧ ArrayIdle live ∧ TagIdle live ∧ live.clk.good = true ∧ live.clk.pfw = false ∧
      live.cns.queue = [] ∧ live.vlt.writes = [] ∧ live.cat.job = none ∧ NoOrders live) ∧
    (busy.clk.resetLow = false ∧ busy.clk.running = true ∧ busy.cns.run = some prog ∧ Chip.opPrograms prog.op = true ∧ busy.cns.susp = none) ∧
    (held.clk.resetDeferred = true ∧ held.clk.resetLow = true ∧ ArrayIdle held ∧ TagIdle held) ∧
    (low.clk.pfw = true ∧ low.clk.running = true ∧ low.clk.startHeld = false) := by
  unfold ArrayIdle TagIdle NoOrders; decide +kernel

theorem hyps_ColdStarts :
    let c (k : Clk) : Chip := { chip0 with clk := k }
    let k : Clk := chip0.clk
    let up := c { k with running := false, good := false }
    let rel := c { k with running := false, resetLow := true }
    let dfr := c { k with resetDeferred := true }
    let h : Chip := c { k with pfw := true }
    let env : StartEnv := { sensing := [], pllLocked := true, keyFaults := [] }
    (∀ d ∈ [up, rel, dfr], d.asks = []) ∧ (up.clk.good = false ∧ up.clk.resetLow = false) ∧
    (rel.clk.resetLow = true ∧ rel.clk.resetDeferred = false ∧ rel.clk.good = true) ∧
    (dfr.clk.resetDeferred = true ∧ dfr.clk.resetLow = false ∧ ArrayIdle dfr ∧ TagIdle dfr) ∧
    h.clk.pfw = true ∧ h.clk.testmode = false ∧ h.rgr.brownRail = none ∧ env.pllLocked = true ∧ env.sensing = [] ∧
    fuseLife h ≠ .lost ∧ fuseLife h ≠ .scrap ∧ ArrayIdle h := by
  unfold ArrayIdle TagIdle; decide +kernel

/-! ## Signed images: the key of each is the base point, whose private scalar is 1 -/

/-- A header and a body of sixteen bytes 0 to 15, with its signature. -/
def image (kind ver : Byte) (tested : Bytes) (sig : Nat) : Bytes :=
  ([0x45, 0x46, 0x49, 0x4C, 1, kind, 0, 0, ver, 0, 0, 0, 16, 0, 0, 0, 0, 0, 1, 0, 1, 0, byteOf (tested.length / 4), 0] : Bytes)
  ++ padTo 0 32 tested ++ leBytes 4 4 ++ leBytes 4 0 ++ Crypto.ptBytes Crypto.basePoint
  ++ beBytes 32 0xbe45cb2605bf36bebde684841a28f0fd43c69850a3dce5fedba69928ee3a8991
  ++ List.replicate 32 0 ++ beBytes 64 sig ++ (List.range 16).map (BitVec.ofNat 8)

def curatorImage : Bytes := image 1 7 [9, 0, 0, 0]
  (0x49ff3fed844b4086c581b23aefd11e332b9cbdfa4f79d47a5533f24857f7351f * 2 ^ 256 + 0xab3dba97a9974b581178eb2bc2d1e34e6560b0379ed0df8abe26f11b962de533)
def registrarImage : Bytes := image 2 9 []
  (0x93fbe26eb17d11898a861e799fc0fcb6d4f31adddd7ada22b31578348b4acb1d * 2 ^ 256 + 0x3407ae4cd0f68c6bb8b41426257b0e34bf04ae48a1c012cfe6508a68ee3f0b3a)

/-- SHA-256 of the key. -/
def keyHash : Bytes := beBytes 32 0xd875db7def232236aec738c6b0bb3e80142f5d0fd8f4df24fed6eef5cbb50d9f

/-- Bytes at an offset, as cells of the flash and of the OTP. -/
def cells (dflt : Byte) (off : Nat) (b : Bytes) : Cells := b.zipIdx.filterMap fun x => if x.1 = dflt then none else some (off + x.2, x.1)

/-- Images in slot 0 of each kind, with the hash entry of their key, and a start-attempt word. -/
def imageChip (word : Nat) : Chip :=
  let o := cells 0 0x400 keyHash
  { chip0 with
    mem := { flash := cells 0xFF 0 curatorImage ++ cells 0xFF 0x200000 (registrarImage.take 256) }
    otp := { fuses := o, shadowA := o, shadowB := o }
    start := { mode := 1, regIn := true, word, life := .field, timer := some 0, regVer := 9 } }

/-- The checks of 11 Table 11-5, one by one. -/
theorem checkSlot_sound {c : Chip} {kind slot : Nat} {want : Option Nat} {h b key dig sig : Bytes} (hh : c.slotHeader kind slot = h)
    (hk : slice h 64 64 = key) (hs : slice h 192 64 = sig) (hd : Crypto.sha256 (h.take 192) = dig)
    (h1 : headerOk h = true) (h2 : (h.getD 5 0).toNat = kind ∧ hdrBody h + 256 ≤ slotSize kind ∧ want.getD (hdrBody h + 256) = hdrBody h + 256)
    (h3 : ((List.range 4).any fun i => c.hashTrusts i key) = true)
    (h4 : (Crypto.onCurve (beNat (key.take 32)) (beNat (key.drop 32)) && Crypto.sigInRange sig) = true)
    (h5 : Crypto.ecdsaVerify key dig sig = true)
    (h6 : c.flashBytes (slotBase kind slot + 256) (hdrBody h) = b) (h7 : Crypto.sha256 b = slice h 128 32) (h8 : leAt h 16 2 = 0) :
    c.checkSlot kind slot want = 0 := by
  rw [Bool.and_eq_true] at h4
  have a : ¬((h.getD 5 0).toNat ≠ kind ∨ slotSize kind < hdrBody h + 256 ∨ want.getD (hdrBody h + 256) ≠ hdrBody h + 256) := by
    rintro (x | x | x)
    · exact x h2.1
    · exact absurd h2.2.1 (Nat.not_le.mpr x)
    · exact x h2.2.2
  unfold Chip.checkSlot
  simp only [hh, h1, if_neg a, hk, hs, hd, h3, h4.1, h4.2, h5, h6, h7, h8]
  simp

theorem base_signed : Crypto.ecdsaVerify (Crypto.ptBytes Crypto.basePoint)
    (beBytes 32 0xa9c5526428b3655ef49260527ee990808cc4babf81c33d9b5bd24b4c6986cb8d) (beBytes 64 (0x49ff3fed844b4086c581b23aefd11e332b9cbdfa4f79d47a5533f24857f7351f * 2 ^ 256 + 0xab3dba97a9974b581178eb2bc2d1e34e6560b0379ed0df8abe26f11b962de533)) = true := by decide +kernel

theorem curator_header : (imageChip 0).slotHeader 1 0 = curatorImage.take 256 := by decide +kernel

theorem curator_sound (w : Nat) : (imageChip w).checkSlot 1 0 (some 272) = 0 ∧ (imageChip w).checkSlot 1 0 none = 0 := by
  have h (want : Option Nat) (k : want.getD 272 = 272) : (imageChip 0).checkSlot 1 0 want = 0 :=
    checkSlot_sound (b := (List.range 16).map (BitVec.ofNat 8)) curator_header (by decide +kernel) (by decide +kernel) (by decide +kernel)
      (by decide +kernel) ⟨by decide +kernel, by decide +kernel, k⟩ (by decide +kernel) (by decide +kernel) base_signed (by decide +kernel)
      (by decide +kernel) (by decide +kernel)
  exact ⟨h (some 272) rfl, h none rfl⟩

/-- A start-attempt store of words 0 to `n` − 1. -/
def words (n : Nat) : Cells := cells 0xFF 0x2000 ((List.range n).flatMap fun i => leBytes 4 (8192 * i) ++ (leBytes 4 (8192 * i)).map (~~~ ·))

theorem hyps_StartCommands_currel :
    let c := imageChip 0
    Live (state c) ∧ c.start.regIn = true ∧ c.start.timer.isSome = true ∧ c.start.mode ≠ 2 ∧ c.startWord.isOpen = false ∧ c.startWord.cf ≠ 3 ∧
    c.startWord.cs = 0 ∧ testedPair (c.slotHeader 1 0) (c.slotHeader 2 c.start.slotReg) = true ∧ (state c).dev.cur.running = false ∧
    c.wordNow = true := by
  unfold Live; decide +kernel

theorem hyps_StartCommands_sound : (imageChip 0).checkSlot 1 0 none = 0 := by
  have h := curator_sound 0
  exact h.2

/-- The confirm window of 1 s by the RC oscillator, in its last tick and at its end; the start timer at its end; Reserve mode. -/
theorem hyps_StartCommands :
    let rc (n : Nat) (r : Rgr) : Chip := { chip0 with clk := { chip0.clk with rc := n * 1000000 }, rgr := r }
    let s := rc 900000000 { win := some (500000001, 400000000) }
    let u := rc 900000000 { win := some (500000000, 400000000) }
    let v : Chip := { rc 900000000 {} with start := { timer := some 820000000, regIn := true } }
    let w : Chip := { chip0 with dbg := { loaned := 0xFFFFFFFF }, start := { mode := 2, regIn := true, regVer := 9 } }
    (∀ d ∈ [s, u, v, w], d.clk.running = true ∧ d.asks = []) ∧ s.winOpen = true ∧
    (u.rgr.win = some (500000000, 400000000) ∧ 400000000 ≤ u.rcNow - 500000000 ∧ u.start.regIn = true ∧ u.start.mode ≠ 2 ∧
      (state u).dev.cur.wbuf = [] ∧ u.cat.mbox = []) ∧
    (v.start.timer = some 820000000 ∧ 80000000 ≤ v.rcNow - 820000000) ∧
    w.start.mode = 2 ∧ CatReady w ∧ w.wordNow = true ∧ w.clk.pfw = false ∧ w.start.reserve14 = false ∧ w.right rPairOverride = true := by
  unfold CatReady; decide +kernel

def wordChip : Chip := { chip0 with mem := { info := words 4 } }

theorem hyps_StartCommands_word : (wordChip.areaBest 0 == some (3, 24576)) = true ∧ (3 + 1) % 64 ≠ 0 ∧ 3 < 511 ∧
    allOnes (wordChip.areaWord 0 4) = true ∧ wordChip.mem.infoWeak.contains (1025 + 3) = false ∧
    wordChip.cns.noEmpty.contains (16 + (3 + 1) / 64) = false ∧ wordChip.wordNow = true ∧ wordChip.clk.pfw = false ∧
    wordChip.startWord.serial ≠ 0x7FFFF := by
  decide +kernel

/-! ## Witnesses: Accession and orders -/

theorem hyps_InputQualification :
    let n : Fin 24 := 5
    let k : Cand := { t0 := 800000000, stamp := 5, angle := 6, cycle := 7, quality := 3, last := 899999600, debounce := 400 }
    let chip (f : Chip → Chip) (raw : Bool) (b : Bi) : Chip :=
      f { vals [(0x3105, 1, 1)] (atTick 900000000 chip0) with
        acc := { en := true, rawBi := if raw then 0x20 else 0, bis := (Vector.replicate 24 {}).set n b } }
    let bi (raw : Bool) (b : Bi) : Chip := chip id raw b
    let set (l : List (Nat × Nat × Nat)) (raw : Bool) (b : Bi) : Chip := chip (vals l) raw b
    let c := bi true { qual := true, cand := some k }
    let i := 0x3105
    (∀ r q k, Live (state (bi r { qual := q, cand := k }))) ∧
    (∀ q, (bi q { qual := q }).acc.en = true ∧ (bi q { qual := q }).biOn n = true ∧ (bi q { qual := q }).biRaw n = q) ∧
    c.acc.bis[n].cand = some k ∧ k.last + k.debounce ≤ c.clk.raw ∧ c.biRaw n = c.acc.bis[n].qual ∧
    (bi false { qual := true, cand := some k, supp := true }).biRaw n ≠ true ∧
    (∀ q, (bi (!q) { qual := q, cand := some k }).biRaw n ≠ q ∧ (bi (!q) { qual := q, cand := some k }).cfg i 5 = 0 ∧
      ((bi (!q) { qual := q, cand := some k }).cfg i 4).testBit (if !q then 0 else 1) = true ∧
      (bi (!q) { qual := q, cand := some k }).biOn n = true ∧ (bi (!q) { qual := q, cand := some k }).acc.queue = []) ∧
    (∀ q, ((set [(i, 4, 0)] (!q) { qual := q, cand := some k }).cfg i 4).testBit (if !q then 0 else 1) = false ∧
      (set [(i, 4, 0)] (!q) { qual := q, cand := some k }).cfg i 5 = 0) ∧
    (let d := set [(i, 5, 4), (i, 6, 100)] false { qual := true, cand := some k, win := some (890000000, 3) }
     d.biRaw n ≠ true ∧ d.clk.raw < 890000000 + 400000 * d.cfg i 6 ∧ d.cfg i 5 ≠ 0 ∧ 3 + 1 = d.cfg i 5) ∧
    (let d := set [(i, 5, 4), (i, 6, 100)] false { qual := true, cand := some k, win := some (860000000, 3) }
     d.biRaw n ≠ true ∧ ¬d.clk.raw < 860000000 + 400000 * d.cfg i 6 ∧ 1 ≠ d.cfg i 5) ∧
    (let d := set [(i, 6, 100)] true { qual := true, win := some (860000000, 1) }
     d.acc.bis[n].win = some (860000000, 1) ∧ 860000000 + 400000 * d.cfg i 6 ≤ d.clk.raw) ∧
    (let d := set [(i, 7, 100)] true { qual := true, supp := true, suppRun := 0x1000005, lastTrans := 860000000 }
     d.acc.bis[n].supp = true ∧ d.acc.bis[n].cand = none ∧ d.acc.bis[n].lastTrans + 400000 * d.cfg i 7 ≤ d.clk.raw) := by
  intro n k chip bi set c i
  refine ⟨fun r q k => ⟨rfl, rfl⟩, ?_⟩
  decide +kernel

def withKey (n : Fin 16) (k : KeySlot) (c : Chip) : Chip := { c with vlt := { c.vlt with slots := c.vlt.slots.set n (some k) } }
def key16 : Bytes := (List.range 16).map (BitVec.ofNat 8)
def slot16 : KeySlot := Chip.keySlot key16 0

/-- A record of a kind, and it waiting to be sealed. -/
def kindRecord (kind : Nat) : Record :=
  { stamp := 9, angle := 8, cycle := 7, quality := 6, seq := 0, source := BitVec.ofNat 16 (kind * 4096 + 5), snap := 3, data := 9, tag := 0 }
def waiting (kind t : Nat) : Arisen := { rcd := kindRecord kind, tick := t, cls := 3, t0 := 0 }

/-- A journal in use: next number 40, block 3, slot 5, with the chain key and the checkpoint key. -/
def journal (f : Acc → Acc) : Chip :=
  withKey 0 slot16 (withKey 2 slot16 { vals [(0x3000, 2, 0)] (atTick 900000000 chip0) with
    acc := f { en := true, jSlot := 5, jBlock := 3, nextSeq := 40, drainSeq := 40, prevTag := 77 } })

theorem hyps_Sealing :
    let put (x : Nat × (Acc → Acc)) : Nat × Chip := (x.1, journal fun a => x.2 { a with queue := [waiting x.1 9] })
    let anchor : Anchor := { seq := 39, tag := 5, stamp := 6 }
    let lost := journal fun a => { a with queue := [waiting 0 9], nextSeq := 40 + 4096 - 64 }
    let due := journal fun a => { a with newest := some anchor, lastAnchor := 7, jSlot := 252 }
    let sign := journal fun a => { a with ckSign := some anchor, jSlot := 0 }
    let post (n : Nat) := journal fun a => { a with postUntil := n, postSrc := 0xF234, postDat := 0x12345678 }
    (∀ x ∈ [put (0, id), put (15, fun a => { a with jSlot := 254, untested := true }),
        put (3, fun a => { a with nextSeq := 40 + 4095, jSlot := 1 })],
      let c := x.2
      let a := waiting x.1 9
      (c.clk.running = true ∧ c.asks = []) ∧ c.acc.en = true ∧ c.acc.jSlot ≠ 0 ∧ c.acc.jSlot < 255 ∧ c.acc.queue = [a] ∧ c.acc.losing = false ∧
      HasKey c 0 slot16 ∧ c.acc.lost = none ∧ (∀ i < 32, c.judge 2 .write (0x11000000 + 32 * c.ringSlot c.acc.nextSeq + i) false = 0) ∧
      a.rcd.kind ∉ [9, 10, 11, 14] ∧ (if a.rcd.kind = 0 ∨ a.rcd.kind = 15 then 64 < c.laneFree else 1 ≤ c.laneFree) ∧
      (c.cfg 0x3000 2).testBit a.rcd.kind = false ∧ c.acc.ckReady = none ∧ c.acc.nextSeq < 4294967295) ∧
    Live (state lost) ∧ lost.acc.en = true ∧ lost.acc.jSlot ≠ 0 ∧ lost.acc.queue = [waiting 0 9] ∧ (waiting 0 9).rcd.kind = 0 ∧
    lost.laneFree ≤ 64 ∧ lost.acc.ckReady = none ∧ lost.acc.lost = none ∧
    Live (state due) ∧ due.acc.newest = some anchor ∧ due.acc.en = true ∧ anchor.seq ≠ due.acc.lastAnchor ∧
    due.acc.anchorTick + 400000000 ≤ due.clk.raw ∧ due.acc.ckSign = none ∧ due.acc.ckReady = none ∧ due.acc.jSlot ≠ 0 ∧ due.acc.jSlot ≤ 252 ∧
    4 ≤ due.laneFree ∧
    Live (state sign) ∧ sign.acc.ckSign = some anchor ∧ sign.ckHasEcc = true ∧ HasKey sign 2 slot16 ∧
    ∀ n ∈ [900000000, 900000001], Live (state (post n)) ∧ (post n).bus.staged = [] := by
  unfold Live HasKey; decide +kernel

/-- An order message for key 1 that lasts until second 105. -/
def orderBytes (action mask width tag : Nat) : Bytes :=
  leBytes 4 0x40000007 ++ [byteOf action, byteOf mask, 0, 0] ++ leBytes 2 0 ++ leBytes 2 width ++ leBytes 8 0
    ++ leBytes 8 112742891520 ++ leBytes 4 16384 ++ beBytes 8 tag

/-- Verify is enabled, key 1 is loaded and may be used at the host port, outputs 5 and 6 are enabled. -/
def orderChip (l : List OrderMsg) (floor : Nat) : Chip :=
  withKey 4 slot16 (vals [(0x4000, 9, 0x8FFF), (0x4105, 1, 1), (0x4106, 1, 1), (0x4000, 1, 0), (0x4000, 3, 60000)]
    { atTick 900000000 chip0 with
      ord := { ven := true, keys := Vector.replicate 4 { ceil := 32768, floor := floor }, waiting := l }, time := { sec := 100, tick := 40 }
      host := { open_ := true } })

def plainMsg (b : Bytes) : OrderMsg := { port := .host, tick := 5, bytes := b, reply := .none }
def release5 : OrderMsg := plainMsg (orderBytes 1 0x20 0 0xd126fe4ed6cef266)
def badTag : OrderMsg := plainMsg (release5.bytes.set 39 7)

theorem hyps_OrderVerify_message :
    let h := orderChip [] 0
    let m := orderChip [{ release5 with full := true }] 0
    Live (state h) ∧ release5.bytes.length = 40 ∧ HostTakes h ∧ h.dead = false ∧ h.cat.loaded = true ∧ assoc 0x420001 h.cat.staged = none ∧
    (∀ i < 40, h.judge 3 .read (0x40008000 + i) false = 0) ∧ Live (state m) ∧
    Chip.nextMsg (m.ord.waiting.filter (·.full)) = some { release5 with full := true } ∧ m.ord.cancels = [] := by
  unfold Live HostTakes; decide +kernel

theorem order_tag : (Crypto.cmac slot16.key (release5.bytes.take 32)).take 8 = slice release5.bytes 32 8 := by decide +kernel

theorem bad_tag : (Crypto.cmac slot16.key (badTag.bytes.take 32)).take 8 ≠ slice badTag.bytes 32 8 := by
  rw [show badTag.bytes.take 32 = release5.bytes.take 32 by decide +kernel, order_tag]
  decide +kernel

theorem hyps_OrderVerify_tag :
    let w := orderChip [badTag] 0
    Live (state w) ∧ 32 ≤ w.freeSlots ∧ Chip.nextMsg w.ord.waiting = some badTag ∧ badTag.full = false ∧ w.ord.cancels = [] ∧ HasKey w 4 slot16 ∧ w.start.mode ≠ 2 ∧
    w.clk.pfw = false ∧ w.ord.ven = true ∧ w.start.life ≠ .retd ∧ msgKey badTag.bytes = 1 ∧ (w.cfg 0x4000 9).testBit 15 = true ∧
    (w.cfg 0x4000 9).testBit (8 + orderPort .host) = true ∧ Chip.keyUnavailable w.ord.keys[1] = false := by
  unfold Live HasKey; decide +kernel

def malformed : OrderMsg := plainMsg (orderBytes 0 0x20 0 0x862daca601546661)
def cancel5 : OrderMsg := plainMsg (orderBytes 2 0x20 0 0xecf227cd4bccf4f9)
def ceiling (n : Nat) (c : Chip) : Chip := { c with ord := { c.ord with keys := Vector.replicate 4 { ceil := n } } }
def authentics : List (Chip × OrderMsg) := [(orderChip [release5] 0, release5), (orderChip [release5] 16384, release5),
  (ceiling 16384 (orderChip [release5] 0), release5), (orderChip [malformed] 0, malformed), (orderChip [cancel5] 0, cancel5)]

theorem cancel_tag : (Crypto.cmac slot16.key (cancel5.bytes.take 32)).take 8 = slice cancel5.bytes 32 8 := by decide +kernel

theorem malformed_tag : (Crypto.cmac slot16.key (malformed.bytes.take 32)).take 8 = slice malformed.bytes 32 8 := by decide +kernel

theorem hyps_OrderVerify_authentic : ∀ x ∈ authentics, Authentic x.1 x.2 slot16 := by
  have h : ∀ x ∈ authentics, x.1.start.mode ≠ 2 ∧ x.1.clk.pfw = false ∧ x.1.ord.ven = true ∧ x.1.start.life ≠ .retd ∧
      (x.1.cfg 0x4000 (8 + (msgKey x.2.bytes).val)).testBit 15 = true ∧
      (x.1.cfg 0x4000 (8 + (msgKey x.2.bytes).val)).testBit (8 + orderPort x.2.port) = true ∧
      Chip.keyUnavailable (x.1.ord.keys[msgKey x.2.bytes]) = false ∧ HasKey x.1 (3 + (msgKey x.2.bytes).val) slot16 := by
    unfold HasKey; decide +kernel
  have g : ∀ x ∈ authentics, x.2 = release5 ∨ x.2 = malformed ∨ x.2 = cancel5 := by decide +kernel
  intro x hx
  obtain ⟨h1, h2, h3, h4, h5, h6, h7, h8⟩ := h x hx
  refine ⟨h1, h2, h3, h4, h5, h6, h7, h8, ?_⟩
  rcases g x hx with e | e | e <;> rw [e]
  · exact order_tag
  · exact malformed_tag
  · exact cancel_tag

/-- A malformed message, a stale one, one at the ceiling, and one that is neither. -/
theorem hyps_OrderVerify_checks :
    let floor (x : Chip × OrderMsg) := (x.1.ord.keys[msgKey x.2.bytes]).floor
    let ceil (x : Chip × OrderMsg) := (x.1.ord.keys[msgKey x.2.bytes]).ceil
    let new := (orderChip [release5] 0, release5)
    let old := (orderChip [release5] 16384, release5)
    let far := (ceiling 16384 (orderChip [release5] 0), release5)
    let cancel := (orderChip [cancel5] 0, cancel5)
    (∀ x ∈ authentics, x.1.clk.running = true ∧ x.1.asks = [] ∧ 32 ≤ x.1.freeSlots ∧ Chip.nextMsg x.1.ord.waiting = some x.2 ∧
      x.1.ord.cancels = [] ∧ x.2.full = false ∧ msgFormed x.2.bytes = decide (x.2 ≠ malformed)) ∧
    msgSeq old.2.bytes ≤ floor old ∧ floor far < msgSeq far.2.bytes ∧ ceil far ≤ msgSeq far.2.bytes ∧
    (∀ x ∈ [new, cancel], floor x < msgSeq x.2.bytes ∧ msgSeq x.2.bytes + 16384 ≤ ceil x ∧ x.1.verifyTime x.2.bytes = none) ∧
    msgAction cancel.2.bytes = 2 ∧ NoOrders cancel.1 ∧ msgAction new.2.bytes ≠ 2 ∧ new.1.verifyOuts new.2 = none ∧
    new.1.freeEntry = some 0 ∧ msgRef new.2.bytes = 0 ∧ msgNotBefore new.2.bytes = 0 := by
  unfold NoOrders; decide +kernel

theorem hyps_OrderOutputs :
    let na := (stampOf 105 0).toNat
    let o : OutOrder := { out := 5, release := 900000000, delay := 0, width := 400, high := true, stage := .pending, read1 := false
                          endTick := 0, cut := false }
    let held (a nb na : Nat) (o : OutOrder) : Held :=
      { id := 0x40000007, action := a, mask := 0x20, ref := 0, flags := 0, angle := 0, width := 0, notBefore := nb, notAfter := na, key := 1
        port := .canA, immediate := true, fallback := false, j := 0, outs := [o] }
    let with_ (h : Held) (armed : Bool) : Chip :=
      let c := orderChip [] 0
      { c with ord := { c.ord with hold := c.ord.hold.set 3 (some h), armed := armed, armLowSince := some 899999600 } }
    let now := (orderChip [] 0).clk.raw
    let pulse (n : Nat) (r : Bool) : OutOrder := { o with stage := .pulsing, release := n, read1 := r }
    let idle := orderChip [] 0
    let latched := vals [(0x4105, 5, 1)] idle
    let t0 := idle.stamp.toNat
    let ended : OutOrder := { o with stage := .ended, read1 := true, endTick := 899999200 }
    (∀ h ∈ [held 1 0 na o, held 3 0 na o, held 1 t0 t0 o, held 3 t0 t0 o, held 1 na na o, held 1 0 na (pulse 899999600 true),
        held 1 0 na (pulse 899999200 false), held 1 0 na ended], ∀ armed,
      (with_ h armed).clk.running = true ∧ (with_ h armed).asks = [] ∧ OnlyHeld (with_ h armed) 3 h ∧ (with_ h armed).ord.armed = armed ∧
      (with_ h armed).stamp.toNat = t0) ∧
    t0 < na ∧ o.stage = .pending ∧ o.release ≤ now ∧ 899999600 + o.width ≤ now ∧ 899999200 + 800 ≤ now ∧
    (0x20 : Byte).getLsbD 5 = true ∧ (0 : Byte).getLsbD 5 ≠ true ∧
    Live (state idle) ∧ idle.ord.armLowSince = none ∧ NoOrders idle ∧
    (with_ (held 1 0 na o) true).ord.armLowSince = some 899999600 ∧ 899999600 + 400 ≤ now ∧ 20 ≤ 20 ∧
    Live (state latched) ∧ latched.cfgB 0x4105 5 = true ∧ CatReady latched := by
  unfold Live CatReady OnlyHeld NoOrders; decide +kernel

/-! ## Witnesses: Conservator, Vault, entropy, Catalogue -/

def page5 : Bytes := padTo 0xFF 512 [1, 2, 3]
/-- A chip whose Conservator is `k`. -/
def consChip (k : Cns) : Chip := { atTick 900000000 chip0 with cns := k }
def running (op : FlashOp) : Chip := consChip { run := some { op := op, guarded := false, nested := false } }
/-- `n` shelved records from number 40 on, from journal slot `pos`. -/
def shelf (n pos : Nat) (c : Chip) : Chip :=
  { c with acc := { c.acc with
    drainSeq := 40, nextSeq := 40 + n
    ring := (List.range n).map fun i => (40 + i, { rcd := kindRecord 3, seq := 40 + i, pos := pos + i, tick := 8 }) } }

theorem hyps_WindowCommands :
    let win (w : CoreId) (a : Word) (pfw : Bool) : Chip :=
      let c := setWin w { addr := a } (consChip {})
      { c with clk := { c.clk with pfw := pfw } }
    (∀ w : CoreId, ∀ x ∈ [(0x20750010, 0x20750200), (0x21000010, 0x30000000)], ∀ pfw,
      let c := win w (BitVec.ofNat 32 x.1) pfw
      c.asks = [] ∧ c.clk.running = true ∧ WinFree c w ∧ c.clk.pfw = pfw ∧ (c.win w).addr.toNat = x.1 ∧
      winAligned 1 x.1 = false ∧ winAligned 2 x.2 = false) ∧
    (∀ w : CoreId, (∀ a ∈ [0x20280000, 0x21000000, 0x20740000], winAligned 1 a = true ∧ winAligned 2 a = true ∧ winGranted w a = false) ∧
      winAligned 1 0x20750200 = true ∧ (∀ a ∈ [0x20750000, 0x207FE000], winAligned 2 a = true ∧ winGranted w a = true)) ∧
    winGranted .registrar 0x20000000 = true ∧ winGranted .curator 0x20000000 = false ∧ winGranted .registrar 0x21002000 = true ∧
    (∀ w : CoreId, ∀ n ∈ ([1, 2, 3] : List Byte), 1 ≤ ((setWin w { res := n } (consChip {})).win w).res.toNat ∧
      ((setWin w { res := n } (consChip {})).win w).res.toNat ≤ 3) := by
  unfold WinFree
  intro win
  refine ⟨?_, ?_, by decide +kernel, by decide +kernel, by decide +kernel, ?_⟩ <;> intro w <;> cases w <;> decide +kernel

/-- A command of each window waits between an erase ahead and a command of the other. -/
theorem hyps_WindowCommands_cancel : ∀ w : CoreId, ∀ op ∈ [FlashOp.winErase w 0x20750000, .winProgram w 0x20750200 page5],
    let l := [FlashOp.preErase 5]
    let m := [FlashOp.winErase (otherCore w) 0x20750000]
    let c := consChip { queue := l ++ op :: m }
    Live (state c) ∧ c.cns.queue = l ++ op :: m ∧ (∀ o ∈ l ++ m, Chip.opWindow o ≠ some w) ∧ c.cns.cwinOrphan = false := by
  intro w; cases w <;> unfold Live <;> decide +kernel

theorem hyps_WindowCommands_start : ∀ op ∈ [FlashOp.winErase .curator 0x20750000, .winProgram .registrar 0x20750200 page5],
    let c := consChip { queue := [op] }
    Live (state c) ∧ c.cns.queue = [op] ∧ c.cns.rjobs = [] ∧ c.cns.run = none ∧
    c.cns.susp = none ∧ c.clk.pfw = false ∧ c.unprogrammed = 0 ∧ 0x750200 < 0x800000 ∧ c.retired (0x750200 / 8192) = false ∧
    c.notBlank (0x750200 / 8192) (0x750200 % 8192 / 512) page5 = [] ∧
    { c with mem := { flash := [(0x750200, 7)] } }.notBlank (0x750200 / 8192) (0x750200 % 8192 / 512) page5 ≠ [] ∧ 936 ≤ 0x750200 / 8192 := by
  unfold Live; decide +kernel

theorem hyps_WindowCommands_page : ∀ x ∈ [(16, 0), (11, 256 * 3 + 5), (1, 15)],
    let c := shelf x.1 x.2 (consChip {})
    Live (state c) ∧ c.cns.run = none ∧ c.cns.susp = none ∧ c.clk.pfw = false ∧ c.cns.rjobs = [] ∧
    c.shelved c.acc.drainSeq = some { rcd := kindRecord 3, seq := 40, pos := x.2, tick := 8 } ∧ 16 - x.2 % 16 ≤ c.unprogrammed ∧
    c.cns.queue = [] ∧ c.retired (320 + x.2 / 256) = false ∧ c.drainRefused c.acc.drainSeq (16 - x.2 % 16) = none := by
  unfold Live; decide +kernel

theorem hyps_FlashEnds_program : ∀ off ∈ [0x750200, 8192 * 894],
    let op := FlashOp.winProgram .curator (0x20000000 + off) page5
    let c := running op
    Live (state c) ∧ c.tag.waitRead = none ∧ c.rgr.imgStatus ≠ 4 ∧ c.cns.run = some { op, guarded := false, nested := false } ∧
    off < 0x800000 ∧ off % 512 = 0 ∧ page5.length = 512 ∧ c.retired (off / 8192) = false ∧
    c.mem.cut.contains (c.physOf (off / 8192)) = false ∧ c.mem.ecc = [] ∧ c.mem.flash = [] ∧
    ((Chip.pageWords page5).any fun x => [0].contains x.1) = true := by
  unfold Live; decide +kernel

theorem hyps_FlashEnds :
    let j := shelf 11 (256 * 3 + 5) (running (.journalPage 3 0 40 11 false))
    let old : Chip := { shelf 11 (256 * 3 + 5) (consChip {}) with clk := { (consChip {}).clk with raw := 40000008 } }
    let erase := running (.winErase .registrar (0x20000000 + 0x7FE000))
    let info := running (.winErase .registrar (0x21000000 + 512 * 31))
    let susp := { consChip { susp := some (.winErase .curator 0x20750000), lastRead := 899999200 } with mem := {} }
    (∀ c ∈ [j, old, erase, info, susp], c.clk.running = true ∧ c.asks = [] ∧ c.tag.waitRead = none ∧ c.rgr.imgStatus ≠ 4) ∧
    j.cns.run = some { op := .journalPage 3 0 40 11 false, guarded := false, nested := false } ∧
    j.retired 323 = false ∧ j.notBlank 323 0 (j.journalData 40 11) = [] ∧
    erase.cns.run = some { op := .winErase .registrar (0x20000000 + 0x7FE000), guarded := false, nested := false } ∧ 0x7FE000 < 0x800000 ∧
    info.cns.run = some { op := .winErase .registrar (0x21000000 + 512 * 31), guarded := false, nested := false } ∧ 31 < 32 ∧
    susp.cns.susp = some (.winErase .curator 0x20750000) ∧ susp.cns.run = none ∧
    susp.cns.lastRead + 800 ≤ susp.clk.raw ∧ susp.clk.pfw = false ∧
    old.shelved old.oldestWaiting = some { rcd := kindRecord 3, seq := 40, pos := 773, tick := 8 } ∧ old.oldestWaiting ≠ old.acc.nextSeq ∧
    8 + 40000000 ≤ old.clk.raw := by
  decide +kernel

theorem hyps_ConservationPass :
    let due (l : List (Nat × Nat × Nat)) : Chip := { vals l chip0 with time := { sec := 200000, tick := 7 } }
    let on (k : Cns) : Chip := consChip { k with pass := true, passTick := 5 }
    let waits := on { sched := [9], passPos := 5 }
    let last := on { passPos := 1023 }
    let pending := on { passPos := 7, queue := [.remap (.preErase 3) 1 7 0 []] }
    let busy := on { passPos := 7, run := some { op := .poolErase 1030, guarded := true, nested := false } }
    let gone := on { passPos := 7, map := [(7, 0x7FF)] }
    let done := on { passPos := 1024 }
    (∀ l ∈ [[], [(0x5000, 6, (stampOf 113600 0).toNat), (0x5000, 4, 1)], [(0x5000, 6, (stampOf 200001 0).toNat), (0x5000, 4, 1)]],
      (due l).asks = [] ∧ (due l).clk.running = true ∧ (due l).cns.pass = false ∧ (due l).acc.en = true ∧
      ((due l).cfg 0x5000 6 = 0 ∨ (due l).nowNs < stampNs (BitVec.ofNat 64 ((due l).cfg 0x5000 6)) ∨
        stampNs (BitVec.ofNat 64 ((due l).cfg 0x5000 6)) + (due l).cfg 0x5000 4 * 86400 * 1000000000 ≤ (due l).nowNs)) ∧
    (∀ c ∈ [waits, last, pending, busy, gone, done], c.clk.running = true ∧ c.asks = [] ∧ c.cns.pass = true ∧
      c.cns.passTick + 400000 * c.cfg 0x5000 5 ≤ c.clk.raw) ∧
    (waits.cns.sched = [9] ∧ waits.passBusy 9 = false ∧ waits.retired 9 = false ∧ waits.cns.run = none ∧ waits.underErase 9 = false ∧
      waits.mem.ecc = [] ∧ waits.mem.cut = []) ∧
    (∀ c ∈ [last, pending, busy, gone, done], c.cns.sched = []) ∧
    (last.cns.passPos = 1023 ∧ last.passBusy 1023 = false ∧ last.cns.run = none ∧ last.underErase 1023 = false ∧
      last.retired 1023 = false ∧ last.mem.ecc = [] ∧ last.mem.cut = [] ∧ .refresh 1023 ∉ last.cns.queue) ∧
    (pending.cns.passPos = 7 ∧ pending.passBusy 7 = true) ∧
    (busy.cns.passPos = 7 ∧ busy.passBusy 7 = false ∧ busy.readWaits (some 7) = true) ∧
    (gone.cns.passPos = 7 ∧ gone.passBusy 7 = false ∧ gone.readWaits (some 7) = false ∧ gone.retired 7 = true) ∧
    1024 ≤ done.cns.passPos ∧ done.cns.passLater = [] := by
  decide +kernel

theorem hyps_VaultCommands : ∀ ch : CoreId, ∀ r ∈ ([0, 4, 0x11] : List Byte),
    let c := setChan ch { slot := 5, flags := 3, len := 9, attr := 0x1234, iv := [(0, 5)], key := [(3, 4)], inp := [(7, 7)], res := r } chip0
    (c.clk.running = true ∧ c.asks = []) ∧ c.vlt.jobs = [] ∧ (c.chan ch).res ≠ 1 ∧ (c.chan ch).res ≠ 2 := by
  intro ch; cases ch <;> decide +kernel

/-- A command at the engines. -/
def jobFor (ch : CoreId) (cmd slot flags len : Nat) (inp : Bytes) : VaultJob :=
  { ch, cmd, slot, flags, len, attr := 0x1001, iv := padTo 3 16 [1], key := key16, inp := padTo 7 256 inp, orphan := false }

def engineChip (j : VaultJob) (slot : Option KeySlot) : Chip :=
  { atTick 900000000 chip0 with vlt := { slots := (Vector.replicate 16 none).set 9 slot, jobs := [j], ready := true } }

/-- One command of each kind over a key of the type that it takes, with the attribute bit that it asks for; a point for the commands
that take one. -/
theorem hyps_VaultResults_run :
    let g := Crypto.ptBytes Crypto.basePoint
    ∀ x ∈ [(CoreId.curator, 1, 1, 32, ([] : Bytes), 0x3001, 0, [0, 1]), (.registrar, 3, 3, 48, [], 0x3101, 0, [0, 1]), (.curator, 5, 3, 256, [], 0x3001, 0, [0, 1]),
        (.curator, 2, 1, 32, [], 0x3002, 1, [0, 1]), (.registrar, 4, 3, 0, [], 0x3002, 1, [0, 1]), (.curator, 6, 3, 17, [], 0x3104, 2, [0, 1]),
        (.curator, 9, 3, 9, [], 0x3208, 3, [2]), (.registrar, 10, 1, 32, [], 0x3310, 4, [3]), (.curator, 12, 1, 64, g, 0x3320, 5, [3])],
      let ⟨ch, cmd, flags, len, inp, attr, bit, types⟩ := x
      let j := jobFor ch cmd 9 flags len inp
      let k := Chip.keySlot (if types = [3] ∨ types = [2] then padTo 9 32 key16 else key16) attr
      let c := engineChip j (some k)
      (c.clk.running = true ∧ c.asks = []) ∧ AtEngine c j ∧ j.flags.testBit 0 = true ∧ j.len ≤ 256 ∧ HasKey c j.slot k ∧ MayUse ch k bit types ∧
      (cmd < 6 → j.len % 16 = 0) ∧ (cmd = 6 ∨ cmd = 9 → j.flags.testBit 1 = true) ∧ (cmd = 12 →
        Crypto.onCurve (beNat ((j.inp.take 64).take 32)) (beNat ((j.inp.take 64).drop 32)) = true) := by
  unfold AtEngine HasKey MayUse; decide +kernel

theorem hyps_VaultResults :
    let g := Crypto.ptBytes Crypto.basePoint
    let hash := jobFor .registrar 8 9 3 255 []
    let first := jobFor .registrar 8 9 1 128 []
    let verify := jobFor .curator 11 9 1 160 (padTo 3 32 [8] ++ g ++ beBytes 32 5 ++ beBytes 32 6)
    let pub := jobFor .curator 13 9 1 0 []
    let empty := jobFor .curator 1 9 3 32 []
    let masked := Chip.keySlot key16 0x400F
    let k3 := Chip.keySlot (padTo 9 32 key16) 0x3330
    let load := jobFor .curator 0x10 15 1 0 []
    let clear := jobFor .curator 0x11 9 1 0 []
    (∀ j ∈ [hash, first, verify, pub, empty, load, clear], AtEngine (engineChip j none) j ∧ j.flags.testBit 0 = true ∧ j.len ≤ 256 ∧
      (engineChip j none).clk.running = true ∧ (engineChip j none).asks = [] ∧ j.ch = j.ch) ∧
    hash.flags.testBit 1 = true ∧ first.flags.testBit 1 = false ∧ first.len % 64 = 0 ∧ verify.len = 160 ∧
    Crypto.onCurve (beNat ((slice verify.inp 32 64).take 32)) (beNat ((slice verify.inp 32 64).drop 32)) = true ∧
    Crypto.sigInRange (slice verify.inp 96 64) = true ∧
    HasKey (engineChip pub (some k3)) 9 k3 ∧ k3.attr.toNat / 256 % 4 = 3 ∧ (engineChip empty none).slotOf 9 = none ∧
    HasKey (engineChip empty (some masked)) 9 masked ∧ masked.attr.toNat.testBit 14 = true ∧
    load.ch = .curator ∧ 9 ≤ load.slot ∧ load.slot < 16 ∧ (engineChip load none).vlt.slots[15] = none ∧ Chip.loadOk load = true ∧
    load.attr.testBit 15 = false ∧ clear.ch = .curator := by
  unfold AtEngine HasKey; decide +kernel

/-- Not first: with a chain, and without one; a wrong length; a key that is to be kept, with and without PFW_N. -/
theorem hyps_VaultResults_chain :
    let j := jobFor .registrar 8 9 0 64 []
    let short := jobFor .registrar 8 9 1 60 []
    let bad := jobFor .curator 11 9 1 160 []
    let keep := { jobFor .curator 0x10 12 1 0 [] with attr := 0x9001 }
    let chip (j : VaultJob) (k : Option Chain) : Chip :=
      let c := engineChip j none
      { c with vlt := { c.vlt with rch := { chain := k } } }
    AtEngine (chip j none) j ∧ j.flags.testBit 0 = false ∧ ((chip j none).chan .registrar).chain = none ∧
    GoesOn (chip j (some { cmd := 8, slot := 9, acc := [1, 2] })) j [1, 2] ∧
    AtEngine (chip short none) short ∧ short.len % 64 ≠ 0 ∧ short.flags.testBit 1 = false ∧
    AtEngine (chip bad none) bad ∧ Crypto.onCurve (beNat ((slice bad.inp 32 64).take 32)) (beNat ((slice bad.inp 32 64).drop 32)) = false ∧
    AtEngine (chip keep none) keep ∧ Chip.loadOk keep = true ∧ keep.attr.testBit 15 = true ∧
    AtEngine (chip (jobFor .curator 0x11 8 1 0 []) none) (jobFor .curator 0x11 8 1 0 []) := by
  unfold AtEngine GoesOn; decide +kernel

theorem hyps_VaultResults_write :
    let j := { jobFor .curator 0x10 12 1 0 [] with attr := 0x9001 }
    let c := running .vaultWrite
    let d := { c with vlt := { ready := true, writes := [.load j, .ceiling 2 5], counter := 4294967295, cch := { res := 2 } } }
    Live (state d) ∧ d.cns.run = some { op := .vaultWrite, guarded := false, nested := false } ∧ d.vlt.writes = [.load j, .ceiling 2 5] ∧
    j.orphan = false ∧ j.slot < 16 ∧ d.rgr.imgStatus ≠ 4 ∧
    ((d.wkTarget 0 (d.wkEntry (.load j))).any fun x =>
      !d.retired x.1 && d.notBlank x.1 x.2.1 x.2.2 == [] && Chip.pageWords x.2.2 != []) = true := by
  unfold Live; decide +kernel

/-- Samples that change at every third. -/
def thirds : List Bool := (List.range 1024).map fun i => i % 3 = 0

theorem thirds_get (i : Nat) (h : i < 1024) : thirds[i]? = some (decide (i % 3 = 0)) := by
  simp [thirds, h]

theorem thirds_change : ∀ i, i + 41 ≤ 1024 → ∃ j, j < 41 ∧ thirds[i + j]? ≠ thirds[i]? := by
  intro i h
  refine ⟨3 - i % 3 - 2 * bit (decide (i % 3 = 0)), ?_, ?_⟩
  · unfold bit; split <;> omega
  · rw [thirds_get i (by omega), thirds_get _ (by omega)]
    by_cases z : i % 3 = 0
    · simp [z, bit]; omega
    · simp [z, bit]; omega

theorem hyps_Entropy :
    let on (t : Trn) : Chip := { chip0 with trn := t }
    let test := on {}
    let blocked (n : Nat) := on { st := .blocked, restarts := n, fifo := [5] }
    let out (n : Nat) := on { st := .delivering, fifo := List.replicate n 7, restarts := 4 }
    let alike := (List.range 1024).map fun i => decide (i % 32 ≠ 31)
    (Live (state test) ∧ test.trn.st = .testing ∧ test.trn.last = none ∧ test.trn.aptN = 0 ∧ thirds.length = 1024 ∧
      thirds.count (thirds.headD false) < 800 ∧ alike.length ≤ 1024 ∧ 800 ≤ alike.count (alike.headD false)) ∧
    (∀ n ∈ [0, 3, 4], Live (state (blocked n)) ∧ (blocked n).trn.st = .blocked ∧ (blocked n).may .curator true 0x40006008 0xA5 = true) ∧
    (out 0).may .registrar false 0x40006004 0 = true ∧ (out 0).may .debug false 0x40006004 0 = false ∧
    ∀ n ∈ [0, 1, 31, 32], Live (state (out n)) ∧ (out n).trn.st = .delivering ∧ (out n).trn.fifo.length = n ∧
      (Chip.trnSamples ((List.range 8).map fun i => (0x31 : Byte).getLsbD i) (out n).trn).2 = 0 := by
  unfold Live; decide +kernel

def catChip (t : Cat) : Chip :=
  { atTick 9000000000 chip0 with
    acc := { en := true, nextSeq := 9, hostMark := 2 }, cat := { t with loaded := true }, host := { open_ := true, busy := some 1 } }

theorem hyps_CatalogueTransactions :
    let mark : List (Nat × Bytes) := [(256 * 0x3200 + 6, leBytes 4 5)]
    let free := catChip { txState := 3 }
    let own (p : Port) (l : List (Nat × Bytes)) := catChip { txState := 1, owner := p, token := 66000, txTick := 5, staged := l }
    let x (p : Port) : CrossApply := { vals := [], count := 3, token := 70000, port := p, limit := 9000000000 }
    let cross (p : Port) := catChip { crossing := [x p], result := 5 }
    let wait := catChip { txState := 2 }
    (free.clk.running = true ∧ free.asks = [] ∧ free.cat.loaded = true ∧ free.cat.txState ≠ 1 ∧ free.cat.txState ≠ 2) ∧
    (wait.clk.running = true ∧ wait.asks = [] ∧ wait.cat.loaded = true ∧ wait.cat.txState = 2) ∧
    ∀ p ∈ [Port.host, .canA, .canB, .twoWire],
      (∀ l ∈ [[], mark], let c := own p l
        (c.clk.running = true ∧ c.asks = []) ∧ c.cat.loaded = true ∧ c.cat.txState = 1 ∧
        c.cat.owner = p ∧ c.cat.staged = l ∧ c.commitRelationsOk l = true ∧ c.cat.txTick + 400000 * c.cfg 0x1F00 6 ≤ c.clk.raw) ∧
      (cross p).cat.crossing = [x p] ∧ (x p).vals = [] ∧ (x p).limit ≤ (cross p).clk.raw ∧ (x p).port = p ∧
      ((cross p).clk.running = true ∧ (cross p).asks = []) := by
  decide +kernel

theorem hyps_CatalogueService_requests :
    let rq (w : Bool) (idx sub : Nat) (d : Bytes) : CatReq := { port := .host, tick := 8999999599, write := w, idx := idx, sub := sub, data := d, reply := .host }
    ∀ q ∈ [rq false 0x1000 4 [], rq true 0x1000 6 [1], rq true 0x3200 6 (leBytes 4 8), rq false 0x2010 1 []],
      let c := catChip { reqs := [q] }
      Live (state c) ∧ c.cat.reqs = [q] ∧ q.tick / 400 < c.clk.raw / 400 ∧ q.reply = .host ∧ c.host.busy = some 1 ∧ firmwareIdx q.idx = false ∧
      (objRow q.idx q.sub).isSome = true ∧ ((objRow q.idx q.sub).map fun o => (o.acc = .wo, o.acc = .ro)) ≠ none ∧
      (q.write = false → (objRow q.idx q.sub).map (·.acc) ≠ some .wo) ∧
      (q.sub = 6 ∧ q.idx = 0x1000 → (objRow q.idx q.sub).map (·.acc) = some .ro) ∧ c.cat.txState ≠ 1 ∧ c.cat.txState ≠ 2 ∧ c.cat.timedOut = none ∧
      c.cat.taken = [] ∧ (q.idx = 0x3200 → q.data.length = 4 ∧ sub32 (leNat q.data) c.acc.baseSeq ≤ sub32 c.newestSeq c.acc.baseSeq) := by
  unfold Live; decide +kernel

theorem hyps_CatalogueService :
    let job : CatJob := { why := .internal, vals := [], ro := [], image := List.replicate 256 3 }
    let image := { catChip { job := some job, gen := 0xFFFFFFFF } with
      cns := { run := some { op := .catImage, guarded := true, nested := false }, queue := [.poolErase 1040] } }
    let due := catChip { dirtyFast := true, gen := 7, vals := [(256 * 0x2010 + 1, [1])] }
    let q : MailReq := { id := 3, port := .host, write := false, idx := 0x8000, sub := 1, data := [], tick := 8992000000, reply := .host }
    let mail := catChip { mbox := [q] }
    let chan := catChip { cch := { idx := 0x2010, sub := 1, len := 7, data := [(0, 4)] }, rch := { idx := 0x2010, sub := 1, len := 300, res := 4 } }
    Live (state image) ∧ image.rgr.imgStatus ≠ 4 ∧ image.cns.run = some { op := .catImage, guarded := true, nested := false } ∧ image.cat.job = some job ∧
    job.why = .internal ∧ job.image.length ≤ 8192 ∧ image.retired (896 + image.nextSlot) = false ∧
    Live (state due) ∧ due.cat.dirtyFast = true ∧ due.cat.job = none ∧ due.cat.nextErased = true ∧ due.clk.pfw = false ∧
    due.retired (896 + due.nextSlot) = false ∧
    (catChip {}).cat.dirtyFast = false ∧ (catChip {}).cat.dirtySlow = false ∧
    Live (state mail) ∧ mail.cat.mbox = [q] ∧ q.tick + 8000000 ≤ mail.clk.raw ∧ q.reply = .host ∧ mail.host.busy = some 1 ∧
    Live (state chan) ∧ chan.cat.cch.res ≠ 1 ∧ chan.cat.rch.res ≠ 1 ∧ chan.cat.rch.idx ≠ 0x4200 := by
  unfold Live; decide +kernel

/-! ## Witnesses: host port, CAN, two-wire, contactless -/

/-- Eleven shelved records from number 40 on; the host port as given. -/
def hostChip (t : Nat) (h : HostPort) : Chip := shelf 11 5 { atTick t chip0 with host := h }

theorem hyps_HostCommands :
    let at_ (h : HostPort) : Chip := hostChip 900000000 h
    let free := at_ { open_ := true, notices := 3 }
    let held := at_ { open_ := true, frame := some false, busy := some 1, defJob := some .challenge }
    let tod (on : Nat) (rank raw : Nat) : Chip :=
      let c := vals [(0x7000, 0xA, on)] free
      { c with time := { rank := rank, ppsRaw := some raw } }
    let second := leBytes 8 (1073741824 * 7)
    (∀ c ∈ [free, held], (c.clk.running = true ∧ c.asks = []) ∧ HostTakes c ∧ c.dead = false ∧ c.inReserve14 = false ∧
      seqLt 51 c.acc.nextSeq = false ∧ seqLt 50 c.acc.nextSeq = true ∧
      c.shelved 50 = some { rcd := kindRecord 3, seq := 50, pos := 15, tick := 8 } ∧ seqLt 39 c.acc.nextSeq = true ∧ c.shelved 39 = none) ∧
    free.host.defJob = none ∧ held.host.defJob.isSome = true ∧ leNat (leBytes 4 50) = 50 ∧ (leBytes 4 50).length = 4 ∧
    (1 : Byte).toNat ≤ 8 ∧ (8 : Byte).toNat ≤ 8 ∧ 1 ≤ ([5] : Bytes).length ∧ (List.replicate 256 (5 : Byte)).length ≤ 256 ∧
    (0x00 : Byte).toNat + 256 * (0x20 : Byte).toNat ≠ 0x4200 ∧
    (∀ c ∈ [tod 0 3 0, tod 1 3 860000000, tod 1 4 540000000, tod 1 2 860000000], Live (state c) ∧ HostTakes c ∧ c.dead = false) ∧
    second.length = 8 ∧ leNat second % 1073741824 = 0 ∧ (tod 0 3 0).cfgB 0x7000 0xA = false ∧
    (∀ r ∈ [860000000, 540000000], r + 40000000 ≤ 900000000 ∧ 900000000 ≤ r + 360000000) ∧ (tod 1 3 860000000).cfgB 0x7000 0xA = true ∧
    2 < (tod 1 3 860000000).time.rank ∧ ¬2 < (tod 1 2 860000000).time.rank ∧
    { free with start := { free.start with life := .scrap } }.dead = true ∧ (at_ {}).host.open_ = false ∧
    (at_ { open_ := true, busy := some 1 }).host.frame = none := by
  unfold Live HostTakes; decide +kernel

theorem hyps_HostEvents :
    let h : HostPort := { open_ := true, notices := 3, imm := some { status := 5, cmd := 3, payload := [1, 2] } }
    let at_ (h : HostPort) : Chip := hostChip 400000 h
    let idle := at_ h
    let frame := at_ { h with frame := some false, quad := true }
    let job := at_ { h with defJob := some (.records 40 1) }
    let call := vals [(0x7000, 3, 1), (0x7000, 4, 2)] (at_ { h with idleSince := 380000 })
    let pulse := at_ { h with attention := some 399200 }
    let bad : Bytes := [1, 2, 3, 4, 5, 6]
    let good : Bytes := [0x77, 0, 0, 0] ++ beBytes 2 (crc16 [0x77, 0, 0, 0])
    (∀ c ∈ [idle, frame], (c.clk.running = true ∧ c.asks = []) ∧ HostTakes c ∧ c.host.busy = none ∧ c.host.defJob = none) ∧
    bad.length = 6 ∧ beNat (bad.drop 4) ≠ crc16 (bad.take 4) ∧ bad.getD 0 0 ≠ 0x7F ∧ ([1, 2, 3, 4, 5] : Bytes).length < 6 ∧
    beNat (good.drop 4) = crc16 (good.take 4) ∧ hostDefined (good.getD 0 0) = false ∧
    Live (state job) ∧ job.host.defJob = some (.records 40 1) ∧ job.journalHeads = [] ∧
    job.shelved 40 = some { rcd := kindRecord 3, seq := 40, pos := 5, tick := 8 } ∧
    idle.host.open_ = true ∧ idle.host.frame = none ∧
    Live (state call) ∧ call.host.open_ = true ∧ call.host.frame = none ∧ call.host.busy = none ∧ call.host.attention = none ∧
    call.clk.raw % 400000 = 0 ∧ call.host.idleSince + 20000 ≤ call.clk.raw ∧ call.cfgB 0x7000 3 = true ∧
    (call.host.notices &&& call.cfg 0x7000 4) ≠ 0 ∧
    Live (state pulse) ∧ pulse.host.attention = some 399200 ∧ 399200 + 800 ≤ pulse.clk.raw := by
  unfold Live HostTakes; decide +kernel

/-- No block of the journal has a header, so none of its positions is known. -/
theorem no_journal {c : Chip} (h : c.journalHeads = []) : (∀ t, c.journalPos t = none) ∧ ∀ t, c.journalFind t = none := by
  refine ⟨fun t => ?_, fun t => ?_⟩
  · unfold Chip.journalPos; rw [h]; rfl
  · unfold Chip.journalFind; rw [h]; rfl

/-- Record 12 is the second of block 10 of the journal; the block can be read, or stands under a suspended erase. -/
theorem hyps_HostEvents_journal :
    let b : Bytes := { kindRecord 3 with seq := 12 }.bytes
    let head : Bytes := { kindRecord 13 with seq := 10 }.bytes
    let c (susp : Option FlashOp) : Chip := { hostChip 900000000 { open_ := true, defJob := some (.records 12 1) } with
      cns := { susp := susp }
      mem := { flash := cells 0xFF (8192 * 330) head ++ cells 0xFF (8192 * 330 + 64) b } }
    let e := FlashOp.winErase .registrar (0x20000000 + 8192 * 330)
    (∀ x ∈ [none, some e], (c x).clk.running = true ∧ (c x).asks = [] ∧ (c x).host.defJob = some (.records 12 1) ∧
      (c x).journalPos 12 = some 2562 ∧ (c x).journalFind 12 = some b ∧ (c x).cns.run = none ∧ (c x).mem.ecc = [] ∧ (c x).mem.cut = [] ∧
      (c x).readWaits (some (320 + 2562 / 256)) = x.isSome) := by
  decide +kernel

def canCtl : CanCtl := { en := true, st := 1, rec_ := 3 }
def canChip (f : Can → Can) : Chip :=
  { atTick 900000000 chip0 with can := f { open_ := true, a := canCtl, b := canCtl, base := 0x600, ebase := 0x100, node := 5 } }
/-- A base-format FD data frame with the request identifier. -/
def toUs : CanHead := { id := 0x605 }

/-- A frame of 09 Table 09-3: command, TID 7, object 0x2001.03, length, segment. -/
def capFrame (cmd len seg : Byte) (n : Nat) : Bytes := padTo 0 n [cmd, 7, 0x01, 0x20, 3, len, 0, seg]
/-- A WRITE of an order message: 40 bytes to object 0x4200.01. -/
def orderFrame : Bytes := padTo 0 48 [2, 7, 0x00, 0x42, 1, 40, 0, 0]

def segOf (w : Bool) (t : Nat) : Segment :=
  { write := w, tid := 7, idx := 0x2001, sub := 3, total := t, value := List.replicate 56 1, next := 1, tick := 5, bus := false }
def segChip (w : Bool) (t : Nat) : Chip := canChip fun c => { c with seg := some (segOf w t) }
def fourChip : Chip :=
  let q : CatReq := { port := .canA, tick := 0, write := false, idx := 1, sub := 1, data := [], reply := .can false 1 2 3 4 5 }
  { canChip id with cat := { loaded := true, reqs := [q, q, q, q] } }
def dupOf (r : Option Bytes) : DupEntry := { data := capFrame 1 0 0 8, bus := true, tick := 899990000, resp := r, waiting := [] }
def dupChip (r : Option Bytes) : Chip := canChip fun c => { c with dup := [dupOf r] }

theorem hyps_CapMessages_frames : ∀ b : Bool, ∀ x ∈ [(canChip id, (1 : Byte), capFrame 1 0 0 8), (fourChip, 1, capFrame 1 0 0 8),
    (canChip id, 2, capFrame 2 56 0 64), (fourChip, 2, capFrame 2 56 0 64), (canChip id, 2, orderFrame), (canChip id, 3, capFrame 3 57 0 64),
    (segChip true 57, 3, capFrame 3 57 0 64), (segChip true 57, 4, capFrame 4 0 1 12), (segChip true 57, 4, capFrame 4 0 2 12),
    (segChip true 256, 4, capFrame 4 0 1 64), (segChip false 112, 5, capFrame 5 0 1 8), (segChip false 112, 5, capFrame 5 0 2 8),
    (canChip id, 4, capFrame 4 0 1 12), (canChip id, 5, capFrame 5 0 1 8), (canChip id, 6, capFrame 6 0 0 8),
    (segChip true 57, 6, capFrame 6 0 0 8), (segChip false 57, 6, capFrame 6 0 0 8)],
    (x.1.clk.running = true ∧ x.1.asks = []) ∧ CapFrame x.1 b toUs x.2.2 x.2.1 := by
  unfold CapFrame Heads; decide +kernel

theorem hyps_CapMessages_segments : ∀ x ∈ [(true, 57, capFrame 4 0 1 12), (true, 57, capFrame 4 0 2 12), (true, 256, capFrame 4 0 1 64),
    (false, 112, capFrame 5 0 1 8), (false, 112, capFrame 5 0 2 8), (true, 57, capFrame 6 0 0 8), (false, 57, capFrame 6 0 0 8)],
    CapOwns (segChip x.1 x.2.1) x.2.2 x.1 (segOf x.1 x.2.1) := by
  unfold CapOwns; decide +kernel

theorem hyps_CapMessages :
    let free := canChip id
    free.capPending < 4 ∧ 4 ≤ fourChip.capPending ∧ (segChip true 57).capPending < 4 ∧
    leAt (capFrame 2 56 0 64) 5 2 ≤ ((capFrame 2 56 0 64).drop 8).length ∧ leAt (capFrame 2 56 0 64) 2 2 ≠ 0x4200 ∧
    ((capFrame 2 57 0 64).drop 8).length < leAt (capFrame 2 57 0 64) 5 2 ∧
    (leAt orderFrame 2 2 = 0x4200 ∧ (orderFrame.getD 4 0).toNat = 1 ∧ leAt orderFrame 5 2 = 40 ∧ 40 ≤ (orderFrame.drop 8).length ∧
      assoc 0x420001 free.cat.staged = none ∧
      ∀ b : Bool, ∀ i < 40, free.judge 3 .read ((if b then 0x4000A000 else 0x40009000) + i) false = 0) ∧
    free.can.seg = none ∧ (segChip true 57).can.seg.isSome = true ∧
    57 ≤ leAt (capFrame 3 57 0 64) 5 2 ∧ leAt (capFrame 3 57 0 64) 5 2 ≤ 256 ∧ (capFrame 3 57 0 64).length = 64 ∧
    leAt (padTo 0 64 [3, 7, 0x01, 0x20, 3, 0, 1, 0]) 5 2 = 256 ∧
    min 56 (57 - 56 * 1) ≤ ((capFrame 4 0 1 12).drop 8).length ∧ min 56 (256 - 56 * 1) ≤ ((capFrame 4 0 1 64).drop 8).length ∧
    ((capFrame 4 0 1 12).drop 8).length < min 56 (256 - 56 * 1) ∧
    ((capFrame 4 0 1 12).getD 7 0).toNat = 1 ∧ ((capFrame 4 0 2 12).getD 7 0).toNat ≠ 1 ∧ ((capFrame 5 0 1 8).getD 7 0).toNat = 1 := by
  decide +kernel

theorem hyps_CapMessages_other : ∀ r ∈ [some ([1, 2] : Bytes), none],
    (∀ b, ((dupChip r).ctl b).live = true) ∧ (dupChip r).clk.running = true ∧ (dupChip r).asks = [] ∧ (dupChip r).can.node ≠ 0 ∧
    Heads toUs ((dupChip r).can.base + (dupChip r).can.node) ∧ 8 ≤ (dupOf r).data.length ∧
    Chip.canLength true (dupOf r).data.length = true ∧ (dupOf r).data.getD 0 0 = 1 ∧ (dupChip r).can.dup = [dupOf r] ∧ (dupOf r).resp = r ∧
    (dupChip r).clk.raw ≤ (dupOf r).tick + 400000 * (dupChip r).cfg 0x7100 4 ∧ (dupOf r).tick ≠ (dupChip r).clk.raw ∧
    ([1, 2] : Bytes).length < 8 ∧ Chip.canLength true ([1, 2] : Bytes).length = true ∧ Chip.canLength false 8 = true ∧
    (∀ h ∈ [({ id := 0x605, ext := true } : CanHead), { id := 0x605, fd := false, rtr := true }, { id := 0x606 }],
      ¬Heads h ((dupChip r).can.base + (dupChip r).can.node) ∧ ¬Heads h (dupChip r).can.base) := by
  unfold Heads; decide +kernel

def bothCtl (f : CanCtl → CanCtl) : Chip := canChip fun c => { c with a := f c.a, b := f c.b }

theorem hyps_CanEvents :
    let seg : Segment := { write := true, tid := 7, idx := 0x2001, sub := 3, total := 100, value := [], next := 1, tick := 5, bus := false }
    let r : Record := kindRecord 3
    let lapse := canChip fun c => { c with seg := some seg }
    let at_ (x : Nat × Nat × Nat) : Chip := bothCtl fun k => { k with tec := x.1, rec_ := x.2.1, st := x.2.2 }
    (Live (state lapse) ∧ lapse.can.seg = some seg ∧ seg.tick + 400000 * lapse.cfg 0x7100 5 ≤ lapse.clk.raw) ∧
    (∀ b : Bool, ∀ c ∈ [bothCtl fun k => { k with txq := [[1, 2], [3]], brs := true, tdcOffset := 9 }, bothCtl fun k => { k with evq := [r] }],
      (c.clk.running = true ∧ c.asks = []) ∧ (c.ctl b).live = true ∧ (c.ctl b).restricted = false ∧
      ((c.ctl b).txq = [[1, 2], [3]] ∨ ((c.ctl b).txq = [] ∧ (c.ctl b).evq = [r]))) ∧
    (∀ x ∈ [(119, 126, 1), (120, 3, 1), (247, 3, 1), (247, 3, 2), (248, 3, 2), (3, 127, 1)], ∀ b : Bool,
      ((at_ x).clk.running = true ∧ (at_ x).asks = []) ∧ ((at_ x).ctl b).live = true ∧ ((at_ x).ctl b).restricted = false ∧
      ((at_ x).ctl b).tec = x.1 ∧ ((at_ x).ctl b).rec_ = x.2.1 ∧ ((at_ x).ctl b).st = x.2.2) := by
  unfold Live; decide +kernel

theorem hyps_CanEvents_states :
    (∀ b : Bool, ∀ c ∈ [bothCtl fun k => { k with restricted := true }], (c.ctl b).live = true ∧ (c.ctl b).restricted = true) ∧
    (∀ b : Bool, ∀ c ∈ [bothCtl fun k => { k with st := 3 }], (c.ctl b).en = true ∧ (c.ctl b).st = 3) ∧
    (∀ b : Bool, ∀ c ∈ [bothCtl fun k => { k with st := 4 }],
      (c.ctl b).en = true ∧ (c.ctl b).st = 4 ∧ (c.ctl b).rec_ < 128 ∧ (c.ctl b).tec < 128) ∧
    canCtl.restricted = false ∧ canCtl.rec_ < 128 ∧ canCtl.tec < 128 := by
  decide +kernel

theorem hyps_CanEvents_time :
    let time (n rank : Nat) (tod : Option Nat) : Chip :=
      vals [(0x2010, 7, 1)] { canChip id with time := { ppsRaw := some n, rank := rank, tod := tod } }
    (∀ x ∈ [(540000000, 3, none), (860000000, 4, some 8), (860000001, 3, none), (539999999, 3, none), (860000000, 2, none),
      (860000000, 3, some 7)], ∀ b : Bool, ∀ c ∈ [time x.1 x.2.1 x.2.2],
      (c.clk.running = true ∧ c.asks = []) ∧ (c.ctl b).live = true ∧ c.cfgB 0x2010 7 = true ∧ c.time.tod = x.2.2 ∧
      c.time.ppsRaw = some x.1 ∧ c.time.rank = x.2.1 ∧ c.can.node ≠ 0 ∧ Heads { id := 0x600 } c.can.base) ∧
    (leBytes 8 (1073741824 * 7)).length = 8 ∧ leNat (leBytes 8 (1073741824 * 7)) = 1073741824 * 7 ∧
    40000000 ≤ 900000000 - 860000000 ∧ 900000000 - 540000000 ≤ 360000000 ∧ 900000000 - 860000001 < 40000000 ∧
    360000000 < 900000000 - 539999999 := by
  unfold Heads; decide +kernel

theorem hyps_TwoWirePorts :
    let tw (t : TwoWire) (m : Twm) : Chip := { vals [(0x7200, 2, 1)] (atTick 900000000 chip0) with tw := { t with open_ := true }, twm := m }
    let open_ := tw { count := 3, ptr := 0xFFFE } {}
    let busy := tw { pRun := true } {}
    let rd := tw { pStart := 1, pIdx := 0x1234 } {}
    let wr := tw { pStart := 2, pIdx := 0x1234, pLen := 0 } {}
    let m (f : Twm → Twm) := tw {} (f { ctrl := 1, res := 1, retry := 0x23, tries := 3, rlen := 2, bus := some (3, [], 2) })
    let gap (since : Nat) := m fun t => { t with inGap := true, since := since }
    let own (c : Chip) : BitVec 7 := BitVec.ofNat 7 c.tw.addr
    (∀ c ∈ [open_, busy, rd, wr, m id], (c.clk.running = true ∧ c.asks = []) ∧ c.tw.open_ = true ∧ (own c).toNat = c.tw.addr ∧ (own c + 1).toNat ≠ c.tw.addr) ∧
    open_.cfgB 0x7200 2 = true ∧ open_.tw.pRun = false ∧ open_.tw.pStart = 0 ∧ busy.twRefuses = true ∧ rd.tw.pStart = 1 ∧
    wr.tw.pStart = 2 ∧ wr.tw.pIdx ≠ 0x4200 ∧
    ((m fun t => { t with res := 4 }).twm.res ≠ 1 ∧ (m fun t => { t with res := 4 }).twm.ctrl.getLsbD 0 = true) ∧
    ((m id).twm.res = 1 ∧ (m id).twm.inGap = false ∧ (m id).twm.bus = some (3, [], 2)) ∧
    (m fun t => { t with bus := some (3, [9], 0) }).twm.bus = some (3, [9], 0) ∧
    (m id).twm.tries.toNat ≤ (m id).twm.retry.toNat % 16 ∧
    (m fun t => { t with tries := 4 }).twm.retry.toNat % 16 < (m fun t => { t with tries := 4 }).twm.tries.toNat ∧
    (m fun t => { t with since := 890000000 }).twm.since + 10000000 ≤ (m id).clk.raw ∧
    (m id).clk.raw < (m fun t => { t with since := 890000001 }).twm.since + 10000000 ∧
    (gap 899920000).twm.inGap = true ∧ (gap 899920000).twm.since + 40000 * ((gap 899920000).twm.retry.toNat / 16) ≤ (gap 899920000).clk.raw ∧
    (gap 899920001).clk.raw < (gap 899920001).twm.since + 40000 * ((gap 899920001).twm.retry.toNat / 16) := by
  decide +kernel

/-- A field present, layer 4, the application selected. -/
def tag0 : Tag :=
  { on := true, field := true, uid := [4, 1, 2, 3, 4, 5, 6], clock := 50000000, key := key16, keyInv := key16.map (~~~ ·), layer := .layer4
    selected := true, overlay := .opened
    ppsOk := true, placard := some (3, 7, List.replicate 256 1), ks := key16, n := 6, rndR := List.replicate 8 1, rndT := List.replicate 8 2 }

def tagChip (t : Tag) : Chip :=
  shelf 5 5 { atTick 900000000 chip0 with otp := { fuses := [(0x240, 7), (0x241, 1)] }, tag := t }

theorem hyps_TagActivation :
    let off := tagChip {}
    let dark : Chip := { tagChip {} with clk := {} }
    let gone := tagChip { tag0 with field := false, clearSince := some 10000000 }
    let t (l : Layer) (b : Bool) := tagChip { tag0 with layer := l, level1 := b }
    let wait (t : Tag) := tagChip { t with delayed := some ([1], 90000000), wtxm := 3 }
    off.tag.field = false ∧ off.mainUp = true ∧ off.fieldSense [] ≠ off.fieldSense [(0x240, 1)] ∧ [7, 7].count 7 < 3 ∧
    dark.clk.vio = false ∧ dark.tag.field = false ∧ dark.mainUp = false ∧
    (tagChip tag0).clk.vio = true ∧ (tagChip tag0).tag.field = true ∧
    gone.tag.clearSince = some 10000000 ∧ gone.clk.vio = true ∧ gone.tag.field = false ∧ 10000000 + 40000000 ≤ gone.tag.clock ∧
    (∀ l ∈ [Layer.idle, .ready, .active, .halt, .readyStar, .activeStar, .layer4], ∀ b, (t l b).tagOpen = true ∧ (t l b).tag.layer = l ∧
      (t l b).tag.level1 = b ∧ (t l b).tag.uid.length = 7) ∧
    (0x8E : Byte).toNat % 16 ≠ 15 ∧
    (let l : Bytes := [3, 4, 5, 6, 3 ^^^ 4 ^^^ 5 ^^^ 6]
     (Chip.bitsOfBytes l).length = 40 ∧ ((Chip.bitsOfBytes l).take 39).length < 40 ∧
     (Chip.bitsOfBytes l).take 39 = (Chip.bitsOfBytes l).take ((Chip.bitsOfBytes l).take 39).length ∧
     [false] ≠ (Chip.bitsOfBytes l).take [false].length) ∧
    (tagChip tag0).tag.ppsOk = true ∧ (tagChip tag0).tag.allow212 = true ∧ (tagChip { tag0 with wtxOut := true }).tag.wtxOut = true ∧
    (∀ x ∈ [wait tag0, wait { tag0 with cid := 3 }, tagChip { tag0 with waitCat := some { cla := 0, ins := 0, p1 := 0, p2 := 0, data := [] } }],
      x.tagOpen = true ∧ x.tagWaits = true ∧ x.tag.wtxOut = false ∧ x.tag.blockEnd + x.fwt * x.tag.wtxm / 2 ≤ x.tag.clock) := by
  decide +kernel

/-- A command without its MAC, as the reader sends it when its session owes none. -/
def apdu (ins p1 : Byte) (data : Bytes) : Apdu := { cla := if ins = 0xA4 then 0 else 0x80, ins, p1, p2 := 0, data }
/-- The same with the MAC that a session in SECURED-A owes. -/
def macApdu (c : Chip) (ins p1 : Byte) (data : Bytes) : Apdu :=
  let a := { apdu ins p1 data with data := data ++ c.cmdMac (c.tag.n + 1) (apdu ins p1 data) data }
  { a with lc := a.data.length }

theorem hears_open {c : Chip} {a : Apdu} {ins : Byte} {data : Bytes} (h : c.tag.overlay ≠ .securedA ∧ c.tagOpen = true ∧ c.tag.layer = .layer4 ∧
    c.tagWaits = false ∧ a.ins = ins ∧ a.cla = (if ins = 0xA4 then 0x00 else 0x80) ∧ Chip.tagParamsOk a = true ∧ a.lc = a.data.length ∧
    data.length = Chip.tagDataLen ins ∧
    a.data = data ∧ c.tag.fails < 3 ∧ Chip.tagAllowed ins c.tag.overlay = true ∧ c.tag.selected = true) : TagHears c a ins data := by
  obtain ⟨h0, h1, h2, h3, h4, h5, h6, hl, h7, h8, h9, h10, h11⟩ := h
  exact ⟨h1, h2, h3, h4, h5, h6, hl, h7, by rw [if_neg h0]; exact h8, fun _ => h9, h10, fun _ => h11⟩

theorem hears_secured {c : Chip} {ins p1 : Byte} {data : Bytes} (h : c.tag.overlay = .securedA ∧ c.tagOpen = true ∧ c.tag.layer = .layer4 ∧
    c.tagWaits = false ∧ Chip.tagParamsOk (macApdu c ins p1 data) = true ∧ data.length = Chip.tagDataLen ins ∧
    (c.cmdMac (c.tag.n + 1) (apdu ins p1 data) data).length = 8 ∧ c.tag.fails < 3 ∧ c.tag.selected = true) :
    TagHears c (macApdu c ins p1 data) ins data := by
  obtain ⟨h0, h1, h2, h3, h4, h5, h6, h7, h8⟩ := h
  exact ⟨h1, h2, h3, rfl, rfl, h4, rfl, h5, by rw [if_pos h0]; exact ⟨_, h6, rfl, rfl⟩, fun _ => h7, by rw [h0]; rfl, fun _ => h8⟩

def loud : Chip := tagChip { tag0 with overlay := .securedA }
/-- The same without VIO. -/
def quiet : Chip := { loud with clk := { loud.clk with vio := false, running := false } }
def pwChip (n : Nat) : Chip := vals [(0x7300, 4, 5)] (tagChip { tag0 with fails := n })

theorem hyps_TagCommands_heard :
    TagHears (tagChip tag0) (apdu 0xA4 4 [0xF0, 0x56, 0x51, 0x32, 0x36, 0x33, 0x30]) 0xA4 [0xF0, 0x56, 0x51, 0x32, 0x36, 0x33, 0x30] ∧
    (∀ n, n < 3 → TagHears (pwChip n) (apdu 0x20 0 (leBytes 4 5)) 0x20 (leBytes 4 5)) ∧
    TagHears (tagChip tag0) (apdu 0x20 0 (leBytes 4 6)) 0x20 (leBytes 4 6) ∧
    TagHears (tagChip tag0) (apdu 0xA1 0 (List.replicate 8 3)) 0xA1 (List.replicate 8 3) ∧
    (∀ b, TagHears (tagChip { tag0 with authPend := b }) (apdu 0xA2 0 (List.replicate 16 3)) 0xA2 (List.replicate 16 3)) ∧
    TagHears loud (macApdu loud 0x30 1 []) 0x30 [] ∧ TagHears quiet (macApdu quiet 0x30 1 []) 0x30 [] ∧
    TagHears loud (macApdu loud 0x30 0 []) 0x30 [] ∧
    (∀ q ∈ [((41 : Nat), (3 : Byte)), (45, 3)],
      TagHears loud (macApdu loud 0x32 0 (leBytes 4 q.1 ++ [q.2])) 0x32 (leBytes 4 q.1 ++ [q.2])) ∧
    (∀ c ∈ [loud, quiet], TagHears c (macApdu c 0x34 0 (leBytes 2 0x1000 ++ [2, 0])) 0x34 (leBytes 2 0x1000 ++ [2, 0])) ∧
    (∀ c ∈ [loud, quiet], TagHears c (macApdu c 0x40 0 (List.replicate 48 4)) 0x40 (List.replicate 48 4)) := by
  refine ⟨hears_open ?_, fun n h => hears_open ?_, hears_open ?_, hears_open ?_, fun b => hears_open ?_, hears_secured ?_, hears_secured ?_,
    hears_secured ?_, fun q h => ?_, fun c h => ?_, fun c h => ?_⟩
  · decide +kernel
  · revert n; decide +kernel
  · decide +kernel
  · decide +kernel
  · revert b; decide +kernel
  · decide +kernel
  · decide +kernel
  · decide +kernel
  · have k : ∀ q ∈ [((41 : Nat), (3 : Byte)), (45, 3)], _ := fun q h =>
      hears_secured (c := loud) (ins := 0x32) (p1 := 0) (data := leBytes 4 q.1 ++ [q.2]) (by revert q; decide +kernel)
    exact k q h
  · have k : ∀ c ∈ [loud, quiet], _ := fun c h => hears_secured (c := c) (ins := 0x34) (p1 := 0) (data := leBytes 2 0x1000 ++ [2, 0]) (by
      revert c; decide +kernel)
    exact k c h
  · have k : ∀ c ∈ [loud, quiet], _ := fun c h => hears_secured (c := c) (ins := 0x40) (p1 := 0) (data := List.replicate 48 4) (by
      revert c; decide +kernel)
    exact k c h

theorem hyps_TagCommands :
    let delay := tagChip { tag0 with delayed := some ([1, 2], 50000000) }
    let pw := (tagHeard (apdu 0x20 0 []) (pwChip 0)).tagPassword
    let noPw := (tagHeard (apdu 0x20 0 []) (tagChip tag0)).tagPassword
    (pw = 5 ∧ leNat (leBytes 4 5) = 5 ∧ noPw = 0 ∧ (pwChip 2).tag.fails = 2 ∧ (pwChip 2).mainUp = true ∧ (tagChip tag0).tag.fails ≠ 2) ∧
    loud.mainUp = true ∧ quiet.mainUp = false ∧ (apdu 0x30 1 []).p1 = 1 ∧ loud.cat.loaded = true ∧ loud.tag.fieldOnly = false ∧
    delay.tag.delayed = some ([1, 2], 50000000) ∧ 50000000 ≤ delay.tag.clock := by
  decide +kernel

/-- The journal as READ-JOURNAL finds it. -/
def heardJournal : Chip := tagHeard (apdu 0x32 0 []) loud

/-- READ-JOURNAL of a number beyond the newest, and of records that are held. -/
theorem hyps_TagCommands_journal :
    let v := heardJournal.tagView
    leAt (leBytes 4 41 ++ [3] : Bytes) 0 4 = 41 ∧ seqLt 45 v.acc.nextSeq = false ∧ seqLt 41 v.acc.nextSeq = true ∧ v.tagRecords 3 41 ≠ [] := by
  decide +kernel

/-- The slots of those records can be read. -/
theorem hyps_TagCommands_held : TagReadsNow heardJournal (heardJournal.tagView.journalReads 41 3) := by
  unfold TagReadsNow; decide +kernel

/-- With the field alone nothing is judged: a number before the newest that is not held, and a count of 0. -/
theorem hyps_TagCommands_field_journal :
    let h := tagHeard (apdu 0x32 0 []) quiet
    (∀ q ∈ [((4294967295 : Nat), (3 : Byte)), (41, 0)],
      TagHears quiet (macApdu quiet 0x32 0 (leBytes 4 q.1 ++ [q.2])) 0x32 (leBytes 4 q.1 ++ [q.2])) ∧
    h.tagView.tagRecords 3 4294967295 = [] ∧ seqLt 4294967295 h.tagView.acc.nextSeq = true ∧
    TagReadsNow h (h.tagView.journalReads 4294967295 3) ∧ TagReadsNow h (h.tagView.journalReads 41 0) := by
  have k : ∀ q ∈ [((4294967295 : Nat), (3 : Byte)), (41, 0)], _ := fun q h =>
    hears_secured (c := quiet) (ins := 0x32) (p1 := 0) (data := leBytes 4 q.1 ++ [q.2]) (by revert q; decide +kernel)
  exact ⟨fun q h => k q h, by decide +kernel, by decide +kernel, .inl (by decide +kernel), .inl (by decide +kernel)⟩

/-- The placard's page as GET-PLACARD finds it: none, readable, retired, or behind a program; and the next page to write. -/
theorem hyps_TagCommands_placard :
    let heard (c : Chip) : Chip := tagHeard (apdu 0x30 0 []) c
    let noPlacard := tagChip { tag0 with overlay := .securedA, placard := none }
    let due (p : Option (Nat × Nat × Bytes)) (j : List FlashOp) : Chip :=
      { tagChip { tag0 with placardDue := true, placard := p } with cns := { rjobs := j } }
    let page := [(0x206FC000 + 512 * 3, 128)]
    let run : RunOp := { op := .winProgram .curator 0x20000000 [], guarded := false, nested := false }
    let with_ (x : Cns) : Chip := { loud with cns := x }
    (heard noPlacard).tagView.tag.placard = none ∧ (heard loud).tagView.tag.placard = some (3, 7, List.replicate 256 1) ∧
    (∀ x ∈ [(({} : Cns), false), ({ map := [(894, 0x7FF)] }, true)],
      TagReadsNow (heard (with_ x.1)) page ∧ (heard (with_ x.1)).tagView.flashBad (0x6FC000 + 512 * 3) 128 = x.2) ∧
    (∀ c ∈ [with_ { run := some run }], (heard c).tagReads page = none ∧ c.cns.run = some run ∧ Chip.opPrograms run.op = true ∧ c.mainUp = true) ∧
    (∀ p ∈ [none, some (3, 7, []), some (31, 4294967295, [])], ∀ c ∈ [due p []], (c.clk.running = true ∧ c.asks = []) ∧ c.clk.pfw = false ∧
      c.start.mode ≠ 0 ∧ c.tag.placardDue = true ∧ c.placardPending = false) ∧
    (∀ c ∈ [due none [.placardPage 3 []]], (c.clk.running = true ∧ c.asks = []) ∧ c.placardPending = true) := by
  unfold TagReadsNow; decide +kernel

theorem hyps_TagCommands_field : (∃ b, (tagHeard (apdu 0x34 0 []) quiet).fieldObject 0x1000 2 = .inr b) ∧
    ∃ code, (tagHeard (apdu 0x34 0 []) quiet).fieldObject 0x2000 1 = .inl code := ⟨⟨_, rfl⟩, ⟨_, rfl⟩⟩

/-- Both random numbers under the tag key. -/
def proof16 : Bytes := beBytes 16 285901285896244767550585334143059118342

theorem hyps_TagCommands_auth :
    let c := tagChip { tag0 with authPend := true }
    TagHears c (apdu 0xA2 0 proof16) 0xA2 proof16 ∧
    Crypto.aesDec (tagHeard (apdu 0xA2 0 proof16) c).fieldLane.tag.key proof16 = c.tag.rndR ++ c.tag.rndT ∧
    Crypto.aesDec (tagHeard (apdu 0xA2 0 (List.replicate 16 3)) c).fieldLane.tag.key (List.replicate 16 3) ≠ c.tag.rndR ++ c.tag.rndT := by
  refine ⟨hears_open ?_, ?_, ?_⟩ <;> decide +kernel

/-! ## Witnesses: Registrar, images, debug port -/

/-- A Registrar that serves, and warns at nothing yet; its RC oscillator at 9000000000. -/
def rgrChip (r : Rgr) : Chip :=
  let o := cells 0 0 [0, 0, 0, 0, 0, 3]
  { chip0 with clk := { chip0.clk with raw := 9000000000, rc := 9000000000000000 }, rgr := r, otp := { fuses := o, shadowA := o, shadowB := o } }

theorem hyps_HealthMonitors :
    let hot := vals [(0x8000, 6, 119)] (rgrChip {})
    let apart := rgrChip { disSince := some 5000000000 }
    let sensor (w : Bool) := vals [(0x8000, 0xE, 1)] (rgrChip { warn := (Vector.replicate 4 false).set 3 w })
    let out := rgrChip { supplyOut := Vector.replicate 3 true }
    (Live (state hot) ∧ max (119 : Int) 118 ≤ hot.cfgI 0x8000 6 ∧ hot.cfgI 0x8000 6 < max (130 : Int) 25 ∧ hot.rgr.warn[0] = false ∧
      hot.rgr.warn[1] = false) ∧
    (Live (state apart) ∧ apart.rgr.disSince = some 5000000000 ∧ 5000000000 + 4000000000 ≤ apart.clk.raw ∧ apart.rgr.warn[2] = false) ∧
    (∀ w, (sensor w).cfg 0x8000 0xE ≠ 0 ∧ (sensor w).start.mode ≠ 2 ∧ (sensor w).start.regIn = true ∧ (sensor w).rgr.warn[3] = w) ∧
    (115 * 256 ≤ decInt 16 (256 * 0x77 + 0xFF) ∧ decInt 16 (256 * 0x77 + 0xFF) < 120 * 256 ∧ 120 * 256 ≤ decInt 16 (256 * 0x78) ∧
      decInt 16 (256 * 0x72 + 0xFF) < 115 * 256) ∧
    (∀ r : Fin 3, hot.rgr.supplyOut[r] = false ∧ out.rgr.supplyOut[r] = true) ∧ CatReady hot := by
  unfold Live CatReady; decide +kernel

/-- Clock glitches, bursts, and shadows that agree, differ once, or differ through every re-sense. -/
theorem hyps_HealthMonitors_more :
    let hot := rgrChip {}
    let glitch (l : List Nat) := rgrChip { glitchTicks := l, glitches := 16777214 }
    let burst (n lim : Nat) : Chip :=
      let c := vals [(0x8000, 0xC, lim)] (rgrChip {})
      { c with acc := { en := true, bis := (Vector.replicate 24 {}).set 5 { burst := n } } }
    let near (c : Chip) := c.rgr.glitchTicks.filter fun t => c.clk.raw ≤ t + 400000000
    let bad : SenseErr × SenseErr := ([(5, 1)], [])
    let l : Sensing := List.replicate 4 bad
    ((near (glitch [8600000000, 8599999999])).length ≤ 1 ∧ 2 ≤ (near (glitch [8600000000, 8900000000])).length ∧
      (glitch []).rgr.glitches < 16777215 ∧ (glitch []).start.regIn = true ∧ (glitch []).start.mode ≠ 2 ∧ (glitch []).cat.mbox = []) ∧
    ((burst 5 5).acc.bis[5].burst ≤ (burst 5 5).cfg 0x8000 0xC ∧ (burst 6 5).cfg 0x8000 0xC < (burst 6 5).acc.bis[5].burst ∧
      (burst 6 5).acc.bis[5].burstRec = none) ∧
    (Chip.shadowDiff hot = 0 ∧ Chip.shadowDiff { hot with otp := { hot.otp with shadowB := [] } } ≠ 0) ∧
    hot.start.regIn = true ∧ hot.start.mode ≠ 2 ∧ l.length = 4 ∧
    (Chip.senseWith hot.otp.shadowA (l.headD ([], [])).1).read 0 0 256 ≠ (Chip.senseWith hot.otp.shadowB (l.headD ([], [])).2).read 0 0 256 ∧
    ∀ e ∈ l.drop 1, (Chip.senseWith hot.otp.fuses e.1).read 0 0 256 ≠ (Chip.senseWith hot.otp.fuses e.2).read 0 0 256 := by
  decide +kernel

/-- The watchdog with a window of 10 ms to 1 s of the RC oscillator, its last kick at `t`. -/
def wdChip (t : Nat) : Chip := vals [(0x8200, 1, 1), (0x8200, 2, 10), (0x8200, 3, 1000)] (rgrChip { wdRun := true, wdLast := t })

theorem hyps_RegistrarServices_watchdog :
    (∀ t ∈ [8600000000, 8996000000, 8996000001], Live (state (wdChip t)) ∧ (wdChip t).wdRunning = true ∧ (wdChip t).rgr.wdHalf = false ∧
      (wdChip t).start.regIn = true ∧ (wdChip t).start.mode ≠ 2 ∧ (state (wdChip t)).dev.cur.wbuf = [] ∧ (wdChip t).cat.mbox = []) ∧
    (∀ t ∈ [8600000000, 8996000000], 400000 * (wdChip t).cfg 0x8200 2 ≤ (wdChip t).wdElapsed ∧
      (wdChip t).wdElapsed ≤ 400000 * (wdChip t).cfg 0x8200 3) ∧
    (wdChip 8996000001).wdElapsed < 400000 * (wdChip 8996000001).cfg 0x8200 2 ∧
    400000 * (wdChip 8600000000).cfg 0x8200 3 ≤ (wdChip 8600000000).wdElapsed := by
  unfold Live; decide +kernel

theorem hyps_RegistrarServices :
    let q (w : Bool) (t : Nat) : MailReq :=
      { id := 3, port := .host, write := w, idx := 0x8000, sub := 1, data := [], tick := t, reply := .host }
    let mail (w : Bool) (t : Nat) (r : Rgr) : Chip := { rgrChip { r with anId := 3 } with cat := { loaded := true, mbox := [q w t] }, host := { open_ := true, busy := some 1 } }
    let hour := atTick 1440000000005 (rgrChip { ledHour := 5 })
    (∀ w, ∀ t ∈ [8992000000, 8992000001], ((mail w t {}).clk.running = true ∧ (mail w t {}).asks = []) ∧ (mail w t {}).cat.mbox = [q w t] ∧
      (mail w t {}).rgr.anId.toNat = (q w t).id ∧ (q w t).reply = .host ∧ (mail w t {}).host.busy = some 1) ∧
    8992000000 + 8000000 ≤ (mail true 8992000000 {}).clk.raw ∧ (mail true 8992000001 {}).clk.raw < 8992000001 + 8000000 ∧
    (mail true 8992000001 {}).rgr.anCode = 0 ∧ (mail true 8992000001 {}).rgr.anLen = 0 ∧
    (mail false 8992000001 { anLen := 256 }).rgr.anLen.toNat ≤ 256 ∧ (mail false 8992000001 { anCode := 0xC00E }).rgr.anCode ≠ 0 ∧
    (rgrChip {}).cat.mbox = [] ∧ Live (state hour) ∧ hour.rgr.ledHour + 1440000000000 ≤ hour.clk.raw := by
  unfold Live; decide +kernel

/-- The ledger's buffer with one entry, two of one page, two of two pages, and none left. -/
theorem hyps_RegistrarServices_ledger :
    let e : Nat × Nat × Bytes := (270, 8600000000, List.replicate 32 4)
    let f : Nat × Nat × Bytes := (271, 8600000000, List.replicate 32 5)
    let g : Nat × Nat × Bytes := (272, 8700000000, List.replicate 32 6)
    let led (l : List (Nat × Nat × Bytes)) (n : Nat) : Chip := rgrChip { ledBuf := l, ledTaken := n }
    let left (c : Chip) := c.rgr.ledBuf.drop c.rgr.ledTaken
    Live (state (led [e] 0)) ∧ left (led [e] 0) = [e] ∧ e.2.1 + 400000000 ≤ (led [e] 0).clk.raw ∧
    left (led [e, f] 0) = [e, f] ∧ e.1 / 16 = f.1 / 16 ∧ left (led [e, f, g] 1) = [f, g] ∧ f.1 / 16 ≠ g.1 / 16 ∧
    f.2.1 + 400000000 ≤ (led [e] 0).clk.raw ∧ left (led [e] 1) = [] := by
  unfold Live; decide +kernel

/-- The signed images in slots 0, the slots 1 active; image registers as given. -/
def transferChip (r : Rgr) : Chip :=
  let c := imageChip 3
  { c with
    rgr := r, dbg := { loaned := 0xFFFFFFFF }, clk := { c.clk with raw := 90000000000 }
    mem := { flash := cells 0xFF 0 curatorImage ++ cells 0xFF 0x200000 registrarImage } }

def transfer (n : Nat) : Rgr :=
  { imgOwner := some .canA, imgKind := 1, imgSlot := 1, imgBytes := 272, imgVer := 7, imgTick := 66000000000, imgStatus := n }

theorem hyps_ImageTransfers :
    (∀ n ∈ [0, 2, 3, 5, 6, 0x10], ∀ c ∈ [transferChip (transfer n)],
      (c.clk.running = true ∧ c.asks = []) ∧ CatReady c ∧ c.inReserve14 = false ∧ c.imageForeign .canA = false ∧ c.rgr.imgStatus = n ∧
      imgEnded n = (n = 0 ∨ n = 6 ∨ n = 0x10) ∧ c.right rCatWrite = true ∧ c.startWord.serial ≠ 0x7FFFF ∧ c.wordNow = true ∧ c.clk.pfw = false ∧
      c.start.regIn = true ∧ c.start.mode ≠ 2 ∧ (state c).dev.cur.wbuf = [] ∧ c.cat.mbox = [] ∧ c.rgr.imgTick + 24000000000 ≤ c.clk.raw) ∧
    (∀ x ∈ [.host, .canA, .canB, .debug], (transferChip {}).imageForeign x = false) ∧
    (∀ c ∈ [transferChip (transfer 3)], c.activeSlot 1 = 1 ∧ c.activeSlot 2 = 1 ∧ c.pagesLeft = false ∧ SlotReads c 1 0 ∧ SlotReads c 2 0 ∧
      { c with cns := { rjobs := [.imagePage 5 []] } }.pagesLeft = true) ∧
    (curatorImage.take 256).length = 256 ∧ (transferChip { transfer 3 with imgBytes := 9 }).verifySlot 1 0 (some 9) ≠ 0 := by
  unfold CatReady SlotReads; decide +kernel

theorem registrar_signed : Crypto.ecdsaVerify (Crypto.ptBytes Crypto.basePoint) (beBytes 32 0xb8c2bc85df6ab196c1f5a25736bcdbd12d4422814009bef5c8858d2cb2ffeb00)
    (beBytes 64 (0x93fbe26eb17d11898a861e799fc0fcb6d4f31adddd7ada22b31578348b4acb1d * 2 ^ 256 + 0x3407ae4cd0f68c6bb8b41426257b0e34bf04ae48a1c012cfe6508a68ee3f0b3a)) = true := by
  decide +kernel

theorem registrar_sound : (transferChip {}).checkSlot 2 0 none = 0 :=
  checkSlot_sound (b := (List.range 16).map (BitVec.ofNat 8)) (h := registrarImage.take 256) (by decide +kernel) (by decide +kernel)
    (by decide +kernel) (by decide +kernel) (by decide +kernel) ⟨by decide +kernel, by decide +kernel, by decide +kernel⟩ (by decide +kernel)
    (by decide +kernel) registrar_signed (by decide +kernel) (by decide +kernel) (by decide +kernel)

/-- A slot that its checks pass is sound for a transfer too: no image stands in the active slots. -/
theorem verify_of_check {r : Rgr} {kind : Nat} {want : Option Nat} (hk : kind = 1 ∨ kind = 2) (h : (transferChip r).checkSlot kind 0 want = 0) :
    (transferChip r).verifySlot kind 0 want = 0 := by
  have a (kind : Nat) (hk : kind = 1 ∨ kind = 2) : (transferChip r).activeSlot kind = 1 := by
    have a0 : ∀ kind ∈ [1, 2], (transferChip {}).activeSlot kind = 1 := by decide +kernel
    have a1 : (transferChip r).activeSlot kind = (transferChip {}).activeSlot kind := rfl
    rw [a1]; exact a0 kind (by rcases hk with rfl | rfl <;> simp)
  have b : headerOk ((transferChip r).slotHeader kind 1) = false := by
    have b0 : ∀ kind ∈ [1, 2], headerOk ((transferChip {}).slotHeader kind 1) = false := by decide +kernel
    exact b0 kind (by rcases hk with rfl | rfl <;> simp)
  unfold Chip.verifySlot
  rw [a kind hk, h]; simp [b]

theorem hyps_ImageTransfers_sound (r : Rgr) :
    (transferChip r).verifySlot 1 0 (some 272) = 0 ∧
    ∀ kind, kind = 1 ∨ kind = 2 → (transferChip r).verifySlot kind (1 - (transferChip r).activeSlot kind) none = 0 := by
  have h : (transferChip {}).checkSlot 1 0 (some 272) = 0 ∧ (transferChip {}).checkSlot 1 0 none = 0 := by
    have k (want : Option Nat) (k : want.getD 272 = 272) : (transferChip {}).checkSlot 1 0 want = 0 :=
      checkSlot_sound (b := (List.range 16).map (BitVec.ofNat 8)) (h := curatorImage.take 256) (by decide +kernel) (by decide +kernel)
        (by decide +kernel) (by decide +kernel) (by decide +kernel) ⟨by decide +kernel, by decide +kernel, k⟩ (by decide +kernel)
        (by decide +kernel) base_signed (by decide +kernel) (by decide +kernel) (by decide +kernel)
    exact ⟨k (some 272) rfl, k none rfl⟩
  have a : ∀ kind ∈ [1, 2], (transferChip {}).activeSlot kind = 1 := by decide +kernel
  refine ⟨verify_of_check (.inl rfl) h.1, fun kind hk => ?_⟩
  have a1 : (transferChip r).activeSlot kind = (transferChip {}).activeSlot kind := rfl
  rw [a1, a kind (by rcases hk with rfl | rfl <;> simp)]
  rcases hk with rfl | rfl
  · exact verify_of_check (.inl rfl) h.2
  · exact verify_of_check (.inr rfl) registrar_sound

/-- A debug port with every right, over the SRAM of both cores. -/
def debugChip (d : Dbg) : Chip :=
  { atTick 900000000 chip0 with mem := { curSram := sram0, regSram := sram0 }, dbg := { d with loaned := 0x7FFF } }

theorem hyps_DebugPort :
    let c := debugChip {}
    let closed : Region := { base := 0x10000000, lim := 0x1FFFFFFF, perm := 0, en := true, lock := true }
    let deny : Chip := { c with
      vit := { c.vit with en := true, regions := c.vit.regions.set 0 closed }
      rgr := { refTick := Vector.replicate 7 (some 900000000) } }
    let staged : Chip := { c with bus := { staged := [(Chip.initKey .curator 0x4000E002, [(0, 3)])] } }
    let latched : Chip := { c with bus := { latches := [(Chip.initKey .debug 0x40001008, 7)] } }
    Live (state c) ∧ { c with start := { c.start with life := .lost } }.dead = true ∧
    deny.debugRefused false 0x10000234 [] 1 false = some (4, some 0x10000234) ∧ deny.rgr.refTick[byDebug] = some deny.clk.raw ∧
    (∀ a ∈ [0x10000000, 0x100FFFC0], ∀ n ∈ [1, 64], c.debugRefused false a [] n false = none ∧ InSram a n) ∧
    c.debugRefused true 0x10000FFF [9] 1 false = none ∧ InSram 0x10000FFF 1 ∧
    (∀ a ∈ [0x40001008, 0x40002000, 0x40010000], inPeriph a = true) ∧
    (let r := regAt 1 8
     dataAt 1 8 = none ∧ r.ctl = false ∧ r.off = 8 ∧ c.debugMay false 0x40001008 0 = true ∧ c.debugMay true 0x40001008 9 = true) ∧
    (let r := regAt 14 2
     dataAt 14 2 = none ∧ r.ctl = true ∧ 2 - r.off + 1 < r.bytes) ∧
    assoc (Chip.initKey .curator 0x4000E002) staged.bus.staged = some [(0, 3)] ∧
    assoc (Chip.initKey .debug 0x40001008) latched.bus.latches = some 7 := by
  unfold Live InSram; decide +kernel

theorem hyps_DebugControl :
    let on (t : TrnState) : Chip := { debugChip {} with trn := { st := t, fifo := [1, 2, 3] } }
    let held : Chip := { debugChip {} with start := { chip0.start with mode := 2, reserve14 := true } }
    let otp (a : Half) (v : Word) (mV : Nat) : Chip := { debugChip { otpAddr := a, otpData := v } with rgr := { supply := Vector.replicate 3 mV } }
    let run := debugChip { otpRun := some (0x600, 0xFFFFFFFF) }
    let trans := debugChip { transRun := some 3 }
    let lc (n : Byte) : Chip := { debugChip { lcTarget := n } with rgr := { supply := Vector.replicate 3 3300 } }
    (∀ t ∈ [TrnState.testing, .delivering, .blocked, .exhausted], ((on t).clk.running = true ∧ (on t).asks = []) ∧ (on t).dead = false ∧
      (on t).trn.st = t ∧ (on t).inReserve14 = false) ∧
    (held.clk.running = true ∧ held.asks = [] ∧ held.dead = false ∧ held.inReserve14 = true) ∧
    (otp 0x600 4 3100).dead = false ∧
    (otp 0x600 4 3100).anyRight [rOtpCustomer, rOtpLock, rKeyRevoke] = true ∧ (otp 0x600 4 3100).judgeOtp = 0 ∧
    (otp 0x600 4 3099).judgeOtp ≠ 0 ∧ (otp 0x602 4 3300).dbg.otpAddr.toNat % 4 ≠ 0 ∧
    (run.otp.shadowA = run.otp.shadowB ∧ run.dbg.otpRun = some (0x600, 0xFFFFFFFF) ∧ run.dead = false) ∧
    (trans.otp.shadowA = trans.otp.shadowB ∧ trans.dbg.transRun = some 3) ∧
    ((lc 4).anyRight [rLcReturn, rLcScrap] = true ∧ (lc 4).judgeTransition = 0 ∧ (lc 5).judgeTransition ≠ 0) ∧
    (run.right rHalt = true ∧ (core0 0).running = true ∧ (core0 0).halted = false ∧ (core0 0).branch = none ∧ (core0 0).frozen = none ∧
      { core0 0 with branch := some (1, none) }.branch.isSome = true ∧ { core0 0 with halted := true }.halted = true) ∧
    ({ idx := 0x2010, sub := 1, len := 300 } : CatChan).res ≠ 1 ∧ run.right rCatRead = true ∧
    (({ idx := 0x2010 } : CatChan).idx ≠ 0x4200 ∨ ({ sub := 2 } : CatChan).sub ≠ 1) := by
  decide +kernel

/-! ## Witnesses: the block -/

theorem hyps_BlockStep :
    ({ state chip0 with pending := [.hcsNFall, .fieldOff] } : State).pending = .hcsNFall :: [.fieldOff] ∧ (state chip0).pending = [] := ⟨rfl, rfl⟩

theorem core0_wf : ∀ page ∈ [0x10000, 0x12000], (core0 page).Wf := by
  intro page h
  have d : ∀ page ∈ [0x10000, 0x12000], (core0 page).pc.getLsbD 0 = false ∧ (core0 page).st &&& 0xFE00 = 0 ∧ (core0 page).vbase &&& 0x00FF = 0 ∧
      (∀ n : Fin 15, (core0 page).wt[n] &&& 0x7FF00000 = 0) ∧ (∀ n : Fin 15, (core0 page).fwt[n] &&& 0x7FF00000 = 0) := by decide +kernel
  obtain ⟨h1, h2, h3, h4, h5⟩ := d page h
  exact ⟨h1, h2, h3, h4, h5, by simp [core0], by simp [core0], by simp [core0], by simp [core0], by simp [core0], by simp [core0], by simp [core0]⟩

/-- Both cores at work, an instruction waiting. -/
theorem hyps_CoresKept :
    let s : State := { cores id with pending := [.nop .curator] }
    s.CoresWf ∧ ∃ t, step s = .next t :=
  ⟨⟨core0_wf _ (by decide), core0_wf _ (by decide)⟩, _, rfl⟩

/-! ## Small results, the expected values by hand from the rules named -/

def after (i : Instr) (s : State) : State := match exec i s with | .next t => t | _ => s
/-- A register and the flags C, Z, N, V of the Curator once everything in flight has landed. -/
def landed (r : Fin 16) (s : State) : Byte × Bool × Bool × Bool × Bool :=
  let k := s.dev.cur.complete
  (k.byte r, flagC k.st, flagZ k.st, flagN k.st, flagV k.st)

/- 15 Table 15-3: 0x80 + 0x80. -/
theorem test_add : landed 1 (after (.add .curator 1 1) (cores id)) = (0x00, true, true, false, true) := by decide +kernel
/- 14 R622: the result is not there for the next instruction. -/
theorem test_add_late : (after (.add .curator 1 1) (cores id)).dev.cur.byte 1 = 0x80 := by decide +kernel
/- C is set: 1 + 1 + 1. -/
theorem test_adc : landed 5 (after (.adc .curator 5 5) (cores id)) = (0x03, false, false, false, false) := by decide +kernel
/- 0 − 1 borrows. -/
theorem test_sub : landed 4 (after (.sub .curator 4 5) (cores id)) = (0xFF, true, false, true, false) := by decide +kernel
/- 0x7F − 0xFF leaves the range of a byte. -/
theorem test_cmp : landed 2 (after (.cmp .curator 2 3) (cores id)) = (0x7F, true, false, true, true) := by decide +kernel
/- 15 R649: n = 0 leaves C. -/
theorem test_shl_zero : landed 1 (after (.shl .curator 1 4) (cores id)) = (0x80, true, false, true, false) := by decide +kernel
theorem test_asr : landed 1 (after (.asr .curator 1 5) (cores id)) = (0xC0, false, false, true, false) := by decide +kernel
theorem test_rol : landed 1 (after (.rol .curator 1 5) (cores id)) = (0x01, true, false, false, false) := by decide +kernel
theorem test_ror : landed 5 (after (.ror .curator 5 5) (cores id)) = (0x80, true, false, true, false) := by decide +kernel
/- 15 R650: 0x8012 · 0x0100 = 0x00801200 in the quad of pairs 0 and 1. -/
theorem test_mulw :
    let k := (after (.mulw .curator 0 2) (cores id)).dev.cur.complete
    (k.pair 0, k.pair 1) = (0x1200, 0x0080) := by decide +kernel
/- A pair takes 0x0100 − 0x0234. -/
theorem test_subw :
    let k := (after (.subw .curator 2 3) (cores id)).dev.cur.complete
    (k.pair 2, flagC k.st, flagN k.st) = (0xFECC, true, true) := by decide +kernel
/- Loads from 0x0234: 1, and as a pair 0x0201. -/
theorem test_lda_byte : (landed 0 (after (.lda .curator .byte 0 0x0234 false) (cores id))).1 = 1 := by decide +kernel
theorem test_lda_pair : (after (.lda .curator .pair 0 0x0234 false) (cores id)).dev.cur.complete.pair 0 = 0x0201 := by decide +kernel

/- 08 R353 gives the first; the others are the known check values of the polynomials of 13 R589 and 07 R334: "123456789". -/
theorem test_crc16 : crc16 [0x31, 0x32, 0x33, 0x34, 0x35, 0x36, 0x37, 0x38, 0x39] = 0x29B1 := by decide +kernel
theorem test_crc8 : crc8 [0x31, 0x32, 0x33, 0x34, 0x35, 0x36, 0x37, 0x38, 0x39] = 0xF4 := by decide +kernel
theorem test_crc32 : crc32 [0x31, 0x32, 0x33, 0x34, 0x35, 0x36, 0x37, 0x38, 0x39] = 0xCBF43926 := by decide +kernel
/- FIPS 180-4, FIPS 197 (log 18). -/
theorem test_sha256 : Crypto.sha256 [0x61, 0x62, 0x63] =
    beBytes 32 0xba7816bf8f01cfea414140de5dae2223b00361a396177a9cb410ff61f20015ad := by decide +kernel
theorem test_aes : Crypto.aesEnc key16 (beBytes 16 0x00112233445566778899aabbccddeeff) = beBytes 16 0x69c4e0d86a7b0430d8cdb78070b4c55a := by
  decide +kernel

/- 02 R44: seconds from bit 30 on. -/
theorem test_stamp : (stampOf 105 0).toNat = 105 * 2 ^ 30 := by decide +kernel
/- 11 Table 11-1: 120 °C raises the warning and its alert bit. -/
theorem test_temperature : let r := (after (.temperatureSample 120 119) (state (rgrChip {}))).dev.chip.rgr
    (r.warn[0], r.warn[1], r.alerts) = (true, false, 1) := by decide +kernel
/- 08 Table 08-4: a STATUS is answered in the immediate slot. -/
theorem test_status : ((after (.status 0 0 0 []) (state (hostChip 900000000 { open_ := true }))).dev.chip.host.imm.map fun a => (a.status, a.cmd)) =
    some (0, 0) := by decide +kernel
/- 09 Table 09-5: a READ reaches the arbiter with its object. -/
theorem test_cap_read : ((after (.capRead true toUs (capFrame 1 0 0 8)) (state (canChip id))).dev.chip.cat.reqs.map fun q => (q.port, q.idx, q.sub)) =
    [(.canB, 0x2001, 3)] := by decide +kernel
/- 10 Table 10-6: the application is selected. -/
theorem test_select_app : (after (.selectApp (apdu 0xA4 4 [0xF0, 0x56, 0x51, 0x32, 0x36, 0x33, 0x30])) (state (tagChip { tag0 with selected := false }))).dev.chip.tag.selected
    = true := by decide +kernel

end Sys2Proof.Tests
end

section
/-! The debug port under a struck transfer: what a refused read leaves, and why O55 fails. -/

namespace Sys2Proof.Machine

open Sys2Proof

/-- A command leaves one chip, however its effect is told. -/
theorem Becomes.chip_eq {s : State} {i : Instr} {f g : Chip → Chip} (hf : Becomes s i f) (hg : Becomes s i g) :
    f s.dev.chip = g s.dev.chip := by
  have h : Host.Outcome.next (s.onChip f) = (.next (s.onChip g) : Host.Outcome State Fault Refusal) := hf.symm.trans hg
  injection h with h
  exact congrArg (fun t => t.dev.chip) h

/-- Within 10 ms of an initiator's last record a refusal is only counted (16 R704), and the strike that it met is used up. -/
theorem Chip.refuseTransfer_recent (i : Fin 7) (a t : Nat) (c : Chip) (ht : c.rgr.refTick[i] = some t) (hr : c.clk.raw < t + ticksMs 10) :
    c.refuseTransfer i a = { c with vit := { c.vit with
      refs := c.vit.refs.set i (c.vit.refs[i] + 1), parityFaults := c.vit.parityFaults.erase (i.val, a) } } := by
  simp [Chip.refuseTransfer, Chip.when, ht, Nat.not_le.2 hr, Chip.modVit]

/-- A refused debug read at the instant of the port's last record answers status 4, is counted, and uses up the parity strike on the
refused address (01 R16, R740; 16 R704). -/
theorem debugRd_refused_becomes {s : State} (hs : Live s) (a : Word) (n p : Nat) (par : Bool)
    (hp : s.dev.chip.debugRefused false a.toNat [] n par = some (4, some p))
    (ht : s.dev.chip.rgr.refTick[byDebug] = some s.dev.chip.clk.raw) :
    Becomes s (.debugRd a n true par) fun c => { c with
      vit := { c.vit with
        refs := c.vit.refs.set byDebug (c.vit.refs[byDebug] + 1), parityFaults := c.vit.parityFaults.erase (byDebug.val, p) }
      dbg := { c.dbg with resp := [4, byteOf (crc8 [4])] } } := by
  refine becomes_of hs (f := fun c => c.debugRd a n true par s.dev.cur) rfl ?_ rfl
  have hr : s.dev.chip.clk.raw < s.dev.chip.clk.raw + ticksMs 10 := by simp [ticksMs]
  simp [Chip.debugRd, hp, Chip.debugDenied, Chip.refuseTransfer_recent byDebug p _ _ ht hr, Chip.dbgRespond, Chip.modDbg]

/-- A device in the field whose debug port has every right and made its last record now; the world has struck its next transfer at the
first byte of the Curator's SRAM. -/
def struckDebugRead : State :=
  { dev := { chip := {
      clk := { running := true }
      start := { life := .field }
      dbg := { loaned := 0x7FFF }
      rgr := { refTick := Vector.replicate 7 (some 0) }
      vit := { parityFaults := [(6, 0x10000000)] } } }
    pending := [] }

theorem struckDebugRead_live : Live struckDebugRead := ⟨rfl, rfl⟩

theorem struckDebugRead_refused :
    struckDebugRead.dev.chip.debugRefused false (0x10000000 : Word).toNat [] 1 false = some (4, some 0x10000000) := by decide

/-- Refutes O55: where the refused read meets a transfer that the world has struck, the refusal takes that strike out of
`Vit.parityFaults`, and the clause on status 4 says that of the Vitrine only the port's count of refusals changes. -/
theorem not_debugPort : ¬ Obligations.DebugPort := by
  unfold Obligations.DebugPort
  intro h
  obtain ⟨-, -, -, hRd, -⟩ := h struckDebugRead struckDebugRead_live
  obtain ⟨-, -, -, hRefused, -⟩ := hRd 0x10000000 1 false
  have hSaid := hRefused 0x10000000 struckDebugRead_refused rfl
  have hDone := debugRd_refused_becomes struckDebugRead_live 0x10000000 1 0x10000000 false struckDebugRead_refused rfl
  have hFaults : [(6, 0x10000000)].erase (6, 0x10000000) = [((6 : Nat), (0x10000000 : Nat))] :=
    congrArg (fun c : Chip => c.vit.parityFaults) (hDone.chip_eq hSaid)
  exact absurd hFaults (by decide)

end Sys2Proof.Machine
end

section
/-! The host port: how a frame is judged, what each command does with a frame that is taken, and O45. -/

namespace Sys2Proof.Machine

open Sys2Proof

/-- A little-endian number of `n` bytes stays below `256 ^ n`. -/
theorem leNat_lt (p : Bytes) : leNat p < 256 ^ p.length := by
  induction p with
  | nil => simp [leNat]
  | cons b p ih =>
    have hb := b.isLt
    rw [leNat, List.length_cons, Nat.pow_succ]
    omega

/-! ## Frames -/

namespace Chip

/-- A frame that did not begin in busy time is judged (08 R357); a command still in progress stays. -/
theorem frameEnd_of_takes {c : Chip} (h : HostTakes c) : c.frameEnd = (true, framed c.host.busy c) := by
  obtain ⟨hOpen, hFrame | ⟨hFrame, hBusy⟩⟩ := h
  · simp [frameEnd, framed, modHost, hOpen, hFrame]
  · simp [frameEnd, framed, modHost, hOpen, hFrame, hBusy]

theorem frameEnd_of_closed {c : Chip} (h : c.host.open_ = false) : c.frameEnd = (false, c) := by simp [frameEnd, h]

/-- A frame that began in busy time is discarded and counted (08 R357). -/
theorem frameEnd_of_late {c : Chip} (ho : c.host.open_ = true)
    (h : c.host.frame = some true ∨ (c.host.frame = none ∧ c.host.busy.isSome = true)) :
    c.frameEnd = (false, { c with host := { c.host with
      frame := none, driven := [], whileBusy := c.host.whileBusy + 1, irq := c.host.irq ||| 8, idleSince := c.clk.raw } }) := by
  obtain hFrame | ⟨hFrame, hBusy⟩ := h
  · simp [frameEnd, modHost, ho, hFrame]
  · simp [frameEnd, modHost, ho, hFrame, hBusy]

/-- A frame that is not judged reaches no command. -/
theorem hostFrame_of_unjudged {c d : Chip} (cmd a1 a2 a3 : Byte) (p : Bytes) (run : Chip → Chip) (h : c.frameEnd = (false, d)) :
    c.hostFrame cmd a1 a2 a3 p run = d := by
  simp [hostFrame, h]

/-- A frame with good arguments runs its command with HRDY low, where the device lives or a dead one answers the command. -/
theorem hostFrame_of_takes {c : Chip} {cmd a1 a2 a3 : Byte} {p : Bytes} (run : Chip → Chip) (ht : HostTakes c)
    (ha : hostArgsOk cmd a1 a2 a3 p = true) (hd : c.dead = false ∨ lostAllows cmd a1 a2 = true) :
    c.hostFrame cmd a1 a2 a3 p run = run (framed (some cmd) c) := by
  have hRuns : ((framed (some cmd) c).dead && !lostAllows cmd a1 a2) = false := by
    obtain h | h := hd
    · rw [show (framed (some cmd) c).dead = false from h, Bool.false_and]
    · rw [h, Bool.not_true, Bool.and_false]
  have hBusy : (framed c.host.busy c).modHost (fun h => { h with busy := some cmd }) = framed (some cmd) c := rfl
  simp [hostFrame, frameEnd_of_takes ht, ha, hBusy, hRuns]

/-- An answer at once is the immediate slot's, and HRDY is high again (08 R356). -/
theorem hostAnswer_framed (status : Nat) (cmd : Byte) (p : Bytes) (c : Chip) :
    (framed (some cmd) c).hostAnswer status p = answered (byteOf status) cmd p c := rfl

/-- A dead device refuses a command that it does not answer with 0xC00E (12 R545; 13 R570). -/
theorem hostFrame_of_dead {c : Chip} {cmd a1 a2 a3 : Byte} {p : Bytes} (run : Chip → Chip) (ht : HostTakes c)
    (ha : hostArgsOk cmd a1 a2 a3 p = true) (hd : c.dead = true) (hl : lostAllows cmd a1 a2 = false) :
    c.hostFrame cmd a1 a2 a3 p run = answered 1 cmd [0x0E, 0xC0] c := by
  have hDead : (framed (some cmd) c).dead = true := hd
  have hBusy : (framed c.host.busy c).modHost (fun h => { h with busy := some cmd }) = framed (some cmd) c := rfl
  simp only [hostFrame, frameEnd_of_takes ht, ha, hBusy, hDead, hl, Bool.not_true, Bool.not_false, Bool.and_true,
    Bool.false_eq_true, if_false, if_true, hostAnswer_framed]
  rfl

/-! ## Commands -/

/-- The deferred slot is free: it takes the command, which is answered with status 2 (08 R360). -/
theorem takeDeferred_of_free (d : Deferred) (cmd : Byte) {c : Chip} (h : c.host.defJob = none) :
    (framed (some cmd) c).takeDeferred d = let e := answered 2 cmd [] c
      { e with host := { e.host with defJob := some d, defUnfetched := false } } := by
  have hFree : (framed (some cmd) c).host.defJob.isSome = false := by rw [show (framed (some cmd) c).host.defJob = none from h]; rfl
  simp only [takeDeferred, hFree, Bool.false_eq_true, if_false]
  rfl

/-- The deferred slot is taken: status 8 (08 R361). -/
theorem takeDeferred_of_taken (d : Deferred) (cmd : Byte) {c : Chip} (h : c.host.defJob.isSome = true) :
    (framed (some cmd) c).takeDeferred d = answered 8 cmd [] c := by
  have hTaken : (framed (some cmd) c).host.defJob.isSome = true := h
  simp only [takeDeferred, hTaken, if_true]
  rfl

/-- A request that is no order message waits for its arbitration window. -/
theorem request_of_not_order (p : Port) (w : Bool) (idx sub : Nat) (v : Bytes) (r : Reply) (c : Chip)
    (h : ¬(w = true ∧ idx = 0x4200 ∧ sub = 1)) :
    c.request p w idx sub v r = { c with cat := { c.cat with
      reqs := c.cat.reqs ++ [{ port := p, tick := c.clk.raw, write := w, idx, sub, data := v, reply := r }] } } := by
  simp only [request, requestAt, if_neg h]
  rfl

/-- A judged frame leaves the journal as it is read. -/
theorem journalHeads_framed (b : Option Byte) (c : Chip) : (framed b c).journalHeads = c.journalHeads := by
  unfold journalHeads; rfl

theorem journalOldest_framed (b : Option Byte) (c : Chip) : (framed b c).journalOldest = c.journalOldest := by
  have hAcc : (framed b c).acc = c.acc := rfl
  unfold journalOldest
  rw [journalHeads_framed, hAcc]

/-- REC_STATUS answers with the numbers of the records held; the port has no part in them. -/
theorem hostRecStatus_framed (cmd : Byte) (c : Chip) :
    (framed (some cmd) c).hostRecStatus = answered 0 cmd (leBytes 4 c.journalOldest ++ leBytes 4 c.journalNewest ++ leBytes 4 c.accOldest
      ++ leBytes 4 c.acc.nextSeq ++ leBytes 4 c.acc.hostMark) c := by
  rw [hostRecStatus, journalOldest_framed]
  exact hostAnswer_framed 0 cmd _ c

theorem hostRecRead_of_future {n k : Nat} {c : Chip} (h : seqLt k c.acc.nextSeq = false) :
    c.hostRecRead n k = c.hostAnswer 0x0A (leBytes 4 c.acc.nextSeq) := by
  simp [hostRecRead, h]

theorem hostRecRead_of_shelved {n k : Nat} {c : Chip} (h : seqLt k c.acc.nextSeq = true) (h' : (c.shelved k).isSome = true) :
    c.hostRecRead n k = c.hostAnswer 0 (takeRecords (fun t => (c.shelved t).map (·.rcd.bytes)) n k).flatten := by
  simp [hostRecRead, h, h']

theorem hostRecRead_of_unshelved {n k : Nat} {c : Chip} (h : seqLt k c.acc.nextSeq = true) (h' : c.shelved k = none) :
    c.hostRecRead n k = c.takeDeferred (.records k n) := by
  simp [hostRecRead, h, h']

/-- A ToD message finds a source of rank 3 or 4 and comes 100 to 900 ms after the PPS edge (02 R48). -/
def TodTimely (c : Chip) : Prop :=
  2 < c.time.rank ∧ ∃ r, c.time.ppsRaw = some r ∧ r + 40000000 ≤ c.clk.raw ∧ c.clk.raw ≤ r + 360000000

theorem todMessage_of_timely (port : Nat) (st : Dword) {c : Chip} (h : TodTimely c) :
    c.todMessage port st = (true, (c.modTime fun t => { t with tod := some (st.toNat / 1073741824) }).timeEvent 7 port
      (st.toNat / 1073741824 % 16777216)) := by
  obtain ⟨hRank, r, hr, hLo, hHi⟩ := h
  have hWindow : ticksMs 100 ≤ c.clk.raw - r ∧ c.clk.raw - r ≤ ticksMs 900 := by simp only [ticksMs]; omega
  simp [todMessage, hr, hWindow, hRank]

theorem todMessage_of_untimely (port : Nat) (st : Dword) {c : Chip} (h : ¬TodTimely c) :
    c.todMessage port st = (false, c.modTime fun t => { t with refusals := t.refusals + 1 }) := by
  unfold todMessage
  refine if_neg fun hTaken => h ?_
  cases hr : c.time.ppsRaw with
  | none => simp [hr] at hTaken
  | some r =>
    simp only [hr, Bool.and_eq_true, decide_eq_true_eq, Bool.not_eq_true', decide_eq_false_iff_not] at hTaken
    obtain ⟨⟨hLo, hHi⟩, hRank⟩ := hTaken
    simp only [ticksMs] at hLo hHi
    exact ⟨by omega, r, hr, by omega, by omega⟩

theorem hostTodSet_of_off (st : Dword) {c : Chip} (h : c.cfgB 0x7000 0xA = false) : c.hostTodSet st = c.hostAnswer 0 [2] := by
  simp [hostTodSet, h]

/-- A taken ToD message leaves the second that it names and a time record (02 R48, R49). -/
theorem hostTodSet_of_timely (cmd : Byte) (st : Dword) {c : Chip} (h : c.cfgB 0x7000 0xA = true) (hIn : TodTimely c) :
    (framed (some cmd) c).hostTodSet st =
      let d := answered 0 cmd [0] (logs clsTime 4 0x700 (st.toNat / 1073741824 % 16777216) c)
      { d with time := { d.time with tod := some (st.toNat / 1073741824) } } := by
  have hOn : (framed (some cmd) c).cfgB 0x7000 0xA = true := h
  have hTaken := todMessage_of_timely 0 st (c := framed (some cmd) c) hIn
  simp only [hostTodSet, hOn, hTaken, timeEvent_logs]
  rfl

theorem hostTodSet_of_untimely (cmd : Byte) (st : Dword) {c : Chip} (h : c.cfgB 0x7000 0xA = true) (hOut : ¬TodTimely c) :
    (framed (some cmd) c).hostTodSet st =
      let d := answered 0 cmd [1] c
      { d with time := { d.time with refusals := c.time.refusals + 1 } } := by
  have hOn : (framed (some cmd) c).cfgB 0x7000 0xA = true := h
  have hRefused := todMessage_of_untimely 0 st (c := framed (some cmd) c) hOut
  simp only [hostTodSet, hOn, hRefused]
  rfl

theorem hostLoan_challenge (cert : Bytes) {c : Chip} (h : c.inReserve14 = false) : c.hostLoan 1 cert = c.takeDeferred .challenge := by
  simp [hostLoan, h]

theorem hostLoan_present (cert : Bytes) {c : Chip} (h : c.inReserve14 = false) : c.hostLoan 2 cert = c.takeDeferred (.loan cert) := by
  simp [hostLoan, h]

end Chip

/-! ## Commands as frames -/

/-- A good frame of a command on a device that takes it: the command's effect on the chip with HRDY low. -/
theorem becomes_of_hostFrame {s : State} {i : Instr} {cmd a1 a2 a3 : Byte} {p : Bytes} {run g : Chip → Chip} (hs : Live s)
    (ht : HostTakes s.dev.chip) (hx : exec i s = .next (s.onRun fun c => c.hostFrame cmd a1 a2 a3 p run))
    (ha : hostArgsOk cmd a1 a2 a3 p = true) (hd : s.dev.chip.dead = false ∨ Chip.lostAllows cmd a1 a2 = true)
    (hg : run (framed (some cmd) s.dev.chip) = g s.dev.chip) (hq : (g s.dev.chip).asks = s.dev.chip.asks) : Becomes s i g :=
  becomes_of hs hx ((Chip.hostFrame_of_takes run ht ha hd).trans hg) hq

/-- The command of `i` goes to the deferred slot as `job`, or finds the slot taken. -/
def Defers (s : State) (i : Instr) (cmd : Byte) (job : Deferred) : Prop :=
  (s.dev.chip.host.defJob = none → Becomes s i fun c => let d := answered 2 cmd [] c
    { d with host := { d.host with defJob := some job, defUnfetched := false } }) ∧
  (s.dev.chip.host.defJob.isSome = true → Becomes s i (answered 8 cmd []))

theorem defers_of_hostFrame {s : State} {i : Instr} {cmd a1 a2 a3 : Byte} {p : Bytes} {run : Chip → Chip} {job : Deferred} (hs : Live s)
    (ht : HostTakes s.dev.chip) (hx : exec i s = .next (s.onRun fun c => c.hostFrame cmd a1 a2 a3 p run))
    (ha : hostArgsOk cmd a1 a2 a3 p = true) (hd : s.dev.chip.dead = false)
    (hr : run (framed (some cmd) s.dev.chip) = (framed (some cmd) s.dev.chip).takeDeferred job) : Defers s i cmd job :=
  ⟨fun h => becomes_of_hostFrame hs ht hx ha (.inl hd) (hr.trans (Chip.takeDeferred_of_free job cmd h)) rfl,
   fun h => becomes_of_hostFrame hs ht hx ha (.inl hd) (hr.trans (Chip.takeDeferred_of_taken job cmd h)) rfl⟩

/-- A frame that ends while the port is closed or that began in busy time: whatever its command, only the port sees it. -/
theorem becomes_of_unjudged {s : State} {i : Instr} {cmd a1 a2 a3 : Byte} {p : Bytes} {run g : Chip → Chip} (hs : Live s)
    (hx : exec i s = .next (s.onRun fun c => c.hostFrame cmd a1 a2 a3 p run)) (h : s.dev.chip.frameEnd = (false, g s.dev.chip))
    (hq : (g s.dev.chip).asks = s.dev.chip.asks) : Becomes s i g :=
  becomes_of hs hx (Chip.hostFrame_of_unjudged cmd a1 a2 a3 p run h) hq

section
variable {s : State} (hs : Live s) (ht : HostTakes s.dev.chip)
include hs ht

theorem status_becomes : Becomes s (.status 0 0 0 []) fun c => let d := answered 0 0x00 c.statusPayload c
    { d with host := { d.host with notices := 0 } } :=
  becomes_of_hostFrame hs ht rfl (by decide) (.inr (by decide)) rfl rfl

theorem recStatus_becomes_of_dead (hd : s.dev.chip.dead = true) : Becomes s (.recStatus 0 0 0 []) (answered 1 0x11 [0x0E, 0xC0]) :=
  becomes_of hs rfl (Chip.hostFrame_of_dead _ ht (by decide) hd (by decide)) rfl

section
variable (hd : s.dev.chip.dead = false)
include hd

theorem catRead_becomes (a1 a2 a3 : Byte) : Becomes s (.catRead a1 a2 a3 []) fun c => framed (some 0x01) { c with cat := { c.cat with
    reqs := c.cat.reqs ++ [{ port := .host, tick := s.dev.chip.clk.raw, write := false, idx := a1.toNat + 256 * a2.toNat, sub := a3.toNat
                             data := [], reply := .host }] } } :=
  becomes_of_hostFrame hs ht rfl (by simp [hostArgsOk, cmdCatRead, cmdStatus, cmdRecStatus]) (.inl hd)
    (Chip.request_of_not_order _ _ _ _ _ _ _ (by simp)) rfl

theorem catWrite_becomes (a1 a2 a3 : Byte) (p : Bytes) (h1 : 1 ≤ p.length) (h2 : p.length ≤ 256)
    (hn : a1.toNat + 256 * a2.toNat ≠ 0x4200 ∨ a3 ≠ 1) :
    Becomes s (.catWrite a1 a2 a3 p) fun c => framed (some 0x02) { c with cat := { c.cat with
      reqs := c.cat.reqs ++ [{ port := .host, tick := s.dev.chip.clk.raw, write := true, idx := a1.toNat + 256 * a2.toNat
                               sub := a3.toNat, data := p, reply := .host }] } } := by
  refine becomes_of_hostFrame hs ht rfl ?_ (.inl hd) (Chip.request_of_not_order _ _ _ _ _ _ _ ?_) rfl
  · simp [hostArgsOk, cmdCatRead, cmdCatWrite, cmdStatus, cmdRecStatus, h1, h2]
  · rintro ⟨-, hIdx, hSub⟩
    have hIdx' : a1.toNat + 256 * a2.toNat = 0x4200 := hIdx
    exact hn.elim (· hIdx') (· (BitVec.eq_of_toNat_eq hSub))

theorem recRead_becomes (n : Byte) (p : Bytes) (h1 : 1 ≤ n.toNat) (h2 : n.toNat ≤ 8) (hp : p.length = 4) :
    let c := s.dev.chip
    (seqLt (leNat p) c.acc.nextSeq = false → Becomes s (.recRead n 0 0 p) (answered 0x0A 0x10 (leBytes 4 c.acc.nextSeq))) ∧
    (seqLt (leNat p) c.acc.nextSeq = true → (c.shelved (leNat p)).isSome = true →
      Becomes s (.recRead n 0 0 p) (answered 0 0x10
        (Chip.takeRecords (fun k => (c.shelved k).map (·.rcd.bytes)) n.toNat (leNat p)).flatten)) ∧
    (seqLt (leNat p) c.acc.nextSeq = true → c.shelved (leNat p) = none →
      Defers s (.recRead n 0 0 p) 0x10 (.records (leNat p) n.toNat)) := by
  have ha : hostArgsOk cmdRecRead n 0 0 p = true := by
    simp [hostArgsOk, cmdRecRead, cmdCatRead, cmdCatWrite, cmdImageBlock, cmdStatus, cmdRecStatus, h1, h2, hp]
  refine ⟨fun hFuture => ?_, fun hPast hHeld => ?_, fun hPast hGone => ?_⟩
  · exact becomes_of_hostFrame hs ht rfl ha (.inl hd) (Chip.hostRecRead_of_future hFuture) rfl
  · exact becomes_of_hostFrame hs ht rfl ha (.inl hd) (Chip.hostRecRead_of_shelved hPast hHeld) rfl
  · exact defers_of_hostFrame hs ht rfl ha hd (Chip.hostRecRead_of_unshelved hPast hGone)

theorem recStatus_becomes : let c := s.dev.chip
    Becomes s (.recStatus 0 0 0 []) (answered 0 0x11 (leBytes 4 c.journalOldest ++ leBytes 4 c.journalNewest ++ leBytes 4 c.accOldest
      ++ leBytes 4 c.acc.nextSeq ++ leBytes 4 c.acc.hostMark)) :=
  becomes_of_hostFrame hs ht rfl (by decide) (.inl hd) (Chip.hostRecStatus_framed _ _) rfl

theorem todSet_becomes (p : Bytes) (hp : p.length = 8) (hz : leNat p % 1073741824 = 0) :
    let c := s.dev.chip
    let second := leNat p / 1073741824
    (c.cfgB 0x7000 0xA = true → c.TodTimely → Becomes s (.todSet 0 0 0 p) fun c =>
      let d := answered 0 0x30 [0] (logs clsTime 4 0x700 (second % 16777216) c)
      { d with time := { d.time with tod := some second } }) ∧
    (c.cfgB 0x7000 0xA = true → ¬c.TodTimely → Becomes s (.todSet 0 0 0 p) fun c =>
      let d := answered 0 0x30 [1] c
      { d with time := { d.time with refusals := c.time.refusals + 1 } }) ∧
    (c.cfgB 0x7000 0xA = false → Becomes s (.todSet 0 0 0 p) (answered 0 0x30 [2])) := by
  intro c second
  have ha : hostArgsOk cmdTodSet 0 0 0 p = true := by
    simp [hostArgsOk, cmdTodSet, cmdOrder, cmdRecRead, cmdCatRead, cmdCatWrite, cmdImageBlock, cmdStatus, cmdRecStatus, hp, hz]
  have hStamp : (BitVec.ofNat 64 (leNat p)).toNat = leNat p := Nat.mod_eq_of_lt (by simpa [hp] using leNat_lt p)
  refine ⟨fun hOn hIn => ?_, fun hOn hOut => ?_, fun hOff => ?_⟩
  · have hTaken := Chip.hostTodSet_of_timely cmdTodSet (BitVec.ofNat 64 (leNat p)) hOn hIn
    rw [hStamp] at hTaken
    exact becomes_of_hostFrame hs ht rfl ha (.inl hd) hTaken rfl
  · exact becomes_of_hostFrame hs ht rfl ha (.inl hd) (Chip.hostTodSet_of_untimely _ _ hOn hOut) rfl
  · exact becomes_of_hostFrame hs ht rfl ha (.inl hd) (Chip.hostTodSet_of_off _ hOff) rfl

theorem loanGetChallenge_defers (hr : s.dev.chip.inReserve14 = false) : Defers s (.loanGetChallenge 1 0 0 []) 0x40 .challenge :=
  defers_of_hostFrame hs ht rfl (by decide) hd (Chip.hostLoan_challenge _ hr)

theorem loanPresent_defers (hr : s.dev.chip.inReserve14 = false) (p : Bytes) (h1 : 1 ≤ p.length) (h2 : p.length ≤ 256) :
    Defers s (.loanPresent 2 0 0 p) 0x40 (.loan p) := by
  refine defers_of_hostFrame hs ht rfl ?_ hd (Chip.hostLoan_present _ hr)
  simp [hostArgsOk, cmdLoan, cmdTodSet, cmdOrder, cmdRecRead, cmdCatRead, cmdCatWrite, cmdImageBlock, cmdStatus, cmdRecStatus, h1, h2]

theorem imageBlock_defers (a1 a2 a3 : Byte) (p : Bytes) (h1 : 1 ≤ p.length) (h2 : p.length ≤ 256) :
    Defers s (.imageBlock a1 a2 a3 p) 0x50 (.image (a1.toNat + 256 * a2.toNat + 65536 * a3.toNat) p) := by
  refine defers_of_hostFrame hs ht rfl ?_ hd ?_
  · simp [hostArgsOk, cmdCatRead, cmdCatWrite, cmdImageBlock, cmdStatus, cmdRecStatus, h1, h2]
  · have hBlock : leNat [a1, a2, a3] = a1.toNat + 256 * a2.toNat + 65536 * a3.toNat := by simp only [leNat]; omega
    rw [hBlock]

end

end

/-- A command's frame on a closed port, or one that began in busy time, is never judged: the command does not matter. -/
theorem hostInstr_of_unjudged {s : State} (hs : Live s) {d : Chip} (h : s.dev.chip.frameEnd = (false, d)) (hq : d.asks = s.dev.chip.asks)
    (g : Chip → Chip) (hg : g s.dev.chip = d) (a1 a2 a3 : Byte) (p : Bytes) (i : Instr)
    (hi : i ∈ [Instr.status a1 a2 a3 p, .catRead a1 a2 a3 p, .catWrite a1 a2 a3 p, .recRead a1 a2 a3 p,
        .recStatus a1 a2 a3 p, .hostOrder a1 a2 a3 p, .todSet a1 a2 a3 p, .loanGetChallenge a1 a2 a3 p, .loanPresent a1 a2 a3 p,
        .imageBlock a1 a2 a3 p]) : Becomes s i g := by
  subst hg
  simp only [List.mem_cons, List.not_mem_nil, or_false] at hi
  obtain rfl | rfl | rfl | rfl | rfl | rfl | rfl | rfl | rfl | rfl := hi <;> exact becomes_of_unjudged hs rfl h hq

/-- Settles O45: each command is a frame that the port judges, with the command's effect on the chip it finds; a frame that the port
does not judge has the same effect whatever its command. -/
theorem hostCommands : Obligations.HostCommands := by
  unfold Obligations.HostCommands
  intro s hs c asked deferred
  refine ⟨fun ht => ⟨status_becomes hs ht, recStatus_becomes_of_dead hs ht, fun hd =>
    ⟨catRead_becomes hs ht hd, catWrite_becomes hs ht hd, recRead_becomes hs ht hd, recStatus_becomes hs ht hd, todSet_becomes hs ht hd,
      fun hr => ⟨loanGetChallenge_defers hs ht hd hr, loanPresent_defers hs ht hd hr⟩, imageBlock_defers hs ht hd⟩⟩,
    fun a1 a2 a3 p i hi => ⟨fun hClosed => ?_, fun hOpen hLate => ?_⟩⟩
  · exact hostInstr_of_unjudged hs (Chip.frameEnd_of_closed hClosed) rfl id rfl a1 a2 a3 p i hi
  · exact hostInstr_of_unjudged hs (Chip.frameEnd_of_late hOpen hLate) rfl _ rfl a1 a2 a3 p i hi

end Sys2Proof.Machine
end

section
/-! The host port's events: RESP_FETCH, frames that fail a check, deferred record reads, the attention pulse, and O46. -/

namespace Sys2Proof.Machine

open Sys2Proof

/-- What a slot holds, as a response (08 Table 08-5, Table 08-6). -/
def slotBytes : Option Answer → Bytes
  | some a => hostResponse a.status a.cmd a.payload
  | none => hostResponse 9 Config.emptyEcho []

/-- The port after a judged frame that takes out the bytes `b` over `n` clocks (08 R350, R366). -/
def driving (n : Nat) (b : Bytes) (c : Chip) : Chip :=
  let d := framed none c
  { d with host := { d.host with driven := padTo 0xFF (n / (if c.host.quad then 2 else 8)) b } }

/-- The status of the first check of 08 Table 08-2 that a frame breaks; 0 where it breaks none. -/
def checkStatus (whole : Bool) (b : Bytes) : Byte :=
  let body := b.take (b.length - 2)
  if !whole ∨ b.length < 6 ∨ 262 < b.length then 6
  else if beNat (b.drop (b.length - 2)) ≠ crc16 body then 4
  else if !hostDefined (b.getD 0 0) then 5
  else if !hostArgsOk (b.getD 0 0) (b.getD 1 0) (b.getD 2 0) (b.getD 3 0) (body.drop 4) then 6
  else 0

theorem checkStatus_of_malformed {w : Bool} {b : Bytes} (h : w = false ∨ b.length < 6 ∨ 262 < b.length) : checkStatus w b = 6 := by
  have h' : !w ∨ b.length < 6 ∨ 262 < b.length := by simpa using h
  simp only [checkStatus, if_pos h']

section
variable {b : Bytes} (h1 : 6 ≤ b.length) (h2 : b.length ≤ 262)
include h1 h2

theorem checkStatus_of_bad_crc (hc : beNat (b.drop (b.length - 2)) ≠ crc16 (b.take (b.length - 2))) : checkStatus true b = 4 := by
  have hWhole : ¬(!true ∨ b.length < 6 ∨ 262 < b.length) := by simp; omega
  simp only [checkStatus, if_neg hWhole, if_pos hc]

theorem checkStatus_of_undefined (hc : beNat (b.drop (b.length - 2)) = crc16 (b.take (b.length - 2)))
    (hu : hostDefined (b.getD 0 0) = false) : checkStatus true b = 5 := by
  have hWhole : ¬(!true ∨ b.length < 6 ∨ 262 < b.length) := by simp; omega
  simp only [checkStatus, if_neg hWhole, hc, hu, ne_eq, not_true_eq_false, if_false, Bool.not_false, if_true]

end

namespace Chip

theorem failedFrame_eq (w : Bool) (b : Bytes) (c : Chip) :
    c.failedFrame w b = if checkStatus w b = 0 then c
      else if checkStatus w b = 4 ∧ b.getD 0 0 = cmdRespFetch ∧ b.length = 6 then c.respFetch 0 0 0 false 0
      else if c.frameEnd.1 then c.frameEnd.2.hostFailed (checkStatus w b) (b.getD 0 0) else c.frameEnd.2 := rfl

/-! ## RESP_FETCH -/

theorem frameEnd_of_idle {c : Chip} (ht : HostTakes c) (hb : c.host.busy = none) : c.frameEnd = (true, framed none c) := by
  rw [frameEnd_of_takes ht, hb]

theorem slotResponse_immediate (c : Chip) : c.slotResponse false = slotBytes c.host.imm := by
  cases h : c.host.imm <;> simp [slotResponse, slotBytes, h]

/-- With no deferred command in progress the deferred slot answers (08 R359). -/
theorem slotResponse_deferred {c : Chip} (hj : c.host.defJob = none) : c.slotResponse true = slotBytes c.host.defr := by
  cases h : c.host.defr <;> simp [slotResponse, slotBytes, h, hj]

/-- A deferred command in progress: status 3 with its command byte (08 R360). -/
theorem slotResponse_working {c : Chip} {j : Deferred} (hj : c.host.defJob = some j) :
    c.slotResponse true = hostResponse 3 (deferredCmd j) [] := by
  simp [slotResponse, hj]

section
variable {c : Chip} (ht : HostTakes c) (hb : c.host.busy = none)
include ht hb

theorem respFetch_immediate (n : Nat) : c.respFetch 0 0 0 true n = driving n (slotBytes c.host.imm) c := by
  have hSlot : (framed none c).slotResponse false = slotBytes c.host.imm := slotResponse_immediate _
  simp [respFetch, frameEnd_of_idle ht hb, hSlot]
  rfl

theorem respFetch_deferred (n : Nat) (hj : c.host.defJob = none) :
    c.respFetch 1 0 0 true n = let d := driving n (slotBytes c.host.defr) c
      { d with host := { d.host with defUnfetched := false } } := by
  have hSlot : (framed none c).slotResponse true = slotBytes c.host.defr := slotResponse_deferred hj
  have hFree : (framed none c).host.defJob = none := hj
  simp [respFetch, frameEnd_of_idle ht hb, hSlot, hFree]
  rfl

theorem respFetch_working (n : Nat) {j : Deferred} (hj : c.host.defJob = some j) :
    c.respFetch 1 0 0 true n = driving n (hostResponse 3 (deferredCmd j) []) c := by
  have hSlot : (framed none c).slotResponse true = hostResponse 3 (deferredCmd j) [] := slotResponse_working hj
  have hTaken : (framed none c).host.defJob = some j := hj
  simp [respFetch, frameEnd_of_idle ht hb, hSlot, hTaken]
  rfl

/-- A fetch whose CRC fails drives status 4, is counted and changes no slot (08 R362, R365). -/
theorem respFetch_of_bad_crc (a1 a2 a3 : Byte) (n : Nat) :
    c.respFetch a1 a2 a3 false n = let d := driving n (hostResponse 4 0x7F []) c
      { d with host := { d.host with crcErrs := c.host.crcErrs + 1, irq := c.host.irq ||| 3 } } := by
  have hIrq : c.host.irq ||| 3 = c.host.irq ||| 1 ||| 2 := (BitVec.or_assoc c.host.irq 1 2).symm
  simp only [respFetch, frameEnd_of_idle ht hb, hIrq]
  rfl

/-! ## Frames that fail a check -/

/-- A frame that breaks a check and is no fetch with a failing CRC leaves the check's status. -/
theorem failedFrame_of_status {w : Bool} {b : Bytes} {st : Byte} (h : checkStatus w b = st) (h0 : st ≠ 0)
    (hf : st ≠ 4 ∨ b.getD 0 0 ≠ 0x7F ∨ b.length ≠ 6) : c.failedFrame w b = (framed none c).hostFailed st (b.getD 0 0) := by
  have hFetch : ¬(st = 4 ∧ b.getD 0 0 = cmdRespFetch ∧ b.length = 6) := fun ⟨h4, hCmd, hLen⟩ =>
    hf.elim (· h4) fun hf => hf.elim (· hCmd) (· hLen)
  rw [failedFrame_eq, h, if_neg h0, if_neg hFetch, frameEnd_of_idle ht hb]
  rfl

end

theorem hostFailed_crc (cmd : Byte) (c : Chip) : (framed none c).hostFailed 4 cmd = let d := framed none c
    { d with host := { d.host with
      imm := some { status := 4, cmd := cmd, payload := [] }, crcErrs := c.host.crcErrs + 1, irq := c.host.irq ||| 3 } } := by
  rw [show c.host.irq ||| 3 = c.host.irq ||| 1 ||| 2 from (BitVec.or_assoc c.host.irq 1 2).symm]
  rfl

theorem hostFailed_malformed (cmd : Byte) (c : Chip) : (framed none c).hostFailed 6 cmd = let d := framed none c
    { d with host := { d.host with
      imm := some { status := 6, cmd := cmd, payload := [] }, malformed := c.host.malformed + 1, irq := c.host.irq ||| 5 } } := by
  rw [show c.host.irq ||| 5 = c.host.irq ||| 1 ||| 4 from (BitVec.or_assoc c.host.irq 1 4).symm]
  rfl

theorem hostFailed_undefined (cmd : Byte) (c : Chip) : (framed none c).hostFailed 5 cmd = let d := framed none c
    { d with host := { d.host with imm := some { status := 5, cmd := cmd, payload := [] } } } := rfl

/-! ## Deferred record reads -/

theorem takeRecords_ne_nil {get : Nat → Option Bytes} {n k : Nat} (hn : n ≠ 0) (hk : (get k).isSome = true) :
    takeRecords get n k ≠ [] := by
  obtain ⟨m, rfl⟩ := Nat.exists_eq_succ_of_ne_zero hn
  obtain ⟨b, hb⟩ := Option.isSome_iff_exists.1 hk
  simp [takeRecords, hb]

theorem journalPos_mod (c : Chip) (k : Nat) : c.journalPos (k % 4294967296) = c.journalPos k := by
  have hSub (h : Nat) : sub32 (k % 4294967296) h = sub32 k h := by simp [sub32]
  simp only [journalPos, hSub]

/-- A journal position lies in a block that is not retired. -/
theorem journalPos_not_retired {c : Chip} {k pos : Nat} (h : c.journalPos k = some pos) :
    c.retired (journalBlock (pos / 256)) = false := by
  obtain ⟨⟨b, first⟩, hMem, hAt⟩ := List.exists_of_findSome?_eq_some h
  obtain ⟨hSlot, rfl⟩ : (sub32 k first < 256 ∧ (c.journalSlot (256 * b + sub32 k first)).isSome = true) ∧
      256 * b + sub32 k first = pos := by simpa using hAt
  obtain ⟨b', -, hHead⟩ := List.mem_filterMap.1 hMem
  have hBlock : (256 * b + sub32 k first) / 256 = b := by omega
  rw [hBlock]
  split at hHead
  · cases hHead
  · rename_i hKept
    split at hHead
    · cases hHead
      simp at hKept
      exact hKept.1.1
    · cases hHead

/-- A record of the journal lies within one block, so a sound block has no word of it to report. -/
theorem markedWords_journal {c : Chip} {pos : Nat} (hr : c.retired (journalBlock (pos / 256)) = false) (he : c.mem.ecc = [])
    (hc : c.mem.cut = []) : c.markedWords (jOff pos) 32 = [] := by
  have hBlock : jOff pos / blockBytes = journalBlock (pos / 256) := by simp only [jOff, blockBytes]; omega
  have hOne : ((jOff pos + 32 + 7) / 8 * 8 - jOff pos / blockBytes * blockBytes + blockBytes - 1) / blockBytes = 1 := by
    rw [hBlock]; simp only [jOff, blockBytes]; omega
  have hPhys : c.physOf (journalBlock (pos / 256)) ≠ retiredMark := by simpa [retired] using hr
  simp only [markedWords, hOne]
  simp [hBlock, hPhys, he, hc]

theorem touchFlash_of_unmarked {c : Chip} {off n : Nat} (h : c.markedWords off n = []) : c.touchFlash off n = c := by
  simp [touchFlash, h]

/-- Records that the ring alone holds need no read of the array (08 R371). -/
theorem deferredRecords_of_ring {c : Chip} (d : Deferred) {k n : Nat} (hp : ∀ t, c.journalPos t = none)
    (hf : ∀ t, c.journalFind t = none) (hs : (c.shelved k).isSome = true) (hn : n ≠ 0) :
    c.deferredRecords d k n = c.endDeferred d 0 (takeRecords (fun t => (c.shelved t).map (·.rcd.bytes)) n k).flatten := by
  have hSome : takeRecords (fun t => (c.shelved t).map (·.rcd.bytes)) n k ≠ [] := takeRecords_ne_nil hn (by simpa using hs)
  have hNoReads (l : List Nat) : l.filterMap (fun _ => (none : Option Nat)) = [] := List.filterMap_eq_nil_iff.2 fun _ _ => rfl
  simp only [deferredRecords, hp, hf, hNoReads, hSome, List.map_nil, List.nil_append, List.eraseDups_nil, List.foldl_nil, List.any_nil,
    Bool.false_eq_true, if_false]

theorem readRequest_of_idle {c : Chip} (b : Option Nat) (h : c.cns.run = none) :
    c.readRequest b = { c with cns := { c.cns with lastRead := c.clk.raw } } := by
  unfold readRequest
  split
  · rename_i hRun
    rw [h] at hRun
    cases hRun
  · rfl

/-- A record in the journal is read where its block can be (05 R217 to R220; 08 R371). -/
theorem deferredRecords_of_journal {c : Chip} (d : Deferred) {k pos : Nat} {b : Bytes} (hp : c.journalPos k = some pos)
    (hf : c.journalFind k = some b) (hr : c.cns.run = none) :
    c.deferredRecords d k 1 =
      let x : Chip := { c with cns := { c.cns with lastRead := c.clk.raw } }
      if c.readWaits (some (320 + pos / 256)) then x else (x.touchFlash (jOff pos) 32).endDeferred d 0 b := by
  have hWaits : Chip.readWaits { c with cns := { c.cns with lastRead := c.clk.raw } } (some (journalBlock (pos / 256)))
    = c.readWaits (some (320 + pos / 256)) := rfl
  simp [deferredRecords, takeRecords, hf, hp, journalPos_mod, readRequest_of_idle _ hr, hWaits, List.range_succ, List.eraseDups_cons]

theorem deferredComplete_records {c : Chip} {k n : Nat} (h : c.host.defJob = some (.records k n)) :
    c.deferredComplete = c.deferredRecords (.records k n) k n := by
  simp [deferredComplete, h]

/-! ## Attention -/

theorem hcsFall_of_open {c : Chip} (ho : c.host.open_ = true) (hf : c.host.frame = none) :
    c.hcsFall = { c with host := { c.host with frame := some c.host.busy.isSome, driven := [], attention := none } } := by
  simp [hcsFall, modHost, ho, hf]

/-- The port is idle for 50 µs at a millisecond, and pulses are on (08 R375). -/
structure PulseDue (c : Chip) : Prop where
  isOpen : c.host.open_ = true
  noFrame : c.host.frame = none
  notBusy : c.host.busy = none
  noPulse : c.host.attention = none
  millisecond : c.clk.raw % 400000 = 0
  idle : c.host.idleSince + 20000 ≤ c.clk.raw
  enabled : c.cfgB 0x7000 3 = true

theorem attentionPulse_of_due {c : Chip} (h : PulseDue c)
    (hw : c.recPending = true ∨ (c.host.notices &&& c.cfg 0x7000 4) ≠ 0) :
    c.attentionPulse = { c with host := { c.host with attention := some c.clk.raw } } := by
  have hIdle : c.host.idleSince + ticksUs 50 ≤ c.clk.raw := h.idle
  have hWant : (c.recPending || ((c.host.notices &&& c.cfg 0x7000 4) != 0)) = true := by simpa using hw
  simp [attentionPulse, modHost, h.isOpen, h.noFrame, h.notBusy, h.noPulse, h.millisecond, h.enabled, hIdle, hWant]

theorem attentionEnd_of_due {c : Chip} {t : Nat} (h : c.host.attention = some t) (hd : t + 800 ≤ c.clk.raw) :
    c.attentionEnd = { c with host := { c.host with attention := none } } := by
  have hDue : t + ticksUs 2 ≤ c.clk.raw := hd
  simp [attentionEnd, modHost, h, hDue]

end Chip

/-! ## Events as commands -/

section
variable {s : State} (hs : Live s)
include hs

theorem respFetch_becomes (ht : HostTakes s.dev.chip) (hb : s.dev.chip.host.busy = none) (n : Nat) : let c := s.dev.chip
    Becomes s (.respFetch 0 0 0 true n) (driving n (slotBytes c.host.imm)) ∧
    (c.host.defJob = none → Becomes s (.respFetch 1 0 0 true n) fun c => let d := driving n (slotBytes c.host.defr) c
      { d with host := { d.host with defUnfetched := false } }) ∧
    (∀ j, c.host.defJob = some j → Becomes s (.respFetch 1 0 0 true n) (driving n (hostResponse 3 (Chip.deferredCmd j) []))) ∧
    ∀ a1 a2 a3 : Byte, Becomes s (.respFetch a1 a2 a3 false n) fun c => let d := driving n (hostResponse 4 0x7F []) c
      { d with host := { d.host with crcErrs := c.host.crcErrs + 1, irq := c.host.irq ||| 3 } } :=
  ⟨becomes_of hs rfl (Chip.respFetch_immediate ht hb n) rfl,
   fun hj => becomes_of hs rfl (Chip.respFetch_deferred ht hb n hj) rfl,
   fun _ hj => becomes_of hs rfl (Chip.respFetch_working ht hb n hj) rfl,
   fun a1 a2 a3 => becomes_of hs rfl (Chip.respFetch_of_bad_crc ht hb a1 a2 a3 n) rfl⟩

/-- A frame that breaks a check and is no fetch with a failing CRC: what the check's status leaves. -/
theorem failedFrame_becomes (ht : HostTakes s.dev.chip) (hb : s.dev.chip.host.busy = none) {w : Bool} {b : Bytes} {st : Byte}
    {g : Chip → Chip} (h : checkStatus w b = st) (h0 : st ≠ 0) (hf : st ≠ 4 ∨ b.getD 0 0 ≠ 0x7F ∨ b.length ≠ 6)
    (hg : (framed none s.dev.chip).hostFailed st (b.getD 0 0) = g s.dev.chip) (hq : (g s.dev.chip).asks = s.dev.chip.asks) :
    Becomes s (.failedFrame w b) g :=
  becomes_of hs rfl ((Chip.failedFrame_of_status ht hb h h0 hf).trans hg) hq

/-- A deferred read of records that the ring holds answers from the ring. -/
theorem deferredComplete_becomes_of_ring {k n : Nat} (hj : s.dev.chip.host.defJob = some (.records k n))
    (hp : ∀ t, s.dev.chip.journalPos t = none) (hf : ∀ t, s.dev.chip.journalFind t = none)
    (hk : (s.dev.chip.shelved k).isSome = true) (hn : n ≠ 0) :
    Becomes s .deferredComplete fun c => { c with host := { c.host with
      defJob := none, defUnfetched := true, notices := c.host.notices ||| 1
      defr := some { status := 0, cmd := 0x10
                     payload := (Chip.takeRecords (fun t => (c.shelved t).map (·.rcd.bytes)) n k).flatten } } } :=
  becomes_of hs rfl ((Chip.deferredComplete_records hj).trans (Chip.deferredRecords_of_ring _ hp hf hk hn)) rfl

section
variable {k pos : Nat} {b : Bytes} (hj : s.dev.chip.host.defJob = some (.records k 1)) (hp : s.dev.chip.journalPos k = some pos)
  (hf : s.dev.chip.journalFind k = some b) (hr : s.dev.chip.cns.run = none)
include hj hp hf hr

/-- A deferred read of a block that must wait for the array has only asked for it. -/
theorem deferredComplete_becomes_of_waiting (hw : s.dev.chip.readWaits (some (320 + pos / 256)) = true) :
    Becomes s .deferredComplete fun c => { c with cns := { c.cns with lastRead := c.clk.raw } } := by
  refine becomes_of hs rfl ?_ rfl
  rw [Chip.deferredComplete_records hj, Chip.deferredRecords_of_journal _ hp hf hr, if_pos hw]

/-- A deferred read of a sound block answers with the record. -/
theorem deferredComplete_becomes_of_journal (hw : s.dev.chip.readWaits (some (320 + pos / 256)) = false) (he : s.dev.chip.mem.ecc = [])
    (hc : s.dev.chip.mem.cut = []) :
    Becomes s .deferredComplete fun c => { c with
      cns := { c.cns with lastRead := c.clk.raw }
      host := { c.host with
        defJob := none, defUnfetched := true, notices := c.host.notices ||| 1
        defr := some { status := 0, cmd := 0x10, payload := b } } } := by
  let x : Chip := { s.dev.chip with cns := { s.dev.chip.cns with lastRead := s.dev.chip.clk.raw } }
  have hUnmarked : x.markedWords (Chip.jOff pos) 32 = [] :=
    Chip.markedWords_journal (c := x) (Chip.journalPos_not_retired hp) he hc
  refine becomes_of hs rfl ?_ rfl
  rw [Chip.deferredComplete_records hj, Chip.deferredRecords_of_journal _ hp hf hr, if_neg (by simp [hw]),
    Chip.touchFlash_of_unmarked hUnmarked]
  rfl

end

end

/-- Settles O46: a fetch drives its slot's bytes; a frame that fails leaves the status of the first check it breaks; a deferred read
answers from the ring, or from a sound block of the journal. -/
theorem hostEvents : Obligations.HostEvents := by
  unfold Obligations.HostEvents
  intro s hs c slot
  refine ⟨fun ht hb => ⟨respFetch_becomes hs ht hb, fun b h1 h2 hCrc hFetch => ?_, fun b h1 h2 hCrc hUndef => ?_, fun w b hBad => ?_⟩,
    fun k n hj hp hf hk hn => deferredComplete_becomes_of_ring hs hj hp hf hk hn,
    fun k pos b hj hp hf => ⟨fun hw hr => deferredComplete_becomes_of_waiting hs hj hp hf hr hw,
      fun hw hr he hc => deferredComplete_becomes_of_journal hs hj hp hf hr hw he hc⟩,
    fun ho hf => becomes_of hs rfl (Chip.hcsFall_of_open ho hf) rfl,
    fun ho hf hb ha hm hi he hw => becomes_of hs rfl (Chip.attentionPulse_of_due ⟨ho, hf, hb, ha, hm, hi, he⟩ hw) rfl,
    fun t ha hd => becomes_of hs rfl (Chip.attentionEnd_of_due ha hd) rfl⟩
  · exact failedFrame_becomes hs ht hb (checkStatus_of_bad_crc h1 h2 hCrc) (by decide) (.inr hFetch) (Chip.hostFailed_crc _ _) rfl
  · exact failedFrame_becomes hs ht hb (checkStatus_of_undefined h1 h2 hCrc hUndef) (by decide) (.inl (by decide))
      (Chip.hostFailed_undefined _ _) rfl
  · exact failedFrame_becomes hs ht hb (checkStatus_of_malformed hBad) (by decide) (.inl (by decide)) (Chip.hostFailed_malformed _ _) rfl

end Sys2Proof.Machine
end

section
/-! The CAN ports' events: the error states by their counters, frames that leave, time frames, and O48. -/

namespace Sys2Proof.Machine

open Sys2Proof

/-! ## Error states (09 R382, log 20) -/

theorem errState_active {t r : Nat} (ht : t < 128) (hr : r < 128) : errState t r = 1 := by
  have hOff : ¬256 ≤ t := by omega
  have hPassive : ¬(128 ≤ t ∨ 128 ≤ r) := by omega
  simp [errState, hOff, hPassive]

theorem errState_passive {t r : Nat} (ht : t < 256) (h : 128 ≤ t ∨ 128 ≤ r) : errState t r = 2 := by
  simp [errState, Nat.not_le.2 ht, h]

theorem errState_busOff {t r : Nat} (h : 256 ≤ t) : errState t r = 3 := by simp [errState, h]

namespace CanCtl

theorem judge_active {k : CanCtl} (ht : k.tec < 128) (hr : k.rec_ < 128) : k.judge = { k with st := 1 } := by
  simp [judge, errState_active ht hr]

theorem judge_passive {k : CanCtl} (hs : k.st = 1) (ht : k.tec < 256) (h : 128 ≤ k.tec ∨ 128 ≤ k.rec_) :
    k.judge = { k with st := 2, irq := k.irq ||| 2 } := by
  simp [judge, errState_passive ht h, hs]

theorem judge_busOff {k : CanCtl} (hs : k.st ≠ 3) (h : 256 ≤ k.tec) :
    k.judge = { k with st := 3, irq := k.irq ||| 1, busOffs := k.busOffs + 1 } := by
  simp [judge, errState_busOff h, hs]

/-- A live controller is not in bus-off. -/
theorem st_ne_busOff_of_live {k : CanCtl} (h : k.live = true) : k.st ≠ 3 := by
  intro hOff
  simp [live, hOff] at h

theorem received_of_active {k : CanCtl} (hu : k.restricted = false) (hr : k.rec_ < 128) (ht : k.tec < 128) :
    k.received = { k with rec_ := k.rec_ - 1, st := 1 } := by
  have hLow : ¬127 < k.rec_ := by omega
  rw [received, if_neg (by simp [hu]), if_neg hLow]
  exact judge_active (k := { k with rec_ := k.rec_ - 1 }) ht (by dsimp only; omega)

/-- The counters after an error with its code of CNx_LEC, as transmitter or as receiver. -/
def erred (transmit : Bool) (code : Nat) (k : CanCtl) : CanCtl :=
  if transmit then { k with lec := code, tec := k.tec + 8 } else { k with lec := code, rec_ := min 255 (k.rec_ + 1), acked := false }

end CanCtl

namespace Chip

/-- An update of a controller is told by what it makes of that controller. -/
theorem modCtl_congr {b : Bool} {f g : CanCtl → CanCtl} {c : Chip} (h : f (c.ctl b) = g (c.ctl b)) : c.modCtl b f = c.modCtl b g := by
  cases b <;> simp_all [modCtl, modCan, ctl]

theorem modCtl_modCtl (b : Bool) (f g : CanCtl → CanCtl) (c : Chip) : (c.modCtl b f).modCtl b g = c.modCtl b fun k => g (f k) := by
  cases b <;> rfl

@[simp] theorem modCtl_clk (b : Bool) (f : CanCtl → CanCtl) (c : Chip) : (c.modCtl b f).clk = c.clk := rfl

/-- A code 1 to 6 of CNx_LEC names an error; 0 and 7 name none. -/
theorem lecCode_ok {n : Fin 8} (h0 : n ≠ 0) (h7 : n ≠ 7) : ¬(n.val = 0 ∨ 6 < n.val) := by omega

section
variable {b : Bool} {c : Chip} {n : Fin 8} (hl : (c.ctl b).live = true) (h0 : n ≠ 0) (h7 : n ≠ 7)
include hl h0 h7

theorem canError_of_counting (t : Bool) (hu : (c.ctl b).restricted = false) :
    c.canError b t n.val = c.modCtl b fun k => (k.erred t n.val).judge := by
  simp only [canError, hl, Bool.not_true, Bool.false_eq_true, false_or, if_neg (lecCode_ok h0 h7)]
  exact modCtl_congr (by simp [hu, CanCtl.erred])

/-- In restricted operation the counters stand (log 20). -/
theorem canError_of_restricted (t : Bool) (hr : (c.ctl b).restricted = true) :
    c.canError b t n.val = c.modCtl b fun k => { k with lec := n.val, st := 4 } := by
  simp only [canError, hl, Bool.not_true, Bool.false_eq_true, false_or, if_neg (lecCode_ok h0 h7)]
  exact modCtl_congr (by simp [hr])

end

theorem busOffRecover_of_busOff {b : Bool} {c : Chip} (he : (c.ctl b).en = true) (hs : (c.ctl b).st = 3) :
    c.busOffRecover b = c.modCtl b fun k => { k with st := 1, tec := 0, rec_ := 0 } := by
  simp [busOffRecover, he, hs]

theorem protocolException_of_live {b : Bool} {c : Chip} (hl : (c.ctl b).live = true) :
    c.protocolException b = c.modCtl b fun k => { k with st := 4, irq := k.irq ||| 16 } := by
  simp [protocolException, hl]

theorem integrationEnd_of_active {b : Bool} {c : Chip} (he : (c.ctl b).en = true) (hs : (c.ctl b).st = 4) (ht : (c.ctl b).tec < 128)
    (hr : (c.ctl b).rec_ < 128) : c.integrationEnd b = c.modCtl b fun k => { k with st := 1 } := by
  simp only [integrationEnd, he, hs, decide_true, Bool.and_self, if_true]
  exact modCtl_congr (by rw [errState_active ht hr])

theorem segmentTimeout_of_due {c : Chip} {x : Segment} (hx : c.can.seg = some x) (hd : x.tick + 400000 * c.cfg 0x7100 5 ≤ c.clk.raw) :
    c.segmentTimeout = { c with can := { c.can with seg := none, lapsed := some (x.tid, x.idx, x.sub) } } := by
  simp [segmentTimeout, hx, ticksMs, hd, modCan]

/-! ## Frames that leave (09 R388, R398, R403) -/

/-- A controller with the frame `id`, `d` on its bus, after `f` took it from its queue; the delay is what the world measures. -/
def frameOnBus (delay : Byte) (id : Nat) (d : Bytes) (f : CanCtl → CanCtl) (k : CanCtl) : CanCtl :=
  ({ f k with
    sent := some { id := id, data := d, brs := k.brs, esi := decide (k.st = 2) }, tx := k.tx + 1, tec := k.tec - 1
    tdcv := if k.brs = true ∧ k.tdcOffset ≠ 0 then delay else k.tdcv } : CanCtl).judge

/-- The chip with a frame put on a bus. -/
def frameSent (b : Bool) (id : Nat) (d : Bytes) (f : CanCtl → CanCtl) (c : Chip) : Chip :=
  (c.modCtl b (frameOnBus (Config.canDelay c.clk.free) id d f)).spend

section
variable {b : Bool} {c : Chip} (hl : (c.ctl b).live = true) (hu : (c.ctl b).restricted = false)
include hl hu

theorem not_silent : ¬((!(c.ctl b).live) = true ∨ (c.ctl b).restricted = true) := by simp [hl, hu]

theorem canFrameSent_of_response {d : Bytes} {r : List Bytes} (hq : (c.ctl b).txq = d :: r) :
    c.canFrameSent b = frameSent b (c.can.base + 0x80 + c.can.node) d (fun k => { k with txq := r }) c := by
  simp only [canFrameSent, if_neg (not_silent hl hu), hq, modCtl_modCtl]
  exact congrArg spend (modCtl_congr (by simp [frameOnBus]))

theorem canFrameSent_of_event {e : Record} {r : List Record} (hq : (c.ctl b).txq = []) (he : (c.ctl b).evq = e :: r) :
    c.canFrameSent b = frameSent b (c.can.ebase + c.can.node) e.bytes (fun k => { k with evq := r }) c := by
  simp only [canFrameSent, if_neg (not_silent hl hu), hq, he, modCtl_modCtl]
  exact congrArg spend (modCtl_congr (by simp [frameOnBus]))

end

/-! ## Time frames (09 R405) -/

theorem isTime_of_heads {c : Chip} {h : CanHead} (hh : Heads h c.can.base) : c.isTime h = true := by
  obtain ⟨hExt, hRtr, hId⟩ := hh
  simp [isTime, hExt, hRtr, hId]

/-- No node has number 0, so a time frame is no request. -/
theorem isRequest_of_time {c : Chip} {h : CanHead} (hh : Heads h c.can.base) (hn : c.can.node ≠ 0) : c.isRequest h = false := by
  simp [isRequest, hh.2.2, hn]

theorem canHears_of_time {c : Chip} {h : CanHead} (b : Bool) (hh : Heads h c.can.base) : c.canHears b h = heard b true c := by
  simp [canHears, heard, isTime_of_heads hh]

/-- Whether a ToD message is taken has nothing to do with what the CAN controllers count. -/
theorem todMessage_heard (b n : Bool) (port : Nat) (st : Dword) (c : Chip) :
    ((heard b n c).todMessage port st).2 = heard b n (c.todMessage port st).2 := by
  by_cases h : c.TodTimely
  · rw [todMessage_of_timely port st h, todMessage_of_timely port st (c := heard b n c) h, timeEvent_logs, timeEvent_logs]
    rfl
  · rw [todMessage_of_untimely port st h, todMessage_of_untimely port st (c := heard b n c) h]
    rfl

theorem second_of_stamp {st n : Nat} (h : st = 1073741824 * n) (hb : st < 2 ^ 64) : (BitVec.ofNat 64 st).toNat / 1073741824 = n := by
  rw [BitVec.toNat_ofNat, Nat.mod_eq_of_lt hb, h, Nat.mul_div_cancel_left _ (by decide)]

section
variable {b : Bool} {c : Chip} {h : CanHead} {data : Bytes} {n : Nat} (hl : (c.ctl b).live = true) (hn : c.can.node ≠ 0)
  (hh : Heads h c.can.base) (h8 : data.length = 8) (hd : leNat data = 1073741824 * n) (hc : c.cfgB 0x2010 7 = true)
include hl hn hh h8 hd hc

/-- A time frame is acknowledged and counted; it is a ToD message where it names another second than the last one taken. -/
theorem canTimeFrame_of_heads : c.canTimeFrame b h data = heard b true
    (if c.time.tod = some n then c else (c.todMessage (if b then 2 else 1) (BitVec.ofNat 64 (leNat data))).2) := by
  have hCfg : (heard b true c).cfgB 0x2010 7 = true := hc
  have hTod : (heard b true c).time.tod = c.time.tod := rfl
  have hSecond : leNat data / 1073741824 = n := by omega
  have hWhole : leNat data % 1073741824 = 0 := by omega
  have hTaken : ¬((!(c.ctl b).live) = true ∨ (!canLength h.fd data.length) = true ∨ c.isRequest h = true) := by
    simp [hl, canLength, h8, isRequest_of_time hh hn]
  rw [canTimeFrame, if_neg hTaken, apply_ite (heard b true)]
  simp only [isTime_of_heads hh, canHears_of_time b hh, h8, hSecond, hWhole, hCfg, hTod, Bool.not_true, Bool.false_eq_true, ne_eq,
    not_true_eq_false, false_or, todMessage_heard]

theorem canTimeFrame_of_timely (ht : c.time.tod ≠ some n) (hIn : c.TodTimely) :
    c.canTimeFrame b h data = heard b true (logs clsTime 4 (0x700 + if b then 2 else 1) (n % 16777216)
      { c with time := { c.time with tod := some n } }) := by
  have hStamp := second_of_stamp hd (by simpa [h8] using leNat_lt data)
  rw [canTimeFrame_of_heads hl hn hh h8 hd hc, if_neg ht, todMessage_of_timely _ _ hIn, timeEvent_logs, hStamp]
  rfl

theorem canTimeFrame_of_untimely (ht : c.time.tod ≠ some n) (hOut : ¬c.TodTimely) :
    c.canTimeFrame b h data = heard b true { c with time := { c.time with refusals := c.time.refusals + 1 } } := by
  rw [canTimeFrame_of_heads hl hn hh h8 hd hc, if_neg ht, todMessage_of_untimely _ _ hOut]
  rfl

theorem canTimeFrame_of_known (ht : c.time.tod = some n) : c.canTimeFrame b h data = heard b true c := by
  rw [canTimeFrame_of_heads hl hn hh h8 hd hc, if_pos ht]

end

theorem todTimely_of_edge {c : Chip} {r : Nat} (hr : c.time.ppsRaw = some r) (hRank : 2 < c.time.rank) (hLo : 40000000 ≤ c.clk.raw - r)
    (hHi : c.clk.raw - r ≤ 360000000) : c.TodTimely := ⟨hRank, r, hr, by omega, by omega⟩

theorem not_todTimely_of_edge {c : Chip} {r : Nat} (hr : c.time.ppsRaw = some r)
    (h : c.time.rank ≤ 2 ∨ c.clk.raw - r < 40000000 ∨ 360000000 < c.clk.raw - r) : ¬c.TodTimely := by
  rintro ⟨hRank, r', hr', hLo, hHi⟩
  obtain rfl : r = r' := Option.some.inj (hr.symm.trans hr')
  omega

end Chip

/-! ## Events as commands -/

/-- An error that is counted: the controller by its counters. -/
theorem canBusError_becomes {s : State} {b t : Bool} {n : Fin 8} {f : CanCtl → CanCtl} (hs : Live s) (hl : (s.dev.chip.ctl b).live = true)
    (hu : (s.dev.chip.ctl b).restricted = false) (h0 : n ≠ 0) (h7 : n ≠ 7)
    (hf : ((s.dev.chip.ctl b).erred t n.val).judge = f (s.dev.chip.ctl b)) : Becomes s (.canBusError b t n) (Chip.modCtl b f) :=
  becomes_of hs rfl ((Chip.canError_of_counting hl h0 h7 t hu).trans (Chip.modCtl_congr hf)) rfl

section
variable {s : State} {b : Bool} {n : Fin 8} (hs : Live s) (hl : (s.dev.chip.ctl b).live = true)
  (hu : (s.dev.chip.ctl b).restricted = false) (h0 : n ≠ 0) (h7 : n ≠ 7)
include hs hl hu h0 h7

/-- An error as transmitter adds 8 to the transmit counter (log 20). -/
theorem transmitError_becomes :
    let k := s.dev.chip.ctl b
    (k.tec + 8 < 128 → k.rec_ < 128 →
      Becomes s (.canBusError b true n) (Chip.modCtl b fun k => { k with lec := n.val, tec := k.tec + 8, st := 1 })) ∧
    (128 ≤ k.tec + 8 → k.tec + 8 < 256 → k.st = 1 →
      Becomes s (.canBusError b true n) (Chip.modCtl b fun k => { k with lec := n.val, tec := k.tec + 8, st := 2, irq := k.irq ||| 2 })) ∧
    (256 ≤ k.tec + 8 → Becomes s (.canBusError b true n) (Chip.modCtl b fun k => { k with
      lec := n.val, tec := k.tec + 8, st := 3, irq := k.irq ||| 1, busOffs := k.busOffs + 1 })) :=
  ⟨fun ht hr => canBusError_becomes hs hl hu h0 h7 (CanCtl.judge_active ht hr),
   fun hp ho hst => canBusError_becomes hs hl hu h0 h7 (CanCtl.judge_passive hst ho (.inl hp)),
   fun ho => canBusError_becomes hs hl hu h0 h7 (CanCtl.judge_busOff (CanCtl.st_ne_busOff_of_live hl) ho)⟩

/-- An error as receiver adds 1 to the receive counter, which stops at 255 (log 20). -/
theorem receiveError_becomes :
    let k := s.dev.chip.ctl b
    (k.tec < 128 → k.rec_ + 1 < 128 →
      Becomes s (.canBusError b false n) (Chip.modCtl b fun k => { k with lec := n.val, rec_ := k.rec_ + 1, acked := false, st := 1 })) ∧
    (k.tec < 256 → 128 ≤ k.rec_ + 1 → k.st = 1 →
      Becomes s (.canBusError b false n) (Chip.modCtl b fun k => { k with
        lec := n.val, rec_ := min 255 (k.rec_ + 1), acked := false, st := 2, irq := k.irq ||| 2 })) := by
  intro k
  refine ⟨fun ht hr => canBusError_becomes hs hl hu h0 h7 ?_, fun ht hp hst => canBusError_becomes hs hl hu h0 h7 ?_⟩
  · have hCount : min 255 (k.rec_ + 1) = k.rec_ + 1 := by omega
    rw [CanCtl.judge_active (k := k.erred false n.val) ht (by simp [CanCtl.erred]; omega)]
    simp [CanCtl.erred, k, hCount]
  · exact CanCtl.judge_passive (k := k.erred false n.val) hst ht (.inr (by simp [CanCtl.erred]; omega))

end

/-- Settles O48: an error or a frame's end is the controller judged by its counters; a waiting frame leaves, responses first; a time
frame is a ToD message of its port, and the controllers' counting does not touch how it is taken. -/
theorem canEvents : Obligations.CanEvents := by
  unfold Obligations.CanEvents
  intro s b hs c k ctl
  refine ⟨fun x hx hd => becomes_of hs rfl (Chip.segmentTimeout_of_due hx hd) rfl, fun hl hu => ⟨?_, ?_, fun n h0 h7 => ?_⟩,
    fun n t hl hr h0 h7 => becomes_of hs rfl (Chip.canError_of_restricted hl h0 h7 t hr) rfl,
    fun he hst => becomes_of hs rfl (Chip.busOffRecover_of_busOff he hst) rfl,
    fun hl => becomes_of hs rfl (Chip.protocolException_of_live hl) rfl,
    fun he hst ht hr => becomes_of hs rfl (Chip.integrationEnd_of_active he hst ht hr) rfl,
    fun h data r n hl hn hh h8 hd hc => ⟨fun ht hr => ⟨fun hRank hLo hHi => ?_, fun hOut => ?_⟩, fun ht => ?_⟩,
    CanCtl.received_of_active⟩
  · exact fun d r hq => becomes_of hs rfl (Chip.canFrameSent_of_response hl hu hq) rfl
  · exact fun e r hq he => becomes_of hs rfl (Chip.canFrameSent_of_event hl hu hq he) rfl
  · obtain ⟨hActive, hPassive, hOff⟩ := transmitError_becomes hs hl hu h0 h7
    obtain ⟨hRxActive, hRxPassive⟩ := receiveError_becomes hs hl hu h0 h7
    exact ⟨hActive, hPassive, hOff, hRxActive, hRxPassive⟩
  · exact becomes_of hs rfl (Chip.canTimeFrame_of_timely hl hn hh h8 hd hc ht (Chip.todTimely_of_edge hr hRank hLo hHi)) rfl
  · exact becomes_of hs rfl (Chip.canTimeFrame_of_untimely hl hn hh h8 hd hc ht (Chip.not_todTimely_of_edge hr hOut)) rfl
  · exact becomes_of hs rfl (Chip.canTimeFrame_of_known hl hn hh h8 hd hc ht) rfl

end Sys2Proof.Machine
end

section
/-! The two-wire target, its proxy commands and the management controller, and O49. -/

namespace Sys2Proof.Machine

open Sys2Proof

/-! ## Padded bytes -/

theorem padTo_length (p : Byte) (n : Nat) (b : Bytes) : (padTo p n b).length = n := by
  simp [padTo]; omega

/-- A byte of a padded string reads as it stood, or as the padding where that is 0. -/
theorem padTo_getD {n j : Nat} (b : Bytes) (h : j < n) : (padTo 0 n b).getD j 0 = b.getD j 0 := by
  rw [List.getD_eq_getElem?_getD, List.getD_eq_getElem?_getD, padTo]
  by_cases hj : j < b.length
  · have hTaken : j < (List.take n b).length := by rw [List.length_take]; omega
    rw [List.getElem?_append_left hTaken, List.getElem?_take_of_lt h]
  · have hPad : (List.take n b).length ≤ j := by rw [List.length_take]; omega
    have hFill : j - (List.take n b).length < n - b.length := by rw [List.length_take]; omega
    rw [List.getElem?_append_right hPad, List.getElem?_replicate_of_lt hFill, List.getElem?_eq_none (Nat.not_lt.1 hj)]
    rfl

/-! ## A page of the proxy's data (09 R409) -/

/-- The `j`-th offset from `p` on, within the 32 bytes of its page. -/
def pageAt (p j : Nat) : Nat := 32 * (p / 32) + (p + j) % 32

theorem pageAt_zero (p : Nat) : pageAt p 0 = p := by unfold pageAt; omega

theorem pageAt_next (p j : Nat) : pageAt (pageAt p 1) j = pageAt p (j + 1) := by unfold pageAt; omega

theorem pageAt_lt {p j : Nat} (h : p < 256) : pageAt p j < 256 := by unfold pageAt; omega

/-- A page holds 32 bytes before its first one comes again. -/
theorem pageAt_ne {p j : Nat} (h0 : 0 < j) (h : j < 32) : pageAt p j ≠ p := by unfold pageAt; omega

/-- Bytes written from the offset `p` on, round their page. -/
def pagePut : Bytes → Nat → Cells → Cells
  | [], _, m => m
  | b :: bs, p, m => pagePut bs (pageAt p 1) (m.put 0 p b)

theorem get_pagePut_of_outside (v : Bytes) {p i : Nat} {m : Cells} (h : ∀ j, j < v.length → i ≠ pageAt p j) :
    (pagePut v p m).get 0 i = m.get 0 i := by
  induction v generalizing p m with
  | nil => rfl
  | cons b v ih =>
    have hFirst : i ≠ p := pageAt_zero p ▸ h 0 (by simp)
    rw [pagePut, ih fun j hj => pageAt_next p j ▸ h (j + 1) (by simpa using hj), Cells.get_put, if_neg hFirst]

theorem get_pagePut (v : Bytes) {p j : Nat} {m : Cells} (hv : v.length ≤ 32) (hj : j < v.length) :
    (pagePut v p m).get 0 (pageAt p j) = v.getD j 0 := by
  induction v generalizing p j m with
  | nil => simp at hj
  | cons b v ih =>
    rw [List.length_cons] at hv hj
    cases j with
    | zero =>
      have hOnce : ∀ k, k < v.length → p ≠ pageAt (pageAt p 1) k := fun k hk =>
        pageAt_next p k ▸ (pageAt_ne (by omega) (by omega)).symm
      rw [pageAt_zero, pagePut, get_pagePut_of_outside v hOnce, Cells.get_put, if_pos rfl, List.getD_cons_zero]
    | succ j => rw [pagePut, ← pageAt_next p j, ih (by omega) (by omega), List.getD_cons_succ]

namespace Chip

/-- A byte written at an offset of the data area. -/
theorem twPut_data {p : Nat} (b : Byte) (t : TwoWire) (h : p < 256) : twPut (0x200 + p) b t = { t with pData := t.pData.put 0 p b } := by
  have hArea : 0x200 ≤ 0x200 + p ∧ 0x200 + p < 0x300 := by omega
  unfold twPut
  rw [if_neg (by omega), if_neg (by omega), if_neg (by omega), if_neg (by omega), if_neg (by omega), if_pos hArea, Nat.add_sub_cancel_left]

theorem twPutAll_data (v : Bytes) {p : Nat} {t : TwoWire} (h : p < 256) (ht : t.ptr = BitVec.ofNat 16 (0x200 + p)) :
    twPutAll v t = { t with ptr := BitVec.ofNat 16 (0x200 + pageAt p v.length), pData := pagePut v p t.pData } := by
  induction v generalizing p t with
  | nil => simp only [twPutAll, pagePut, List.length_nil, pageAt_zero, ← ht]
  | cons b v ih =>
    have hPtr : t.ptr.toNat = 0x200 + p := by rw [ht, BitVec.toNat_ofNat]; omega
    have hNext : (0x200 + p) / 32 * 32 + (0x200 + p + 1) % 32 = 0x200 + pageAt p 1 := by unfold pageAt; omega
    simp only [twPutAll, hPtr, hNext, twPut_data b t h]
    rw [ih (pageAt_lt h) rfl]
    simp only [pageAt_next, pagePut, List.length_cons]

/-- A proxy command byte written at its pointer waits for the transaction's end (09 R412, R413). -/
theorem twPutAll_start (t : TwoWire) {k : Byte} (hk : k = 1 ∨ k = 2) :
    twPutAll [k] { t with ptr := BitVec.ofNat 16 (256 * (0x01 : Byte).toNat + (0x04 : Byte).toNat) } =
      { t with ptr := 0x105, pStart := k } := by
  obtain rfl | rfl := hk <;> simp [twPutAll, twPut]

/-! ## The target (09 R407 to R412, R420) -/

/-- What the target reads at a pointer, the snapshot being the status area `st` (09 Table 09-6). -/
theorem twGet_eq {t : TwoWire} {st : Bytes} (h : t.snap = st) (p : Nat) : twGet t p =
    if p < 0x20 then st.getD p 0
    else if p = 0x100 then t.pIdx.setWidth 8
    else if p = 0x101 then (t.pIdx >>> 8).setWidth 8
    else if p = 0x102 then t.pSub
    else if p = 0x103 then t.pLen
    else if p = 0x105 then t.pStat
    else if p = 0x106 then t.pAbort.setWidth 8
    else if p = 0x107 then (t.pAbort >>> 8).setWidth 8
    else if 0x200 ≤ p ∧ p < 0x300 then t.pData.get 0 (p - 0x200)
    else 0 := by
  have hLow (x : Half) : byteOf x.toNat = x.setWidth 8 := rfl
  have hHigh (x : Half) : byteOf (x.toNat / 256) = (x >>> 8).setWidth 8 := by
    apply BitVec.eq_of_toNat_eq
    simp [byteOf, Nat.shiftRight_eq_div_pow]
  simp only [twGet, h, hLow, hHigh]

@[simp] theorem twServed_out (stop : Bool) (c : Chip) (t : TwoWire) : (twServed stop c t).out = t.out := by
  unfold twServed; split <;> rfl

@[simp] theorem twServed_pData (stop : Bool) (c : Chip) (t : TwoWire) : (twServed stop c t).pData = t.pData := by
  unfold twServed; split <;> rfl

/-- An open target's transaction ends: at a STOP with the settings last applied. -/
theorem twEnd_of_open (stop : Bool) (c : Chip) {t : TwoWire} (h : t.open_ = true) :
    ({ c with tw := t } : Chip).twEnd stop = { c with tw := twServed stop c t } := by
  cases stop with
  | false => rfl
  | true =>
    have hStop : (t.open_ && c.cat.loaded) = c.cat.loaded := by rw [h, Bool.true_and]
    simp only [twEnd, twStop, twServed, hStop, if_true, Bool.true_and]
    split <;> rfl

section
variable {c : Chip} {a : BitVec 7} (stop : Bool)

/-- An address that the target does not acknowledge ends the transaction for it, read or write. -/
theorem twoWire_of_unacked {t : TwoWire} (hx : c.twAddressed a = (false, { c with tw := t })) (ht : t.open_ = true) (v : Bytes) (n : Nat) :
    c.twRead a n stop = { c with tw := twServed stop c t } ∧ c.twWrite a v stop = { c with tw := twServed stop c t } := by
  simp only [twRead, twWrite, hx, Bool.not_false, if_true, twEnd_of_open stop c ht, and_self]

section
variable (ho : c.tw.open_ = true)
include ho

theorem twoWire_of_other (ha : a.toNat ≠ c.tw.addr) (v : Bytes) (n : Nat) :
    c.twRead a n stop = { c with tw := twServed stop c { c.tw with acked := false } } ∧
    c.twWrite a v stop = { c with tw := twServed stop c { c.tw with acked := false } } :=
  twoWire_of_unacked stop (if_pos ha) ho v n

theorem twoWire_of_refusing (ha : a.toNat = c.tw.addr) (hr : c.twRefuses = true) (v : Bytes) (n : Nat) :
    let t := { c.tw with acked := false, count := c.tw.count + 1, refused := c.tw.refused + 1, irq := c.tw.irq ||| 2 }
    c.twRead a n stop = { c with tw := twServed stop c t } ∧ c.twWrite a v stop = { c with tw := twServed stop c t } := by
  intro t
  have hOpen : t.open_ = true := ho
  exact twoWire_of_unacked stop (by simp [twAddressed, ha, hr, modTw, t]) hOpen v n

end

end

/-- The target after it acknowledged its address. -/
def twHeard (c : Chip) : TwoWire := { c.tw with acked := true, count := c.tw.count + 1 }

/-- The target after a write transaction whose bytes left it as `t` (09 R413). -/
def twWrote (c : Chip) (t : TwoWire) : TwoWire := { t with irq := t.irq ||| 4, pTick := c.clk.raw }

/-- The target after a read transaction of `n` bytes, over the status area as it stood at the address (09 R410, R411). -/
def twSent (n : Nat) (c : Chip) : TwoWire := { twHeard c with
  snap := c.twStatus, ptr := c.tw.ptr + BitVec.ofNat 16 n
  out := (List.range n).map fun k => twGet { twHeard c with snap := c.twStatus } ((c.tw.ptr.toNat + k) % 65536) }

@[simp] theorem twHeard_pData (c : Chip) : (twHeard c).pData = c.tw.pData := rfl
@[simp] theorem twWrote_pData (c : Chip) (t : TwoWire) : (twWrote c t).pData = t.pData := rfl

/-- The target at its address can serve (09 R408). -/
structure TwServes (c : Chip) (a : BitVec 7) : Prop where
  addr : a.toNat = c.tw.addr
  open_ : c.tw.open_ = true
  enabled : c.cfgB 0x7200 2 = true
  idle : c.tw.pRun = false
  taken : c.tw.pStart = 0

section
variable {c : Chip} {a : BitVec 7} (stop : Bool) (h : TwServes c a)
include h

theorem twAddressed_of_serves : c.twAddressed a = (true, { c with tw := twHeard c }) := by
  have hServes : c.twRefuses = false := by simp [twRefuses, h.open_, h.enabled, h.idle, h.taken]
  simp [twAddressed, h.addr, hServes, modTw, twHeard]

/-- A write too short for a pointer changes none. -/
theorem twWrite_of_short {v : Bytes} (hv : v.length < 2) : c.twWrite a v stop = { c with tw := twServed stop c (twWrote c (twHeard c)) } := by
  have hOpen : (twWrote c (twHeard c)).open_ = true := h.open_
  rw [← twEnd_of_open stop c hOpen]
  simp only [twWrite, twAddressed_of_serves h, Bool.not_true, Bool.false_eq_true, if_false]
  match v, hv with
  | [], _ => rfl
  | [_], _ => rfl

/-- A write of a pointer, and of the bytes that leave the target as `t`. -/
theorem twWrite_of_pointer {hi lo : Byte} {v : Bytes} {t : TwoWire}
    (ht : twPutAll v { twHeard c with ptr := BitVec.ofNat 16 (256 * hi.toNat + lo.toNat) } = t) (hOpen : t.open_ = c.tw.open_) :
    c.twWrite a (hi :: lo :: v) stop = { c with tw := twServed stop c (twWrote c t) } := by
  have hOpen' : (twWrote c t).open_ = true := hOpen.trans h.open_
  subst ht
  rw [← twEnd_of_open stop c hOpen']
  simp only [twWrite, twAddressed_of_serves h, Bool.not_true, Bool.false_eq_true, if_false]
  rfl

theorem twRead_of_serves (n : Nat) : c.twRead a n stop = { c with tw := twServed stop c (twSent n c) } := by
  have hOpen : (twSent n c).open_ = true := h.open_
  rw [← twEnd_of_open stop c hOpen]
  simp only [twRead, twAddressed_of_serves h, Bool.not_true, Bool.false_eq_true, if_false]
  rfl

end

/-! ## Proxy commands (09 R413, R414) -/

/-- A proxy command becomes a request of its port with the tick of its transaction's end; an order message would go to Verify. -/
theorem proxyStart_of_asked (w : Bool) {c : Chip} (hs : c.tw.pStart = if w then 2 else 1)
    (hn : ¬(w = true ∧ c.tw.pIdx.toNat = 0x4200 ∧ c.tw.pSub.toNat = 1)) :
    c.proxyStart w = { c with
      tw := { c.tw with pStart := 0, pRun := true, pStat := 0 }
      cat := { c.cat with reqs := c.cat.reqs ++ [{
        port := .twoWire, tick := c.tw.pTick, write := w, idx := c.tw.pIdx.toNat, sub := c.tw.pSub.toNat
        data := if w then c.tw.pData.read 0 0 (if c.tw.pLen = 0 then 256 else c.tw.pLen.toNat) else [], reply := .twoWire }] } } := by
  simp only [proxyStart, ne_eq, hs, not_true_eq_false, if_false, requestAt, if_neg hn]
  rfl

theorem proxyStart_of_unasked (w : Bool) {c : Chip} (hs : c.tw.pStart = 0) : c.proxyStart w = c := by
  cases w <;> simp [proxyStart, hs]

/-! ## The management controller (09 R422 to R424, R429) -/

theorem twmCommand_of_free {c : Chip} (hr : c.twm.res ≠ 1) (hc : c.twm.ctrl.getLsbD 0 = true) :
    c.twmCommand 1 = c.modTwm fun t => { t with
      res := 1, tries := 1, inGap := false, since := c.clk.raw, pulses := 0
      bus := some (t.addr.toNat % 128, t.wbuf.read 0 0 (min 32 t.wlen.toNat), min 32 t.rlen.toNat) } :=
  if_pos ⟨rfl, hr, hc⟩

theorem twmCommand_of_refused {c : Chip} {v : Byte} (h : v ≠ 1 ∨ c.twm.res = 1 ∨ c.twm.ctrl.getLsbD 0 = false) : c.twmCommand v = c := by
  refine if_neg fun ⟨hv, hr, hc⟩ => ?_
  obtain h | h | h := h
  · exact h hv
  · exact hr h
  · exact Bool.false_ne_true (h.symm.trans hc)

section
variable {c : Chip} {n : Nat} {rd : Bytes} (hr : c.twm.res = 1) (hg : c.twm.inGap = false)
include hr hg

/-- SDA stays low after nine SCL pulses: code 7. -/
theorem twmDone_of_stuck (x y : Bool) : c.twmDone 10 x y rd = c.modTwm fun t => { t with res := 7, pulses := 9 } := by
  simp [twmDone, hr, hg]

section
variable (hn : n ≤ 9)
include hn

theorem twmDone_of_retry (y : Bool) (ht : c.twm.tries.toNat ≤ c.twm.retry.toNat % 16) :
    c.twmDone n false y rd = c.modTwm fun t => { t with inGap := true, since := c.clk.raw, pulses := n } := by
  simp [twmDone, hr, hg, hn, modTwm, ht]

theorem twmDone_of_unacked (y : Bool) (ht : c.twm.retry.toNat % 16 < c.twm.tries.toNat) :
    c.twmDone n false y rd = c.modTwm fun t => { t with res := 3, pulses := n } := by
  simp [twmDone, hr, hg, hn, modTwm, Nat.not_le.2 ht]

section
variable {dest r : Nat} {w : Bytes} (hb : c.twm.bus = some (dest, w, r))
include hb

theorem twmDone_of_data_unacked (hw : w ≠ []) : c.twmDone n true false rd = c.modTwm fun t => { t with res := 4, pulses := n } := by
  simp [twmDone, hr, hg, hn, modTwm, hb, hw]

theorem twmDone_of_acked {y : Bool} (hy : y = true ∨ w = []) : c.twmDone n true y rd =
    c.modTwm fun t => { t with res := 2, pulses := n, rbuf := Cells.write 0 t.rbuf 0 (padTo 0 r rd) } := by
  have hAcked : ¬(¬w = [] ∧ y = false) := fun ⟨hw, hNot⟩ => hy.elim (by simp [hNot]) hw
  simp [twmDone, hr, hg, hn, Nat.not_lt.2 hn, modTwm, hb, hAcked]

end

end

theorem twmHeld_of_due (h : c.twm.since + 10000000 ≤ c.clk.raw) : c.twmHeld = c.modTwm fun t => { t with res := 6 } := by
  simp [twmHeld, hr, hg, ticksMs, h]

end

theorem twmHeld_of_early {c : Chip} (h : c.clk.raw < c.twm.since + 10000000) : c.twmHeld = c := by
  simp [twmHeld, ticksMs, Nat.not_le.2 h]

/-- The unit of TWM_RETRY 7:4 is 100 µs. -/
theorem retryGap_ticks (n : Nat) : ticksUs (100 * n) = 40000 * n := by unfold ticksUs; omega

theorem twmGap_of_due {c : Chip} (hr : c.twm.res = 1) (hg : c.twm.inGap = true)
    (h : c.twm.since + 40000 * (c.twm.retry.toNat / 16) ≤ c.clk.raw) :
    c.twmGap = c.modTwm fun t => { t with inGap := false, tries := t.tries + 1, since := c.clk.raw } := by
  simp [twmGap, hr, hg, retryGap_ticks, h]

theorem twmGap_of_early {c : Chip} (h : c.clk.raw < c.twm.since + 40000 * (c.twm.retry.toNat / 16)) : c.twmGap = c := by
  simp [twmGap, retryGap_ticks, Nat.not_le.2 h]

end Chip

/-! ## Two-wire events as commands -/

section
variable {s : State} {a : BitVec 7} (hs : Live s) (stop : Bool) (h : Chip.TwServes s.dev.chip a)
include hs h

/-- A write of `v` at the data area's offset `lo`: its bytes lie round the page of `lo`, and no other changes (09 R409, R412). -/
theorem twWritePage_leaves (lo : Byte) {v : Bytes} (hv : v.length ≤ 32) :
    Leaves s (.twWriteTransaction ⟨a, stop⟩ (2 :: lo :: v)) [.tw] fun d =>
      d.tw = twServed stop s.dev.chip (Chip.twWrote s.dev.chip { Chip.twHeard s.dev.chip with
        ptr := BitVec.ofNat 16 (0x200 + pageAt lo.toNat v.length), pData := d.tw.pData }) ∧
      (∀ j, j < v.length → d.tw.pData.get 0 (pageAt lo.toNat j) = v.getD j 0) ∧
      (∀ i, (∀ j, j < v.length → i ≠ pageAt lo.toNat j) → d.tw.pData.get 0 i = s.dev.chip.tw.pData.get 0 i) := by
  have hPut := Chip.twPutAll_data v (t := { Chip.twHeard s.dev.chip with ptr := BitVec.ofNat 16 (256 * (2 : Byte).toNat + lo.toNat) })
    lo.isLt rfl
  have hWrite := Chip.twWrite_of_pointer stop h hPut rfl
  refine leaves_of hs rfl (hWrite ▸ Chip.modTw_only (fun _ => _) _ (by simp)) (hWrite ▸ ⟨?_, fun j hj => ?_, fun i hi => ?_⟩)
  · simp [Chip.twWrote]
  · simpa using get_pagePut v hv hj
  · simpa using get_pagePut_of_outside v hi

/-- A read of `n` bytes: what lies at the pointer and after it, the status area as it stood at the address (09 R410 to R412). -/
theorem twRead_leaves (n : Nat) : Leaves s (.twReadTransaction ⟨a, stop⟩ n) [.tw] fun d =>
    d.tw = twServed stop s.dev.chip { Chip.twHeard s.dev.chip with
      snap := s.dev.chip.twStatus, ptr := s.dev.chip.tw.ptr + BitVec.ofNat 16 n, out := d.tw.out } ∧
    d.tw.out.length = n ∧
    ∀ j, j < n → d.tw.out.getD j 0 =
      Chip.twGet { Chip.twHeard s.dev.chip with snap := s.dev.chip.twStatus } ((s.dev.chip.tw.ptr.toNat + j) % 65536) := by
  have hRead := Chip.twRead_of_serves stop h n
  refine leaves_of hs rfl (hRead ▸ Chip.modTw_only (fun _ => _) _ (by simp)) (hRead ▸ ⟨?_, ?_, fun j hj => ?_⟩)
  · simp [Chip.twSent]
  · simp [Chip.twSent]
  · simp [Chip.twSent, hj]

end

/-- A write of TWM_CMD starts the transfer that the Registrar asks for, and no other (09 R422, R429). -/
theorem twmStart_becomes {s : State} (hs : Live s) (i : Init) (v : Byte) :
    let m := s.dev.chip.twm
    (i = .registrar → v = 1 → m.res ≠ 1 → m.ctrl.getLsbD 0 = true → Becomes s (.twmStart i v) (Chip.modTwm fun t => { t with
      res := 1, tries := 1, inGap := false, since := s.dev.chip.clk.raw, pulses := 0
      bus := some (t.addr.toNat % 128, t.wbuf.read 0 0 (min 32 t.wlen.toNat), min 32 t.rlen.toNat) })) ∧
    ((i ≠ .registrar ∨ v ≠ 1 ∨ m.res = 1 ∨ m.ctrl.getLsbD 0 = false) → Becomes s (.twmStart i v) id) := by
  refine ⟨fun hi hv hr hc => ?_, fun hRefused => becomes_of hs rfl ?_ rfl⟩
  · subst hi hv
    exact becomes_of hs rfl (Chip.twmCommand_of_free hr hc) rfl
  · by_cases hi : i = .registrar
    · exact (if_pos hi).trans (Chip.twmCommand_of_refused (hRefused.resolve_left (· hi)))
    · exact if_neg hi

/-- A transfer that ends well leaves the bytes that it read in the first `r` of its buffer (09 R422). -/
theorem twmTransferDone_leaves {s : State} (hs : Live s) {n : Fin 11} {y : Bool} {rd w : Bytes} {dest r : Nat} (hr : s.dev.chip.twm.res = 1)
    (hg : s.dev.chip.twm.inGap = false) (hn : n.val ≤ 9) (hb : s.dev.chip.twm.bus = some (dest, w, r)) (hy : y = true ∨ w = []) :
    Leaves s (.twmTransferDone n true y rd) [.twm] fun d =>
      d.twm = { s.dev.chip.twm with res := 2, pulses := n.val, rbuf := d.twm.rbuf } ∧
      ∀ j, d.twm.rbuf.get 0 j = if j < r then rd.getD j 0 else s.dev.chip.twm.rbuf.get 0 j := by
  have hDone := Chip.twmDone_of_acked hr hg hn hb (rd := rd) hy
  refine leaves_of hs rfl (hDone ▸ Chip.modTwm_only _ _ (by simp)) (hDone ▸ ⟨rfl, fun j => ?_⟩)
  by_cases hj : j < r
  · simp only [Chip.modTwm_twm, Cells.get_write, padTo_length, Nat.zero_le, Nat.zero_add, Nat.sub_zero, hj, and_self, if_true, padTo_getD]
  · simp [Cells.get_write, padTo_length, hj]

/-- Settles O49: a transaction that the target serves leaves its pointer, page and bytes as its table says; a proxy command is a request
of its port; the management controller's attempt ends as its acknowledgements and its times say. -/
theorem twoWirePorts : Obligations.TwoWirePorts := by
  unfold Obligations.TwoWirePorts
  intro s stop hs c served
  refine ⟨fun a v n ha ho => ?_, fun a v n ha hr ho => ?_, fun a ha ho he hi hp => ?_, ?_, ?_⟩
  · obtain ⟨hRead, hWrite⟩ := Chip.twoWire_of_other stop ho ha v n
    exact ⟨becomes_of hs rfl hRead rfl, becomes_of hs rfl hWrite rfl⟩
  · obtain ⟨hRead, hWrite⟩ := Chip.twoWire_of_refusing stop ho ha hr v n
    exact ⟨becomes_of hs rfl hWrite rfl, becomes_of hs rfl hRead rfl⟩
  · have hServes : Chip.TwServes c a := ⟨ha, ho, he, hi, hp⟩
    refine ⟨becomes_of hs rfl (Chip.twWrite_of_short stop hServes (by simp)) rfl,
      fun x => becomes_of hs rfl (Chip.twWrite_of_short stop hServes (by simp)) rfl,
      fun hi lo => becomes_of hs rfl (Chip.twWrite_of_pointer stop hServes rfl rfl) rfl, fun k hk => ?_, ?_, fun n => ?_⟩
    · exact becomes_of hs rfl (Chip.twWrite_of_pointer stop hServes (Chip.twPutAll_start _ hk) rfl) rfl
    · rintro _ lo v rfl hv
      exact twWritePage_leaves hs stop hServes lo hv
    · obtain ⟨t, hNext, hOnly, hTw, hLength, hOut⟩ := twRead_leaves hs stop hServes n
      exact ⟨t, hNext, hOnly, hTw, hLength, fun j hj => (hOut j hj).trans (Chip.twGet_eq rfl _)⟩
  · refine ⟨fun hAsked => becomes_of hs rfl (Chip.proxyStart_of_asked false hAsked (by simp)) rfl, fun hAsked hn => ?_,
      fun hNone => ⟨becomes_of hs rfl (Chip.proxyStart_of_unasked false hNone) rfl,
        becomes_of hs rfl (Chip.proxyStart_of_unasked true hNone) rfl⟩⟩
    refine becomes_of hs rfl (Chip.proxyStart_of_asked true hAsked ?_) rfl
    rintro ⟨-, hIdx, hSub⟩
    exact hn.elim (· (BitVec.eq_of_toNat_eq hIdx)) (· (BitVec.eq_of_toNat_eq hSub))
  · refine ⟨twmStart_becomes hs, fun dest w r hr hg hb n x y rd => ⟨?_, fun h10 => ?_⟩,
      fun hr hg => ⟨fun hDue => becomes_of hs rfl (Chip.twmHeld_of_due hr hg hDue) rfl,
        fun hEarly => becomes_of hs rfl (Chip.twmHeld_of_early hEarly) rfl⟩,
      fun hr hg => ⟨fun hDue => becomes_of hs rfl (Chip.twmGap_of_due hr hg hDue) rfl,
        fun hEarly => becomes_of hs rfl (Chip.twmGap_of_early hEarly) rfl⟩⟩
    · rintro rfl
      exact becomes_of hs rfl (Chip.twmDone_of_stuck hr hg x y) rfl
    · have hn : n.val ≤ 9 := by omega
      exact ⟨fun hTries => becomes_of hs rfl (Chip.twmDone_of_retry hr hg hn y hTries) rfl,
        fun hTries => becomes_of hs rfl (Chip.twmDone_of_unacked hr hg hn y hTries) rfl,
        fun hw => becomes_of hs rfl (Chip.twmDone_of_data_unacked hr hg hn hb hw) rfl,
        fun hy => twmTransferDone_leaves hs hr hg hn hb hy⟩

end Sys2Proof.Machine
end

section
/-! How a tag command comes to its body, what a failure leaves, the frame of the field lane, and the reads of flash beside the main domain. -/

namespace Sys2Proof.Machine

open Sys2Proof

/-! ## The command as its body finds it (10 Table 10-6, R441) -/

theorem tagBlocksIn_withN (k m : Nat) (t : Tag) : Chip.tagBlocksIn k { t with n := m } = { Chip.tagBlocksIn k t with n := m } := by
  induction k generalizing t with
  | zero => rfl
  | succ k ih => exact ih { t with blk := !t.blk, sent := t.sent ++ [Chip.prologue t (0xA2 + bit (!t.blk))] }

/-- The blocks of a command turn the block number and are answered; they touch nothing else of the engine. -/
theorem tagBlocksIn_frame (k : Nat) (t : Tag) :
    Chip.tagBlocksIn k t = { t with blk := (Chip.tagBlocksIn k t).blk, sent := (Chip.tagBlocksIn k t).sent } := by
  induction k generalizing t with
  | zero => rfl
  | succ k ih => exact ih _

section

variable (a : Apdu) (c : Chip)

/-- The engine as a command's body finds it, but for its blocks. -/
theorem tagHeard_frame : (tagHeard a c).tag = { c.tag with
    ppsOk := false, authPend := false, blockEnd := c.tag.clock, blk := (tagHeard a c).tag.blk, sent := (tagHeard a c).tag.sent
    n := if c.tag.overlay = .securedA then c.tag.n + 1 else c.tag.n } :=
  tagBlocksIn_frame ..

@[simp] theorem tagHeard_overlay : (tagHeard a c).tag.overlay = c.tag.overlay := (congrArg Tag.overlay (tagHeard_frame a c) :)
@[simp] theorem tagHeard_fails : (tagHeard a c).tag.fails = c.tag.fails := (congrArg Tag.fails (tagHeard_frame a c) :)
@[simp] theorem tagHeard_rndR : (tagHeard a c).tag.rndR = c.tag.rndR := (congrArg Tag.rndR (tagHeard_frame a c) :)
@[simp] theorem tagHeard_rndT : (tagHeard a c).tag.rndT = c.tag.rndT := (congrArg Tag.rndT (tagHeard_frame a c) :)
@[simp] theorem tagHeard_session : (tagHeard a c).tag.session = c.tag.session := (congrArg Tag.session (tagHeard_frame a c) :)
@[simp] theorem tagHeard_fieldOnly : (tagHeard a c).tag.fieldOnly = c.tag.fieldOnly := (congrArg Tag.fieldOnly (tagHeard_frame a c) :)

end

/-- What the body of command `a` knows of it. -/
def tagCall (a : Apdu) (data : Bytes) (c : Chip) : TagCall :=
  { a, data, mac := decide (c.tag.overlay = .securedA), afterAuth := c.tag.authPend }

namespace Chip

/-- The engine with the blocks of command `a`, before it counts the command. -/
def tagArrived (a : Apdu) (c : Chip) : Chip :=
  c.modTag fun t => tagBlocksIn a.chained { t with ppsOk := false, authPend := false, blockEnd := c.tag.clock, sent := [] }

section

variable (a : Apdu) (c : Chip)

theorem tagArrived_frame : (tagArrived a c).tag = { c.tag with
    ppsOk := false, authPend := false, blockEnd := c.tag.clock, blk := (tagArrived a c).tag.blk, sent := (tagArrived a c).tag.sent } :=
  tagBlocksIn_frame ..

@[simp] theorem tagArrived_overlay : (tagArrived a c).tag.overlay = c.tag.overlay := (congrArg Tag.overlay (tagArrived_frame a c) :)
@[simp] theorem tagArrived_fails : (tagArrived a c).tag.fails = c.tag.fails := (congrArg Tag.fails (tagArrived_frame a c) :)
@[simp] theorem tagArrived_selected : (tagArrived a c).tag.selected = c.tag.selected := (congrArg Tag.selected (tagArrived_frame a c) :)
@[simp] theorem tagArrived_n : (tagArrived a c).tag.n = c.tag.n := (congrArg Tag.n (tagArrived_frame a c) :)

@[simp] theorem cmdMac_arrived (n : Nat) (data : Bytes) : (tagArrived a c).cmdMac n a data = c.cmdMac n a data := by
  have hKs : (tagArrived a c).tag.ks = c.tag.ks := (congrArg Tag.ks (tagArrived_frame a c) :)
  simp [cmdMac, hKs]

theorem tagHeard_of_open (h : c.tag.overlay ≠ .securedA) : tagHeard a c = tagArrived a c := by
  simp only [tagHeard, tagArrived, modTag, if_neg h]

theorem tagHeard_of_secured (h : c.tag.overlay = .securedA) :
    tagHeard a c = (tagArrived a c).modTag fun t => { t with n := t.n + 1 } := by
  have hN := tagArrived_n a c
  simp only [tagArrived, modTag] at hN
  simp only [tagHeard, tagArrived, modTag, if_pos h, hN, ← tagBlocksIn_withN]

end

/-- A command that passes every check comes to its body. -/
theorem tagCommand_of_hears {c : Chip} {a : Apdu} {ins : Byte} {data : Bytes} (body : TagCall → Chip → Chip) (h : TagHears c a ins data)
    (hDefined : tagInsDefined ins = true) (hAid : ins = 0xA4 → data = tagAid) :
    tagCommand ins a body c = body (tagCall a data c) (tagHeard a c) := by
  obtain ⟨hOpen, hLayer, hWaits, rfl, hCla, hParams, hLc, hLength, hData, hFails, hAllowed, hSelected⟩ := h
  have hAid' : ¬(a.ins = 164#8 ∧ ¬data = tagAid) := fun h => h.2 (hAid h.1)
  have hFails' : ¬((a.ins = 32#8 ∨ a.ins = 162#8) ∧ 3 ≤ c.tag.fails) := fun h => absurd (hFails h.1) (by omega)
  have hSelected' : ¬(¬a.ins = 164#8 ∧ c.tag.selected = false) := fun h => by simp [hSelected h.1] at h
  rw [tagCommand, ← tagArrived]
  by_cases hSec : c.tag.overlay = .securedA
  · rw [if_pos hSec] at hData
    obtain ⟨m, hm, hSplit, hMac⟩ := hData
    rw [hSec] at hAllowed
    rw [tagHeard_of_secured a c hSec]
    simp [hOpen, hLayer, hWaits, hCla, hDefined, hParams, hLc, hSec, hSplit, hLength, hm, ← hMac, hAid', hFails', hSelected', hAllowed,
      tagCall]
  · rw [if_neg hSec] at hData
    rw [tagHeard_of_open a c hSec]
    simp [hOpen, hLayer, hWaits, hCla, hDefined, hParams, hLc, hSec, hData, hLength, hAid', hFails', hSelected', hAllowed, tagCall]

/-! ## Answers and failures (10 R443, R444, R449) -/

theorem tagEnd_eq_says {a : Apdu} {mac : Bool} {data : Bytes} {sw : Nat} {c : Chip} (h : mac = decide (c.tag.overlay = .securedA)) :
    c.tagEnd a mac data sw = tagSays a data sw c := by
  subst h; rfl

@[simp] theorem modTag_mainUp (f : Tag → Tag) (c : Chip) : (c.modTag f).mainUp = c.mainUp := rfl

/-- The engine after a failure whose answer will be `b`. -/
def failedTag (up : Bool) (b : Bytes) (t : Tag) : Tag :=
  { t with
    fails := t.fails + 1, out := [], delayed := some (b, t.clock + 40000000)
    failed := if up then t.failed + 1 else t.failed, irq := if up then t.irq ||| 8 else t.irq }

section

variable {k : TagCall} {c : Chip} {up : Bool} {b : Bytes} (hUp : c.mainUp = up) (hAnswer : c.tagBytes k.a [] 0x6300 k.mac = b)
include hUp hAnswer

theorem tagFail_of_unrecorded (h : c.tag.fails ≠ 2 ∨ up = false) : c.tagFail k = c.modTag (failedTag up b) := by
  subst hAnswer
  cases up with
  | false =>
    simp only [tagFail, tagCount, modTag_mainUp, hUp, Bool.false_and, if_false, reduceCtorEq]
    rfl
  | true =>
    have hFails : c.tag.fails ≠ 2 := by simpa using h
    simp only [tagFail, tagCount, modTag_mainUp, hUp, if_true, modTag_tag, Nat.reduceEqDiff, hFails, decide_false, Bool.and_false,
      Bool.false_eq_true, if_false]
    rfl

theorem tagFail_of_third (hFails : c.tag.fails = 2) (h : up = true) :
    c.tagFail k = logs clsSec 9 0x501 0 (alerted 0x80 (c.modTag (failedTag up b))) := by
  subst hAnswer h
  simp only [tagFail, tagCount, modTag_mainUp, hUp, if_true, modTag_tag, hFails, Nat.reduceAdd, decide_true, Bool.and_self, secEvent_logs,
    Nat.reduceMul, Nat.reduceEqDiff, if_false]
  rfl

end

/-! ## The field lane (06 R290) -/

theorem setSlot_only {bs : List Block} (n : Nat) (k : Option KeySlot) (c : Chip) (h : Block.vlt ∈ bs) : ChipOnly bs c (c.setSlot n k) := by
  unfold setSlot; split
  · exact modVlt_only _ _ h
  · exact ChipOnly.refl _ _

theorem eraseSlot_only (n : Nat) (c : Chip) : ChipOnly [.vlt, .acc, .rgr] c (c.eraseSlot n) :=
  ((setSlot_only _ _ _ (by simp)).trans (modVlt_only _ _ (by simp))).trans (secEvent_only _ _ _ _ (by simp) (by simp))

theorem deriveRounds_only (r n : Nat) (c : Chip) : ChipOnly [.vlt, .acc, .rgr] c (deriveRounds r n c) := by
  induction r generalizing c with
  | zero => exact setSlot_only _ _ _ (by simp)
  | succ r ih =>
    have hTaken (m : Nat) : ChipOnly [.vlt, .acc, .rgr] c (c.takeKeyFaults m n) := modVlt_only _ _ (by simp)
    unfold deriveRounds; split
    · exact ((hTaken 3).trans (eraseSlot_only _ _)).trans (ih _)
    · exact (hTaken 2).trans (setSlot_only _ _ _ (by simp))

/-- Of the clock and the engine, nothing but K_tag's copies and what is to strike them differs. -/
structure OnlyTagKey (c d : Chip) : Prop where
  clk : d.clk = c.clk
  tag : d.tag = { c.tag with key := d.tag.key, keyInv := d.tag.keyInv, faults := d.tag.faults }

theorem OnlyTagKey.refl (c : Chip) : OnlyTagKey c c := ⟨rfl, rfl⟩

theorem OnlyTagKey.trans {c d e : Chip} (h : OnlyTagKey c d) (h' : OnlyTagKey d e) : OnlyTagKey c e :=
  ⟨h'.clk.trans h.clk, by rw [h'.tag, h.tag]⟩

theorem OnlyTagKey.of_only {c d : Chip} (h : ChipOnly [.vlt, .acc, .rgr] c d) : OnlyTagKey c d := by
  have hTag : c.tag = d.tag := h.2 .tag (by simp)
  exact ⟨(h.2 .clk (by simp)).symm, by rw [hTag]⟩

theorem takeTagFaults_onlyTagKey (m k : Nat) (c : Chip) : OnlyTagKey c (c.takeTagFaults m k) := ⟨rfl, rfl⟩

theorem tagKeyFault_onlyTagKey (c : Chip) : OnlyTagKey c c.tagKeyFault := by
  have hGone : OnlyTagKey c (c.modTag fun t => { t with key := [], keyInv := [] }) := ⟨rfl, rfl⟩
  unfold tagKeyFault
  dsimp only
  split
  · exact hGone.trans (.of_only ((eraseSlot_only _ _).trans (deriveRounds_only _ _ _)))
  · exact hGone

theorem tagKeyRounds_onlyTagKey (r : Nat) (c : Chip) : OnlyTagKey c (tagKeyRounds r c) := by
  induction r generalizing c with
  | zero => exact ⟨rfl, rfl⟩
  | succ r ih =>
    unfold tagKeyRounds; split
    · exact ((takeTagFaults_onlyTagKey _ _ _).trans (tagKeyFault_onlyTagKey _)).trans (ih _)
    · exact ⟨rfl, rfl⟩

theorem fieldLane_onlyTagKey (c : Chip) : OnlyTagKey c c.fieldLane := by
  unfold fieldLane; split
  · exact .refl _
  · exact ((takeTagFaults_onlyTagKey _ _ _).trans (tagKeyFault_onlyTagKey _)).trans (tagKeyRounds_onlyTagKey _ _)

section

variable (c : Chip)

@[simp] theorem fieldLane_overlay : c.fieldLane.tag.overlay = c.tag.overlay := (congrArg Tag.overlay (fieldLane_onlyTagKey c).tag :)
@[simp] theorem fieldLane_fails : c.fieldLane.tag.fails = c.tag.fails := (congrArg Tag.fails (fieldLane_onlyTagKey c).tag :)
@[simp] theorem fieldLane_rndR : c.fieldLane.tag.rndR = c.tag.rndR := (congrArg Tag.rndR (fieldLane_onlyTagKey c).tag :)
@[simp] theorem fieldLane_rndT : c.fieldLane.tag.rndT = c.tag.rndT := (congrArg Tag.rndT (fieldLane_onlyTagKey c).tag :)

@[simp] theorem fieldLane_mainUp : c.fieldLane.mainUp = c.mainUp := by
  simp [mainUp, (fieldLane_onlyTagKey c).clk]

@[simp] theorem tagBytes_fieldLane (a : Apdu) (data : Bytes) (sw : Nat) (mac : Bool) :
    c.fieldLane.tagBytes a data sw mac = c.tagBytes a data sw mac := by
  have hKs : c.fieldLane.tag.ks = c.tag.ks := (congrArg Tag.ks (fieldLane_onlyTagKey c).tag :)
  have hN : c.fieldLane.tag.n = c.tag.n := (congrArg Tag.n (fieldLane_onlyTagKey c).tag :)
  simp [tagBytes, tagMac, hKs, hN]

end

/-! ## Reads of flash (10 R433, R457) -/

/-- The chip after a read request that suspends nothing: the request puts off a suspended erase (05 R219). -/
def readAsked (c : Chip) : Chip := { c with cns := { c.cns with lastRead := c.clk.raw } }

/-- Such a request does not change which reads must wait. -/
@[simp] theorem readWaits_readAsked (c : Chip) (b : Option Nat) : (readAsked c).readWaits b = c.readWaits b := rfl

/-- No read suspends what the array does: it is idle, or it programs. -/
def ArrayKept (c : Chip) : Prop := ∀ r, c.cns.run = some r → opPrograms r.op = true

theorem readRequest_of_kept {c : Chip} (b : Option Nat) (h : ArrayKept c) : c.readRequest b = readAsked c := by
  unfold readRequest
  cases hRun : c.cns.run with
  | none => rfl
  | some r => simp [h r hRun, readAsked, modCns]

theorem readRequests_of_kept {c : Chip} (bs : List Nat) (h : ArrayKept c) :
    bs.foldl (fun x b => x.readRequest (some b)) c = if bs = [] then c else readAsked c := by
  induction bs generalizing c with
  | nil => rfl
  | cons b bs ih =>
    have hKept : ArrayKept (readAsked c) := h
    rw [List.foldl_cons, readRequest_of_kept _ h, ih hKept, if_neg (List.cons_ne_nil b bs)]
    split <;> rfl

theorem tagFlashBlocks_eq_nil {l : List (Nat × Nat)} : tagFlashBlocks l = [] ↔ l.filter (fun x => decide (0x20000000 ≤ x.1)) = [] := by
  unfold tagFlashBlocks
  cases l.filter (fun x => decide (0x20000000 ≤ x.1)) <;> simp [List.eraseDups_cons]

theorem tagRead_of_alone {c : Chip} (l : List (Nat × Nat)) (hUp : c.mainUp = false) : tagRead l c = c := by
  simp [tagRead, hUp]

theorem tagRead_of_main {c : Chip} (l : List (Nat × Nat)) (hUp : c.mainUp = true) :
    tagRead l c = l.foldl (fun x y => if y.1 < 0x20000000 then x else x.touchFlash (y.1 - 0x20000000) y.2)
      (if tagFlashBlocks l = [] then c else readAsked c) := by
  simp only [tagRead, hUp, if_true, List.foldl_filter, decide_eq_true_eq, ← Nat.not_lt, ite_not, tagFlashBlocks_eq_nil]
  rfl

@[simp] theorem tagRead_tag (l : List (Nat × Nat)) (c : Chip) : (tagRead l c).tag = c.tag := by
  cases hUp : c.mainUp with
  | false => rw [tagRead_of_alone l hUp]
  | true =>
    rw [tagRead_of_main l hUp]
    have hTouched (d : Chip) : ChipOnly [.cns, .acc, .rgr] d
        (l.foldl (fun x y => if y.1 < 0x20000000 then x else x.touchFlash (y.1 - 0x20000000) y.2) d) :=
      foldl_only _ (fun x y => by
        split
        · exact ChipOnly.refl _ _
        · exact touchFlash_only _ _ _) _ _
    refine ((hTouched _).2 .tag (by simp)).symm.trans ?_
    split <;> rfl

section

variable (k : TagCall) {c : Chip} {l : List (Nat × Nat)} (go : Chip → Chip)

theorem tagFlash_of_readsNow (h : TagReadsNow c l) : c.tagFlash k l go = go (tagRead l c) := by
  cases hUp : c.mainUp with
  | false =>
    have hReads : c.tagReads l = none := by simp [tagReads, hUp]
    simp [tagFlash, tagRead_of_alone l hUp, hReads, hUp]
  | true =>
    obtain ⟨hReads, hRun, hErase⟩ := h.resolve_left (by simp [hUp])
    have hKept : ArrayKept c := fun r hr => by simp [hRun] at hr
    have hServed : ((tagFlashBlocks l).any fun b => c.readWaits (some b)) = false := by simpa [readWaits, hRun] using hErase
    rw [tagRead_of_main l hUp]
    by_cases hNil : tagFlashBlocks l = []
    · simp [tagFlash, hReads, hUp, hNil]
    · simp [tagFlash, hReads, hUp, readRequests_of_kept _ hKept, hNil, hServed]

/-- Behind a program of the array a read waits at most 160 µs (05 Table 05-6). -/
theorem tagFlash_of_program {r : RunOp} (hUp : c.mainUp = true) (hReads : c.tagReads l = none) (hRun : c.cns.run = some r)
    (hProgram : opPrograms r.op = true) (hFlash : tagFlashBlocks l ≠ []) :
    c.tagFlash k l go = (readAsked c).modTag fun t => { t with waitRead := some k, waitEnd := t.clock + 64000, out := [] } := by
  have hKept : ArrayKept c := fun x hx => by rw [hRun] at hx; cases hx; exact hProgram
  have hWaits : ∃ b ∈ tagFlashBlocks l, c.readWaits (some b) = true := by
    obtain ⟨b, hb⟩ := List.exists_mem_of_ne_nil _ hFlash
    exact ⟨b, hb, by simp [readWaits, hRun, hProgram]⟩
  have hBound : (readAsked c).arrayBound = 64000 := by simp [arrayBound, readAsked, hRun, hProgram]
  simp [tagFlash, hReads, hUp, readRequests_of_kept _ hKept, hFlash, hWaits, hBound, modTag]

end

end Chip

end Sys2Proof.Machine
end

section
/-! What each tag command's body does with a command that is heard, the placard's jobs, and O51. -/

namespace Sys2Proof.Machine

open Sys2Proof

namespace Chip

/-! ## Bodies whose effect is no answer under the session's MAC (10 R443, R446, R457) -/

section

variable {k : TagCall} {c : Chip}

theorem bodyPassword_of_wrong (h : c.tagPassword = 0 ∨ leNat k.data ≠ c.tagPassword) : bodyPassword k c = c.tagFail k :=
  if_neg fun hBoth => h.elim (absurd · hBoth.1) (absurd hBoth.2)

theorem bodyAuth2_of_proof (h : k.afterAuth = true) (hOpens : Crypto.aesDec c.fieldLane.tag.key k.data = c.tag.rndR ++ c.tag.rndT) :
    bodyAuth2 k c = tagSays k.a [] 0x9000 (c.fieldLane.modTag fun t => { t with
      overlay := .securedA, n := 0, ks := Crypto.cmac t.key (([0x53, 0x45, 0x53, 0x53] : Bytes) ++ t.rndR ++ t.rndT)
      auths := if c.mainUp then t.auths + 1 else t.auths, irq := if c.mainUp then t.irq ||| 4 else t.irq }) := by
  have hUnequal : ¬Crypto.aesDec c.fieldLane.tag.key k.data ≠ c.fieldLane.tag.rndR ++ c.fieldLane.tag.rndT := by simpa using hOpens
  rw [bodyAuth2, if_neg (by simp [h]), if_neg hUnequal, tagCount, modTag_mainUp, fieldLane_mainUp]
  cases c.mainUp <;> rfl

theorem bodyAuth2_of_wrong (h : k.afterAuth = true) (hOpens : Crypto.aesDec c.fieldLane.tag.key k.data ≠ c.tag.rndR ++ c.tag.rndT) :
    bodyAuth2 k c = (c.fieldLane.modTag fun t => { t with rndT := [] }).tagFail k := by
  simp [bodyAuth2, h, hOpens]

/-- The answer to GET-PLACARD once its page is read. -/
def placardAnswer (k : TagCall) (v : Chip) (off : Nat) (c : Chip) : Chip :=
  if v.flashBad off 128 then c.tagEnd k.a k.mac [] 0x6F00 else c.tagEnd k.a k.mac (v.flashBytes off 128) 0x9000

theorem bodyPlacard_of_some {p g : Nat} {b : Bytes} (h : k.a.p1 = 0) (hPage : c.tagView.tag.placard = some (p, g, b)) :
    bodyPlacard k c =
      let off := 0x6FC000 + 512 * p + 128 * k.a.p2.toNat
      c.tagFlash k [(0x20000000 + off, 128)] (placardAnswer k c.tagView off) := by
  simp only [bodyPlacard, h, hPage]
  rfl

theorem bodyPlacard_of_program {p g : Nat} {b : Bytes} {off : Nat} {r : RunOp} (h : k.a.p1 = 0) (hPage : c.tagView.tag.placard = some (p, g, b))
    (hOff : off = 0x6FC000 + 512 * p + 128 * k.a.p2.toNat) (hUp : c.mainUp = true) (hReads : c.tagReads [(0x20000000 + off, 128)] = none)
    (hRun : c.cns.run = some r) (hProgram : opPrograms r.op = true) :
    bodyPlacard k c = (readAsked c).modTag fun t => { t with waitRead := some k, waitEnd := t.clock + 64000, out := [] } := by
  subst hOff
  exact (bodyPlacard_of_some h hPage).trans
    (tagFlash_of_program _ _ hUp hReads hRun hProgram ((not_congr tagFlashBlocks_eq_nil).2 (by simp)))

theorem bodyObject_of_store {session : Nat} (hSession : c.tag.session = session) (hUp : c.mainUp = true) (hLoaded : c.cat.loaded = true) :
    bodyObject k c =
      let d := c.modTag fun t => { t with waitCat := some k.a, waitEnd := t.clock + 8000000, out := [] }
      { d with cat := { d.cat with reqs := d.cat.reqs ++ [{
        port := .contactless, tick := c.clk.raw, write := false, idx := leAt k.data 0 2, sub := (k.data.getD 2 0).toNat, data := []
        reply := .obj session (k.data.getD 3 0).toNat }] } } := by
  subst hSession
  rw [bodyObject, if_pos ⟨hUp, hLoaded⟩, request_of_not_order _ _ _ _ _ _ _ (by simp)]
  simp only [modTag, ticksMs, Nat.reduceMul]

theorem bodyMemo_of_taken {session : Nat} (hSession : c.tag.session = session) (hUp : c.mainUp = true) (hLoaded : c.cat.loaded = true)
    (hConfirmed : c.tag.fieldOnly = true → c.start.confirmed = true) :
    bodyMemo k c =
      let d := c.modTag fun t => { t with waitCat := some k.a, waitEnd := t.clock + 24000000, out := [] }
      { d with cat := { d.cat with reqs := d.cat.reqs ++ [{
        port := .contactless, tick := c.clk.raw, write := true, idx := 0x7300, sub := 0x10, data := k.data, reply := .memo session }] } } := by
  subst hSession
  rw [bodyMemo, if_neg (by simpa [hUp, hLoaded] using hConfirmed), request_of_not_order _ _ _ _ _ _ _ (by simp)]
  simp only [modTag, ticksMs, Nat.reduceMul]

end

/-! ## READ-JOURNAL's answer (10 R452) -/

/-- What READ-JOURNAL answers once its slots are read: the bounds of the journal, where the records go on, or the records. -/
def journalAnswer (v : Chip) (s count : Nat) : Bytes :=
  let l := tagRecords v count s
  if count = 0 then
    ([byteOf 0, byteOf 3] : Bytes) ++ leBytes 4 (if v.journalHeads = [] then v.accOldest else v.journalOldest) ++ leBytes 4 v.newestSeq
  else if l = [] then ([byteOf 0, byteOf 1] : Bytes) ++ leBytes 4 (v.heldAbove s) ++ []
  else ([byteOf l.length, byteOf 0] : Bytes) ++ leBytes 4 ((s + l.length) % 4294967296) ++ l.flatten

section

variable {v : Chip} {s n : Nat}

theorem journalAnswer_of_zero (h : n = 0) : journalAnswer v s n =
    ([byteOf 0, byteOf 3] : Bytes) ++ leBytes 4 (if v.journalHeads = [] then v.accOldest else v.journalOldest) ++ leBytes 4 v.newestSeq :=
  if_pos h

theorem journalAnswer_of_unheld (h : n ≠ 0) (hNone : v.tagRecords n s = []) :
    journalAnswer v s n = ([byteOf 0, byteOf 1] : Bytes) ++ leBytes 4 (v.heldAbove s) ++ [] :=
  (if_neg h).trans (if_pos hNone)

theorem journalAnswer_of_held (h : n ≠ 0) (hSome : v.tagRecords n s ≠ []) : journalAnswer v s n =
    let l := v.tagRecords n s
    ([byteOf l.length, byteOf 0] : Bytes) ++ leBytes 4 ((s + l.length) % 4294967296) ++ l.flatten :=
  (if_neg h).trans (if_neg hSome)

end

/-! ## Bodies that answer (10 R441 to R456) -/

section

variable {k : TagCall} {c : Chip} (hMac : k.mac = decide (c.tag.overlay = .securedA))
include hMac

theorem bodySelectApp_eq : bodySelectApp k c =
    tagSays k.a [1, byteOf (bit c.clk.vio + 2 * bit (c.tagPassword ≠ 0))] 0x9000 (c.modTag fun t => { t with selected := true }) :=
  tagEnd_eq_says hMac

theorem bodyPassword_of_right (hSet : c.tagPassword ≠ 0) (hRight : leNat k.data = c.tagPassword) : bodyPassword k c =
    tagSays k.a [] 0x9000 (c.modTag fun t => { t with overlay := if t.overlay = .opened then .securedP else t.overlay }) := by
  rw [bodyPassword, if_pos ⟨hSet, hRight⟩]
  refine tagEnd_eq_says (hMac.trans ?_)
  cases hOverlay : c.tag.overlay <;> simp [hOverlay]

theorem bodyAuth1_eq : bodyAuth1 k c =
    let d := c.fieldLane
    let r := (Crypto.aesEnc d.tag.key (beBytes 8 (Config.tagNoise d.clk.free).toNat ++ k.data)).take 8
    (tagSays k.a (Crypto.aesEnc d.tag.key (r ++ k.data)) 0x9000
      (d.modTag fun t => { t with rndR := k.data, rndT := r, authPend := true })).spend :=
  congrArg spend (tagEnd_eq_says (by simpa using hMac))

theorem bodyAuth2_of_unasked (h : k.afterAuth = false) : bodyAuth2 k c = tagSays k.a [] 0x6985 c := by
  simp [bodyAuth2, h, tagEnd_eq_says hMac]

theorem bodyPlacard_of_status (h : k.a.p1 = 1) : bodyPlacard k c =
    if c.mainUp then tagSays k.a c.statusPayload 0x9000 c else tagSays k.a [] 0x6985 c := by
  simp only [bodyPlacard, if_pos h, tagEnd_eq_says hMac]

theorem bodyPlacard_of_none (h : k.a.p1 = 0) (hNone : c.tagView.tag.placard = none) : bodyPlacard k c = tagSays k.a [] 0x6985 c := by
  simp [bodyPlacard, h, hNone, tagEnd_eq_says hMac]

theorem bodyPlacard_of_readsNow {p g : Nat} {b : Bytes} {off : Nat} (h : k.a.p1 = 0) (hPage : c.tagView.tag.placard = some (p, g, b))
    (hOff : off = 0x6FC000 + 512 * p + 128 * k.a.p2.toNat) (hReads : TagReadsNow c [(0x20000000 + off, 128)]) :
    bodyPlacard k c =
      let read := tagRead [(0x20000000 + off, 128)] c
      if c.tagView.flashBad off 128 then tagSays k.a [] 0x6F00 read else tagSays k.a (c.tagView.flashBytes off 128) 0x9000 read := by
  have hMac' : k.mac = decide ((tagRead [(0x20000000 + off, 128)] c).tag.overlay = .securedA) := by rw [tagRead_tag, hMac]
  subst hOff
  rw [bodyPlacard_of_some h hPage]
  simp only [tagFlash_of_readsNow _ _ hReads, placardAnswer, tagEnd_eq_says hMac']

section

variable {q n : Nat} (hq : q = leAt k.data 0 4) (hn : n = min 7 (k.data.getD 4 0).toNat)
include hq hn

theorem bodyJournal_of_future (h0 : n ≠ 0) (hFuture : seqLt q c.tagView.acc.nextSeq = false) :
    bodyJournal k c = tagSays k.a (([0, 2] : Bytes) ++ leBytes 4 c.tagView.acc.nextSeq) 0x9000 c := by
  subst hq hn
  have hBeyond : 0 < min 7 (k.data.getD 4 0).toNat ∧ (!seqLt (leAt k.data 0 4) c.tagView.acc.nextSeq) = true :=
    ⟨Nat.pos_of_ne_zero h0, by rw [hFuture]; rfl⟩
  rw [bodyJournal, if_pos hBeyond]
  simp only [List.append_nil, tagEnd_eq_says hMac]
  rfl

theorem bodyJournal_of_readsNow {out : Bytes} (hOut : journalAnswer c.tagView q n = out)
    (hPast : n ≠ 0 → seqLt q c.tagView.acc.nextSeq = true) (hReads : TagReadsNow c (c.tagView.journalReads q n)) :
    bodyJournal k c = tagSays k.a out 0x9000 (tagRead (c.tagView.journalReads q n) c) := by
  have hMac' : k.mac = decide ((tagRead (c.tagView.journalReads q n) c).tag.overlay = .securedA) := by rw [tagRead_tag, hMac]
  have hPresent : ¬(0 < n ∧ (!seqLt q c.tagView.acc.nextSeq) = true) := fun h => by simp [hPast (Nat.ne_of_gt h.1)] at h
  subst hq hn hOut
  rw [bodyJournal, if_neg hPresent, tagFlash_of_readsNow _ _ hReads, journalAnswer]
  simp only [tagEnd_eq_says hMac']
  split
  · rfl
  · split <;> rfl

end

section

variable (hField : c.mainUp = false ∨ c.cat.loaded = false)
include hField

omit hMac in
theorem not_storeServes : ¬(c.mainUp = true ∧ c.cat.loaded = true) := by
  rcases hField with h | h <;> simp [h]

theorem bodyObject_of_value {b : Bytes} (hValue : c.fieldObject (leAt k.data 0 2) (k.data.getD 2 0).toNat = .inr b) :
    bodyObject k c = tagSays k.a (([0] : Bytes) ++ leBytes 2 b.length ++ slice b (k.data.getD 3 0).toNat 128) 0x9000 c := by
  simp only [bodyObject, if_neg (not_storeServes hField), hValue, tagEnd_eq_says hMac]

theorem bodyObject_of_abort {code : Nat} (hAbort : c.fieldObject (leAt k.data 0 2) (k.data.getD 2 0).toNat = .inl code) :
    bodyObject k c = tagSays k.a (([1] : Bytes) ++ leBytes 2 code) 0x9000 c := by
  simp only [bodyObject, if_neg (not_storeServes hField), hAbort, tagEnd_eq_says hMac]

end

theorem bodyMemo_of_refused (h : c.mainUp = false ∨ c.cat.loaded = false ∨ (c.tag.fieldOnly = true ∧ c.start.confirmed = false)) :
    bodyMemo k c = tagSays k.a [] 0x6985 c := by
  rw [bodyMemo, if_pos (by simpa [or_comm, or_assoc, or_left_comm] using h), tagEnd_eq_says hMac]

end

/-! ## The delayed answer and the placard (10 R444, R462, R463) -/

theorem tagDelayed_of_due {c : Chip} {b : Bytes} {t : Nat} (h : c.tag.delayed = some (b, t)) (hDue : t ≤ c.tag.clock) :
    c.tagDelayed = tagSend b (c.modTag fun t => { t with delayed := none }) := by
  simp only [tagDelayed, h, if_pos hDue]

theorem addJob_of_powered {c : Chip} (o : FlashOp) (h : c.clk.pfw = false) :
    c.addJob o = { c with cns := { c.cns with rjobs := c.cns.rjobs ++ [o] } } := by
  simp [addJob, modCns, h]

theorem placardWrite_of_held {c : Chip} (h : c.placardPending = true ∨ c.clk.pfw = true ∨ c.start.mode = 0) : c.placardWrite = c := by
  rw [placardWrite, if_pos]
  rcases h with h | h | h <;> simp [h]

/-- The jobs of placard page `p`: the erase of its block where the page begins it, and its program. -/
theorem placardJobs_eq {c : Chip} (p : Nat) (b : Bytes) (hPower : c.clk.pfw = false) :
    (let d := if p % 16 = 0 then c.addJob (.placardErase (placardBlock p)) else c
     (d.addJob (.placardPage p b)).modTag fun t => { t with placardTick := d.clk.raw, placardDue := false }) =
      { c with
        cns := { c.cns with rjobs := c.cns.rjobs ++ (if p % 16 = 0 then [.placardErase (894 + p / 16)] else []) ++ [.placardPage p b] }
        tag := { c.tag with placardTick := c.clk.raw, placardDue := false } } := by
  by_cases hFirst : p % 16 = 0
  · simp [hFirst, addJob_of_powered, hPower, modTag, placardBlock]
  · simp [hFirst, addJob_of_powered, hPower, modTag]

/-- The page after the placard in force, and the generation after its own; page 0 and generation 0 with none. -/
theorem placardWrite_of_due {c : Chip} (hPending : c.placardPending = false) (hPower : c.clk.pfw = false) (hMode : c.start.mode ≠ 0)
    (hDue : c.tag.placardDue = true) : c.placardWrite =
      let p := match c.tag.placard with | some x => (x.1 + 1) % 32 | none => 0
      let g := match c.tag.placard with | some x => (x.2.1 + 1) % 4294967296 | none => 0
      { c with
        cns := { c.cns with rjobs := c.cns.rjobs ++ (if p % 16 = 0 then [.placardErase (894 + p / 16)] else []) ++
          [.placardPage p (c.placardBody g)] }
        tag := { c.tag with placardTick := c.clk.raw, placardDue := false } } := by
  rw [placardWrite, if_neg (by simp [hPending, hPower, hMode, hDue])]
  exact placardJobs_eq _ _ hPower

end Chip

/-! ## Commands of the port -/

/-- A command that is heard has its body's effect. -/
theorem tag_becomes {s : State} {i : Instr} {ins : Byte} {a : Apdu} {data : Bytes} {body : TagCall → Chip → Chip} {f : Chip → Chip}
    (hx : exec i s = .next (s.onChip (Chip.tagCommand ins a body))) (h : TagHears s.dev.chip a ins data)
    (hDefined : Chip.tagInsDefined ins = true) (hAid : ins = 0xA4 → data = Chip.tagAid)
    (hf : body (tagCall a data s.dev.chip) (tagHeard a s.dev.chip) = f s.dev.chip) :
    Becomes s i f :=
  becomes_onChip hx ((Chip.tagCommand_of_hears body h hDefined hAid).trans hf)

/-- What a body is told of the MAC is what an answer to the heard command owes. -/
theorem tagCall_mac (a : Apdu) (data : Bytes) (c : Chip) :
    (tagCall a data c).mac = decide ((tagHeard a c).tag.overlay = .securedA) := by
  simp [tagCall]

/-- Settles O51: a command that is heard is its body at the engine that heard it; a body's failure, its read of flash and its request of
the Catalogue are those of the lemmas above. -/
theorem tagCommands : Obligations.TagCommands := by
  unfold Obligations.TagCommands
  intro s a data c h v tag replies reads failed
  have hMac : (tagCall a data c).mac = decide (h.tag.overlay = .securedA) := tagCall_mac a data c
  have hAnswer : h.tagBytes a [] 0x6300 (tagCall a data c).mac = h.tagBytes a [] 0x6300 (h.tag.overlay = .securedA) := by rw [hMac]
  have hFails : h.tag.fails = c.tag.fails := tagHeard_fails a c
  refine ⟨fun hh hAid => tag_becomes rfl hh rfl (fun _ => hAid) (Chip.bodySelectApp_eq hMac), fun hh => ?password,
    fun hh => tag_becomes rfl hh rfl (by simp) (Chip.bodyAuth1_eq hMac), fun hh => ?auth2, fun hh => ?placard, fun hh => ?journal,
    fun hh => ?object, fun hh => ?memo, fun b t hWaits hDue => becomes_onChip rfl (Chip.tagDelayed_of_due hWaits hDue),
    fun hs hNone hPower hMode hDue => becomes_of hs rfl (Chip.placardWrite_of_due hNone hPower hMode hDue) rfl,
    fun hs hHeld => becomes_of hs rfl (Chip.placardWrite_of_held hHeld) rfl⟩
  case password =>
    have effect {f : Chip → Chip} : Chip.bodyPassword (tagCall a data c) h = f c → Becomes s (.verifyPassword a) f :=
      tag_becomes rfl hh rfl (by simp)
    refine ⟨fun hSet hRight => effect (Chip.bodyPassword_of_right hMac hSet hRight), fun hWrong => ?_⟩
    have hFail := Chip.bodyPassword_of_wrong (k := tagCall a data c) (c := h) hWrong
    exact ⟨fun hFew => effect (hFail.trans (Chip.tagFail_of_unrecorded rfl hAnswer (hFails ▸ hFew))),
      fun hTwo hUp => effect (hFail.trans (Chip.tagFail_of_third rfl hAnswer (hFails.trans hTwo) hUp))⟩
  case auth2 =>
    have effect {f : Chip → Chip} : Chip.bodyAuth2 (tagCall a data c) h = f c → Becomes s (.auth2 a) f :=
      tag_becomes rfl hh rfl (by simp)
    have hProof : Crypto.aesDec h.fieldLane.tag.key data = h.tag.rndR ++ h.tag.rndT ↔
        Crypto.aesDec h.fieldLane.tag.key data = c.tag.rndR ++ c.tag.rndT := by rw [tagHeard_rndR, tagHeard_rndT]
    refine ⟨fun hNone => effect (Chip.bodyAuth2_of_unasked hMac hNone),
      fun hAsked hOpens => effect (Chip.bodyAuth2_of_proof hAsked (hProof.2 hOpens)), fun hAsked hWrong => ?_⟩
    have hFail := Chip.bodyAuth2_of_wrong (k := tagCall a data c) (c := h) hAsked ((not_congr hProof).2 hWrong)
    have hLaneUp : (h.fieldLane.modTag fun t => { t with rndT := [] }).mainUp = c.mainUp := Chip.fieldLane_mainUp h
    have hLaneAnswer : (h.fieldLane.modTag fun t => { t with rndT := [] }).tagBytes a [] 0x6300 (tagCall a data c).mac
      = h.tagBytes a [] 0x6300 (h.tag.overlay = .securedA) := (Chip.tagBytes_fieldLane h a [] 0x6300 _).trans hAnswer
    have hLaneFails : h.fieldLane.tag.fails = c.tag.fails := (Chip.fieldLane_fails h).trans hFails
    exact ⟨fun hFew => effect (hFail.trans (Chip.tagFail_of_unrecorded hLaneUp hLaneAnswer (hLaneFails ▸ hFew))),
      fun hTwo hUp => effect (hFail.trans (Chip.tagFail_of_third hLaneUp hLaneAnswer (hLaneFails.trans hTwo) hUp))⟩
  case placard =>
    have effect {f : Chip → Chip} : Chip.bodyPlacard (tagCall a data c) h = f c → Becomes s (.getPlacard a) f :=
      tag_becomes rfl hh rfl (by simp)
    refine ⟨fun h1 hUp => effect ((Chip.bodyPlacard_of_status hMac h1).trans (if_pos hUp)),
      fun h1 hUp => effect ((Chip.bodyPlacard_of_status hMac h1).trans (if_neg (Bool.eq_false_iff.1 hUp))),
      fun h0 hNone => effect (Chip.bodyPlacard_of_none hMac h0 hNone), fun p g b h0 hPage => ?_⟩
    exact ⟨fun hReads hGood => effect ((Chip.bodyPlacard_of_readsNow hMac h0 hPage rfl hReads).trans (if_neg (Bool.eq_false_iff.1 hGood))),
      fun hReads hBad => effect ((Chip.bodyPlacard_of_readsNow hMac h0 hPage rfl hReads).trans (if_pos hBad)),
      fun r hUp hReads hRun hProgram => effect (Chip.bodyPlacard_of_program h0 hPage rfl hUp hReads hRun hProgram)⟩
  case journal =>
    have effect {f : Chip → Chip} : Chip.bodyJournal (tagCall a data c) h = f c → Becomes s (.readJournal a) f :=
      tag_becomes rfl hh rfl (by simp)
    exact ⟨fun hn hFuture => effect (Chip.bodyJournal_of_future hMac rfl rfl hn hFuture),
      fun hn hReads => effect (Chip.bodyJournal_of_readsNow hMac rfl rfl (Chip.journalAnswer_of_zero hn) (absurd hn) hReads),
      fun hn hPast hNone hReads =>
        effect (Chip.bodyJournal_of_readsNow hMac rfl rfl (Chip.journalAnswer_of_unheld hn hNone) (fun _ => hPast) hReads),
      fun hn hPast hSome hReads =>
        effect (Chip.bodyJournal_of_readsNow hMac rfl rfl (Chip.journalAnswer_of_held hn hSome) (fun _ => hPast) hReads)⟩
  case object =>
    have effect {f : Chip → Chip} : Chip.bodyObject (tagCall a data c) h = f c → Becomes s (.readObject a) f :=
      tag_becomes rfl hh rfl (by simp)
    exact ⟨fun hUp hLoaded => effect (Chip.bodyObject_of_store (tagHeard_session a c) hUp hLoaded),
      fun hField => ⟨fun b hValue => effect (Chip.bodyObject_of_value hMac hField hValue),
        fun code hAbort => effect (Chip.bodyObject_of_abort hMac hField hAbort)⟩⟩
  case memo =>
    have effect {f : Chip → Chip} : Chip.bodyMemo (tagCall a data c) h = f c → Becomes s (.writeMemo a) f :=
      tag_becomes rfl hh rfl (by simp)
    have hFieldOnly : h.tag.fieldOnly = c.tag.fieldOnly := tagHeard_fieldOnly a c
    exact ⟨fun hRefused => effect (Chip.bodyMemo_of_refused hMac (hFieldOnly ▸ hRefused)),
      fun hUp hLoaded hConfirmed => effect (Chip.bodyMemo_of_taken (tagHeard_session a c) hUp hLoaded (hFieldOnly ▸ hConfirmed))⟩

end Sys2Proof.Machine
end
